-- ==== Sys2Proof/Word.lean ====
section
/-! DEFINITION. The words of the part (spec 00, R7): bytes, 32-bit register cells, 64-bit addresses,
lane masks of up to 128 lanes, 128-byte lines. -/

namespace Sys2Proof

/-- A byte of memory. -/
abbrev Byte := BitVec 8
/-- A 32-bit register cell (R158, R160). -/
abbrev Word := BitVec 32
/-- A 64-bit register pair, virtual address or instruction word (R182). -/
abbrev Dword := BitVec 64
/-- A lane mask (R164): bit `l` stands for lane `l`; a warp of width `W` uses bits below `W`. -/
abbrev LaneMask := BitVec 128
/-- The data of a 128-byte line (R16): byte `i` lies in bits `8*i+7` to `8*i`. -/
abbrev Line := BitVec 1024
/-- A nibble mask of a 128-byte line (R69): bit `2*i` for the low nibble of byte `i`. -/
abbrev NibMask := BitVec 256

end Sys2Proof
end

