-- ==== Sys2Proof/Machine/Bits.lean ====
section
/-! DEFINITION. Sorted finite maps, bytes and byte order (R7), lane masks (R164): the plain helpers that
State and the meanings share. -/

namespace Sys2Proof.Machine

/-- A finite map: pairs of key and value, keys strictly rising. -/
abbrev FMap (α : Type) := List (Nat × α)

/-- The value listed at `k`. -/
def mapFind {α : Type} : FMap α → Nat → Option α
  | [], _ => none
  | (k', v) :: r, k => if k = k' then some v else mapFind r k

/-- `m` with `v` at `k`. -/
def mapPut {α : Type} : FMap α → Nat → α → FMap α
  | [], k, v => [(k, v)]
  | (k', v') :: r, k, v =>
    if k < k' then (k, v) :: (k', v') :: r
    else if k = k' then (k, v) :: r
    else (k', v') :: mapPut r k v

/-- `m` without `k`. -/
def mapDel {α : Type} (m : FMap α) (k : Nat) : FMap α := m.filter fun e => e.1 != k

/-- The value at `k` of a map whose unlisted keys read as `d`. -/
def storeGet {α : Type} (d : α) (m : FMap α) (k : Nat) : α := (mapFind m k).getD d

/-- A write to a map whose unlisted keys read as `d`: no entry ever lists `d`. -/
def storeSet {α : Type} [DecidableEq α] (d : α) (m : FMap α) (k : Nat) (v : α) : FMap α :=
  if v = d then mapDel m k else mapPut m k v

/-- Keys strictly rising, each above `lo`. -/
def mapSorted {α : Type} : Option Nat → FMap α → Bool
  | _, [] => true
  | none, (k, _) :: r => mapSorted (some k) r
  | some lo, (k, _) :: r => decide (lo < k) && mapSorted (some k) r

/-- The canonical form of a map with default `d`: keys strictly rising, no entry equal to `d`. -/
def storeWf {α : Type} [DecidableEq α] (d : α) (m : FMap α) : Bool :=
  mapSorted none m && m.all fun e => decide (e.2 ≠ d)

/-- The die of a core (R12): 96 cores a die; the host cores' caches have the numbers from 864 up, 8 a die (R401, log 9). -/
def coreDie (c : Nat) : Nat := if c < 864 then c / 96 else (c - 864) / 8

/-- The cache of a host core by hart ID. -/
def hartCore (hart : Nat) : Nat := 864 + hart

/-- `l` with the element at position `i` replaced by `f` of it. -/
def listModify {α : Type} (f : α → α) : List α → Nat → List α
  | [], _ => []
  | a :: r, 0 => f a :: r
  | a :: r, i + 1 => a :: listModify f r i

/-- `l` without the element at position `i`. -/
def listRemove {α : Type} : List α → Nat → List α
  | [], _ => []
  | _ :: r, 0 => r
  | a :: r, i + 1 => a :: listRemove r i

/-- The position of the first element that meets `p`. -/
def listIndex {α : Type} (p : α → Bool) : List α → Option Nat
  | [] => none
  | a :: r => if p a then some 0 else (listIndex p r).map (· + 1)

/-- `n` bytes of a number, the least significant first (R7). -/
def leBytes : Nat → Nat → List Byte
  | 0, _ => []
  | n + 1, x => BitVec.ofNat 8 x :: leBytes n (x / 256)

/-- The number that bytes stand for, the least significant first (R7). -/
def leNat : List Byte → Nat
  | [] => 0
  | b :: r => b.toNat + 256 * leNat r

/-- Bits `[hi:lo]` of a number. -/
def bitsOf (x hi lo : Nat) : Nat := (x / 2 ^ lo) % 2 ^ (hi + 1 - lo)

/-- Bit `i` of a number. -/
def bitOf (x i : Nat) : Bool := (x / 2 ^ i) % 2 == 1

/-- The signed value of the low `n` bits of `x` (two's complement). -/
def signedOf (n x : Nat) : Int :=
  if x % 2 ^ n < 2 ^ (n - 1) then (x % 2 ^ n : Nat) else (x % 2 ^ n : Nat) - (2 ^ n : Nat)

/-- An integer modulo `2^n`, as a number. -/
def wrapTo (n : Nat) (x : Int) : Nat := (x % (2 ^ n : Nat)).toNat

/-- The next multiple of `k` at or above `x`. -/
def roundUp (x k : Nat) : Nat := (x + k - 1) / k * k

/-- The mask of the lanes below `w`. -/
def laneAll (w : Nat) : LaneMask := BitVec.ofNat 128 (2 ^ w - 1)

/-- Whether lane `l` is in the mask. -/
def laneIn (m : LaneMask) (l : Nat) : Bool := m.getLsbD l

/-- The mask of lane `l` alone. -/
def laneBit (l : Nat) : LaneMask := BitVec.ofNat 128 (2 ^ l)

/-- The lanes of a mask below `w`, in ascending order. -/
def lanesOf (w : Nat) (m : LaneMask) : List Nat := (List.range w).filter (laneIn m)

/-- The lowest lane of a mask below `w`. -/
def lowestLane (w : Nat) (m : LaneMask) : Option Nat := (lanesOf w m).head?

/-- The number of lanes of a mask below `w`. -/
def laneCount (w : Nat) (m : LaneMask) : Nat := (lanesOf w m).length

/-- The mask of a list of lanes. -/
def laneMaskOf (ls : List Nat) : LaneMask := ls.foldl (fun m l => m ||| laneBit l) 0

/-- A pair of 32-bit cells as 64 bits, the low word first (R30). -/
def pairOf (lo hi : Word) : Dword := hi ++ lo

/-- The low word of 64 bits. -/
def loWord (x : Dword) : Word := x.extractLsb' 0 32

/-- The high word of 64 bits. -/
def hiWord (x : Dword) : Word := x.extractLsb' 32 32

/-- Byte `i` of a line. -/
def lineByte (d : Line) (i : Nat) : Byte := d.extractLsb' (8 * i) 8

/-- A line with the nibbles of `mask` taken from `new` and the others from `old` (R69). -/
def lineMerge (old new : Line) (mask : NibMask) : Line :=
  BitVec.ofNat 1024 <|
    (List.range 256).foldr (fun i acc =>
      acc * 16 + ((if mask.getLsbD i then new else old).extractLsb' (4 * i) 4).toNat) 0

/-- The nibble mask of `n` whole bytes from byte `i` of a line. -/
def nibBytes (i n : Nat) : NibMask := BitVec.ofNat 256 ((2 ^ (2 * n) - 1) * 2 ^ (2 * i))

/-- The nibble mask of a set of sectors (8 bits, sector `i` of 16 bytes). -/
def nibSectors (s : Byte) : NibMask :=
  (List.range 8).foldl (fun m i => if s.getLsbD i then m ||| nibBytes (16 * i) 16 else m) 0

/-- The sectors that a nibble mask touches. -/
def sectorsOf (m : NibMask) : Byte :=
  (List.range 8).foldl (fun s i =>
    if m &&& nibBytes (16 * i) 16 = 0 then s else s ||| BitVec.ofNat 8 (2 ^ i)) 0

/-- A line holding `x`, little-endian, from byte `i`. -/
def linePlace (i : Nat) (x : Nat) : Line := BitVec.ofNat 1024 (x * 2 ^ (8 * i))

end Sys2Proof.Machine
end

