-- ==== Sys2Proof/Config.lean ====
section
/-! DEFINITION. What an implementation or the boot configuration fixes, and the free values of the
model: constants with no body, so that no proof can rest on what they are (notes/assumptions/2.md). -/

namespace Sys2Proof.Config

/-- The boot settings of the Attic (R27). -/
inductive AtticSize where
  | sixteenth | eighth | quarter
  deriving DecidableEq, Repr

/-- DESIGN CHOICE (free value, log 2): the mode of die 4's port at the boot before `State.reset` (R402, R415 PORTMODE): `true`
for root. Later boots and module resets set it. -/
opaque portRoot : Bool

/-- DESIGN CHOICE (free value, log 2): the ticks that the Cellar takes for a request once it is served, its transfer included:
of the tick, the line and the class (R116 measures it, no rule gives it). -/
opaque serviceTicks : Nat → Nat → Nat → Nat

/-- DESIGN CHOICE (free value, log 2): a byte that has been lost to an uncorrectable error and that no other copy backs, by the
tick, the place and the offset (R101). -/
opaque lostByte : Nat → Nat → Nat → BitVec 8

/-- DESIGN CHOICE (free value, log 2): whether a warp runs the word that it had fetched before a store changed it (R33); by the
counter of fresh values. -/
opaque staleCode : Nat → Bool

/-- DESIGN CHOICE (free value, log 2): which of the values allowed by R246's bound a transcendental
delivers for an operand; the opcode is R238's number. -/
opaque transPick : Nat → BitVec 32 → Nat

/-- DESIGN CHOICE (free value, log 2): which of the values within R371's bound the level of detail takes: of log2 of the
squared length and LODBIAS. -/
opaque lodPick : Int → BitVec 32 → Nat

/-- DESIGN CHOICE (free value, log 2): the texel position, in 1/256 of a texel, of a coordinate that is infinite (its sign),
for a size (R371). -/
opaque farTexel : Bool → Nat → Int

/-- DESIGN CHOICE (free value, log 2): a fresh choice among finitely many outcomes, applied to the
counter that the step advances (DQSTEAL.any's victim, R356; the outcomes of R270 and R363). -/
opaque freshPick : Nat → Nat

/-- DESIGN CHOICE (free value, log 2): the P-384 signature, 96 bytes as a number, of a die's identity
key over the first 120 bytes of an attestation report (R412). -/
opaque attestSign : Nat → List (BitVec 8) → Nat

/-- DESIGN CHOICE (free value, log 2): whether an ECDSA P-384 signature verifies under the key of a
life-cycle state (R411). -/
opaque signatureOk : Nat → List (BitVec 8) → Bool

/-- DESIGN CHOICE (free value, log 2): the measurement log entry of a boot configuration block, 0 the Attic setting and 1
PORTMODE, by its setting (R412). -/
opaque bootBlock : Nat → Nat → List (BitVec 8)

/-- DESIGN CHOICE (free value, log 2): a byte of the source of another module's member of a collective, by match,
rank and offset (R326, R404). -/
opaque memberByte : Nat → Nat → Nat → BitVec 8

/-- DESIGN CHOICE (free value, log 2): CORE, UNIT, SIDE and WHERE (field 0 to 3) of the fault records of units for which
R47 gives none: a latch update (unit 0), the graph engine (unit 1), a frame job (unit 2). -/
opaque partRecord : Nat → Nat → BitVec 64

/-- DESIGN CHOICE (free value, log 2): a byte of a save image, by the save and the offset: R391 gives the image's parts and
sizes, not where each field lies in them. -/
opaque saveByte : Nat → Nat → BitVec 8

end Sys2Proof.Config
end

