-- ==== Sys2Proof/Syntax.lean ====
section
/-! DEFINITION. The instructions and events of the part: one constructor of `Instr` for each row of
spec/opcode_table.json. The rows of the ten instruction formats carry the operand fields of R185 to
R197, and each of them has a word; the other rows are steps of the part's other agents and of its
host (95_what_each_step_holds), which have no word and carry what tells one occurrence from another.

The operand fields keep the codes of their field maps; an opcode is a constructor. Fields that a
field map marks MBZ in every word of the format (V3 bit 63, XL bits 63, 62 and 47) are not kept:
decoding refuses a word that sets them. -/

namespace Sys2Proof

/-- The operand fields of a V3 word, and of word 0 of a LONG form (R185, R188). -/
structure V3F where
  nb : Bool
  na : Bool
  ginv : Bool
  gs : BitVec 8
  gen : Bool
  ty : BitVec 3
  sat : Bool
  rnd : BitVec 3
  bsel : BitVec 2
  vb : BitVec 10
  va : BitVec 10
  vd : BitVec 10
  deriving DecidableEq, Repr

/-- The operand fields of an XL word (R189). -/
structure XlF where
  tos : Bool
  ginv : Bool
  gs : BitVec 8
  gen : Bool
  ty : BitVec 3
  g : BitVec 3
  bsel : BitVec 2
  vb : BitVec 10
  va : BitVec 10
  vd : BitVec 10
  deriving DecidableEq, Repr

/-- The operand fields of an S3 word (R190). `imm` is bits [60:29] whatever `isimm` says: with
`isimm` false, `sb` is `imm[7:0]` and SLEA's scale `imm[10:8]`. -/
structure S3F where
  ty : BitVec 3
  imm : Word
  isimm : Bool
  sa : BitVec 8
  sd : BitVec 8
  deriving DecidableEq, Repr

/-- The operand fields of an SB word (R191). -/
structure SbF where
  off : BitVec 32
  cond : BitVec 4
  sb : BitVec 8
  sa : BitVec 8
  deriving DecidableEq, Repr

/-- The operand fields of an SM word (R192). -/
structure SmF where
  off : BitVec 30
  scope : BitVec 3
  size : BitVec 3
  sbase : BitVec 8
  sd : BitVec 8
  deriving DecidableEq, Repr

/-- The operand fields of a VM word (R193). -/
structure VmF where
  hint : BitVec 3
  ginv : Bool
  gs : BitVec 8
  gen : Bool
  cnt : BitVec 3
  scope : BitVec 3
  space : BitVec 2
  size : BitVec 3
  sbase : BitVec 8
  voff : BitVec 10
  vdata : BitVec 10
  deriving DecidableEq, Repr

/-- The operand fields of an SY word (R194). -/
structure SyF where
  imm : BitVec 21
  scope : BitVec 3
  kind : BitVec 4
  sc : BitVec 8
  sb : BitVec 8
  sa : BitVec 8
  deriving DecidableEq, Repr

/-- The operand fields of an EN word (R195). -/
structure EnF where
  imm : BitVec 17
  sx : BitVec 8
  sl : BitVec 8
  cs : Bool
  vf : BitVec 10
  sc : BitVec 8
  deriving DecidableEq, Repr

/-- The operand fields of a WQ word (R196); FUSE's off20 is `vb` followed by `va`. -/
structure WqF where
  imm : BitVec 8
  sD : BitVec 8
  sB : BitVec 8
  sA : BitVec 8
  vb : BitVec 10
  va : BitVec 10
  deriving DecidableEq, Repr

/-- The operand fields of a GX word (R197). -/
structure GxF where
  flags : BitVec 3
  ginv : Bool
  gs : BitVec 8
  gen : Bool
  mode : BitVec 3
  saux : BitVec 8
  sdesc : BitVec 8
  va : BitVec 10
  vd : BitVec 10
  deriving DecidableEq, Repr

/-- A requester that can be parked (R45, R46): a path of a warp, named by the warp's number in the
model and the PC of its parked instruction, a job of an engine queue (or an update or a graph of the part, by its number),
or a die's frame job. -/
inductive Requester where
  | path (warp : Nat) (pc : Dword)
  | job (job : Nat)
  | frame (die : Nat)
  deriving DecidableEq, Repr

/-- Where a FrameEdge message comes from (R405): an external port (0 to 17), or the module's own
management die, for the die that receives it. -/
inductive EdgeMsg where
  /-- A message on an external port with its frame number and the lead that remains, in ticks. -/
  | port (port : Nat) (frame : Word) (lead : Nat)
  /-- The control message to a die of the module. -/
  | inside (die : Nat) (frame : Word) (lead : Nat)
  deriving DecidableEq, Repr

/-- What a host core or a PCIe or CXL peer does to memory (R146, R401, R402). -/
inductive HostOp where
  /-- A load of `size` bytes. -/
  | load
  /-- A fetch of `size` bytes. -/
  | fetch
  /-- A store of the bytes given. -/
  | store
  /-- An atomic operation on 4 or 8 bytes: 0 swap, 1 add, 2 and, 3 or, 4 xor, 5 min, 6 max, both signed, 7 min, 8 max, both
  without a sign. -/
  | amo (op : Nat)
  /-- A PCIe No-Snoop read (R402). -/
  | noSnoop
  /-- The operating system takes a hart offline, and online again (R393). -/
  | offline | online
  /-- The driver sets the vector of a source of interrupts, and the hart whose IMSIC takes them (R401): 0 fault queues, 1 graphs, whose
  vectors come with them, 2 the error interrupt, 3 the machine check, 4 frame lock, 5 power steps. -/
  | vector (source vector hart : Nat)
  deriving DecidableEq, Repr

/-- Who makes an access (R96, R401, R402): a hart by its ID; a PCIe or CXL peer, at a physical address; a peer of the port as an
endpoint, at an offset in BAR0. -/
inductive HostAgent where
  | hart (id : Nat)
  | peer
  | bar0
  deriving DecidableEq, Repr

/-- One access of a host core or peer (R146, R401): to a physical address, or of a host core to a virtual one, by the page tables of a
context slot. -/
structure HostAccess where
  op : HostOp
  agent : HostAgent
  pa : BitVec 48
  via : Option (Nat × BitVec 64)
  size : Nat
  data : List Byte
  acquire : Bool
  release : Bool
  deriving DecidableEq, Repr

/-- A value stored to RSTCMD (R393), and what happens of it: the store, `step` 0, or a step of the reset that it began (R394). -/
structure WarmCmd where
  value : Dword
  step : Nat
  deriving DecidableEq, Repr

/-- The settings of a boot or module reset (R27, R402, R411): the Attic's, and whether die 4's port works as root. -/
structure BootSetup where
  attic : Config.AtticSize
  root : Bool
  deriving DecidableEq, Repr

/-- The instructions and events of the part. -/
inductive Instr where
  /-- VMOV (R239). Copies operand b into vd in every active lane. -/
  | vmov (f : V3F)
  /-- VADD (R239). Adds operands a and b per element, wrapping or saturating for integers and rounding once for floats. -/
  | vadd (f : V3F)
  /-- VSUB (R239). Subtracts operand b from operand a per element. -/
  | vsub (f : V3F)
  /-- VMUL (R239). Multiplies operands a and b per element, keeping the low bits for integers. -/
  | vmul (f : V3F)
  /-- VMULH (R239). Writes the high half of each integer element product. -/
  | vmulh (f : V3F)
  /-- VMAD (R239). Computes A times B plus the old vd, fused and rounded once for floats. -/
  | vmad (f : V3F)
  /-- VMIN (R239). Writes the element minimum, minimumNumber for floats. -/
  | vmin (f : V3F)
  /-- VMAX (R239). Writes the element maximum, maximumNumber for floats. -/
  | vmax (f : V3F)
  /-- VABS (R242). Writes the absolute value of B, clearing only the sign bit for floats. -/
  | vabs (f : V3F)
  /-- VNEG (R242). Writes minus B, inverting only the sign bit for floats. -/
  | vneg (f : V3F)
  /-- VAND (R239). Bitwise AND of operands a and b. -/
  | vand (f : V3F)
  /-- VOR (R239). Bitwise OR of operands a and b. -/
  | vor (f : V3F)
  /-- VXOR (R239). Bitwise XOR of operands a and b. -/
  | vxor (f : V3F)
  /-- VNOT (R239). Bitwise complement of operand b. -/
  | vnot (f : V3F)
  /-- VSHL (R239). Shifts A left by B mod the element width. -/
  | vshl (f : V3F)
  /-- VSHR (R239). Shifts A right logically by B mod the element width. -/
  | vshr (f : V3F)
  /-- VSAR (R239). Shifts A right arithmetically by B mod the element width. -/
  | vsar (f : V3F)
  /-- VROT (R239). Rotates A left by B mod the element width. -/
  | vrot (f : V3F)
  /-- VBFE (R239). Extracts a bit field of A described by the lane's operand b. -/
  | vbfe (f : V3F)
  /-- VBFI (R239). Inserts A into a bit field of the old vd described by operand b. -/
  | vbfi (f : V3F)
  /-- VPOPC (R239). Counts the set bits of B. -/
  | vpopc (f : V3F)
  /-- VCLZ (R239). Counts the leading zero bits of B. -/
  | vclz (f : V3F)
  /-- VBREV (R239). Reverses the bit order of B. -/
  | vbrev (f : V3F)
  /-- VADD64 (R239). Adds two 64-bit register pairs modulo 2^64. -/
  | vadd64 (f : V3F)
  /-- VSUB64 (R239). Subtracts two 64-bit register pairs modulo 2^64. -/
  | vsub64 (f : V3F)
  /-- VMULW (R239). Writes the full 64-bit product of two 32-bit operands to a pair. -/
  | vmulw (f : V3F)
  /-- VSEL (R240). Writes A or B per lane according to the guard bit, acting on exec alone. -/
  | vsel (f : V3F)
  /-- VCMP_EQ (R244). Writes a mask group of lanes where A equals B. -/
  | vcmpEq (f : V3F)
  /-- VCMP_NE (R244). Writes a mask group of lanes where A differs from B or is unordered. -/
  | vcmpNe (f : V3F)
  /-- VCMP_LT (R244). Writes a mask group of lanes where A is less than B. -/
  | vcmpLt (f : V3F)
  /-- VCMP_LE (R244). Writes a mask group of lanes where A is at most B. -/
  | vcmpLe (f : V3F)
  /-- VCMP_GT (R244). Writes a mask group of lanes where A is greater than B. -/
  | vcmpGt (f : V3F)
  /-- VCMP_GE (R244). Writes a mask group of lanes where A is at least B. -/
  | vcmpGe (f : V3F)
  /-- VCMP_UO (R244). Writes a mask group of lanes where either f32 operand is NaN. -/
  | vcmpUo (f : V3F)
  /-- VCMP_OR (R244). Writes a mask group of lanes where neither f32 operand is NaN. -/
  | vcmpOr (f : V3F)
  /-- VCLASS (R245). Writes a one-hot class mask of each f32 operand. -/
  | vclass (f : V3F)
  /-- VRCP (R246). Computes 1/x within 1 ulp. -/
  | vrcp (f : V3F)
  /-- VRSQ (R246). Computes 1/sqrt(x) within 1 ulp. -/
  | vrsq (f : V3F)
  /-- VSQRT (R246). Computes a correctly rounded square root. -/
  | vsqrt (f : V3F)
  /-- VEXP2 (R246). Computes 2^x within 2 ulp. -/
  | vexp2 (f : V3F)
  /-- VLOG2 (R246). Computes log2 x within 2 ulp. -/
  | vlog2 (f : V3F)
  /-- VSIN (R246). Computes sin(pi x) within 2 ulp. -/
  | vsin (f : V3F)
  /-- VCOS (R246). Computes cos(pi x) within 2 ulp. -/
  | vcos (f : V3F)
  /-- VDIV (R246). Computes a correctly rounded a/b. -/
  | vdiv (f : V3F)
  /-- VTANH (R246). Computes tanh x within 3 ulp. -/
  | vtanh (f : V3F)
  /-- CVT (R248). Converts one element per lane between the format codes named in its control field. -/
  | cvt (f : V3F)
  /-- PACK8 (R249). Converts four registers into the four bytes of vd. -/
  | pack8 (f : V3F)
  /-- UNPK8 (R249). Converts the four bytes of a register exactly into four registers. -/
  | unpk8 (f : V3F)
  /-- PACK4 (R250). Encodes eight f32 registers as E2M1 nibbles under an E8M0 scale. -/
  | pack4 (f : V3F)
  /-- UNPK4 (R250). Decodes eight E2M1 nibbles under an E8M0 scale into eight registers. -/
  | unpk4 (f : V3F)
  /-- VDOT4 (R251). Accumulates a four-byte integer dot product into vd. -/
  | vdot4 (f : V3F)
  /-- VDOT2 (R251). Accumulates a two-element dot product into vd. -/
  | vdot2 (f : V3F)
  /-- VIDX (R253). Writes each active lane an index value chosen by a constant selector. -/
  | vidx (f : V3F)
  /-- VMAD4 (R252). LONG form computing A times B plus operand c without reading the old vd. -/
  | vmad4 (f : V3F) (csel : BitVec 2) (vc : BitVec 10)
  /-- LONG_IMMEDIATE_FORM (R188). LONG OP 0x80+n executes V3 OP n with a 32-bit immediate as operand b. -/
  | longImmediateForm (op : BitVec 7) (f : V3F) (imm : Word)
  /-- SHFL (R256). Reads operand a from sub-group member given by the lane's index. -/
  | shfl (f : XlF)
  /-- SHFLX (R256). Reads operand a from the member at own index XOR the mask. -/
  | shflx (f : XlF)
  /-- SHFLUP (R256). Reads operand a from the member delta below. -/
  | shflup (f : XlF)
  /-- SHFLDN (R256). Reads operand a from the member delta above. -/
  | shfldn (f : XlF)
  /-- BCST (R256). Broadcasts operand a of one member to the sub-group. -/
  | bcst (f : XlF)
  /-- REDADD (R257). Sums the sub-group in a fixed tree. -/
  | redadd (f : XlF)
  /-- REDMIN (R257). Reduces the sub-group to its minimum. -/
  | redmin (f : XlF)
  /-- REDMAX (R257). Reduces the sub-group to its maximum. -/
  | redmax (f : XlF)
  /-- REDAND (R257). Reduces the sub-group with bitwise AND. -/
  | redand (f : XlF)
  /-- REDOR (R257). Reduces the sub-group with bitwise OR. -/
  | redor (f : XlF)
  /-- REDXOR (R257). Reduces the sub-group with bitwise XOR. -/
  | redxor (f : XlF)
  /-- SCAN (R257). Inclusive prefix sum over the sub-group. -/
  | scan (f : XlF)
  /-- SCANX (R257). Exclusive prefix sum over the sub-group. -/
  | scanx (f : XlF)
  /-- SCANMAX (R257). Inclusive prefix maximum over the sub-group. -/
  | scanmax (f : XlF)
  /-- VOTE (R258). Writes the ballot of nonzero operands as a lane mask. -/
  | vote (f : XlF)
  /-- MATCH (R258). Writes each lane the mask of members with an equal operand. -/
  | matchLanes (f : XlF)
  /-- DDX (R383). Writes the horizontal quad difference of operand b. -/
  | ddx (f : XlF)
  /-- DDY (R383). Writes the vertical quad difference of operand b. -/
  | ddy (f : XlF)
  /-- SMOV (R214). Copies operand b to a scalar register. -/
  | smov (f : S3F)
  /-- SADD (R214). Scalar add. -/
  | sadd (f : S3F)
  /-- SSUB (R214). Scalar subtract. -/
  | ssub (f : S3F)
  /-- SMUL (R214). Scalar multiply, low bits or rounded f32 product. -/
  | smul (f : S3F)
  /-- SMULH (R214). High half of the scalar integer product. -/
  | smulh (f : S3F)
  /-- SDIV (R215). Scalar integer division rounded toward zero. -/
  | sdiv (f : S3F)
  /-- SREM (R215). Scalar integer remainder with the sign of the dividend. -/
  | srem (f : S3F)
  /-- SMIN (R214). Scalar minimum. -/
  | smin (f : S3F)
  /-- SMAX (R214). Scalar maximum. -/
  | smax (f : S3F)
  /-- SAND (R214). Scalar bitwise AND. -/
  | sand (f : S3F)
  /-- SOR (R214). Scalar bitwise OR. -/
  | sor (f : S3F)
  /-- SXOR (R214). Scalar bitwise XOR. -/
  | sxor (f : S3F)
  /-- SSHL (R214). Scalar shift left. -/
  | sshl (f : S3F)
  /-- SSHR (R214). Scalar logical shift right. -/
  | sshr (f : S3F)
  /-- SSAR (R214). Scalar arithmetic shift right. -/
  | ssar (f : S3F)
  /-- SROT (R214). Scalar rotate left. -/
  | srot (f : S3F)
  /-- SBFE (R216). Scalar bit-field extract. -/
  | sbfe (f : S3F)
  /-- SBFI (R216). Scalar bit-field insert into the destination. -/
  | sbfi (f : S3F)
  /-- SPOPC (R214). Scalar population count. -/
  | spopc (f : S3F)
  /-- SCLZ (R214). Scalar count of leading zeros. -/
  | sclz (f : S3F)
  /-- SFFS (R214). Index of the lowest set bit, all ones for zero. -/
  | sffs (f : S3F)
  /-- SLEA (R218). Computes A plus B shifted by a scale. -/
  | slea (f : S3F)
  /-- SSET_EQ (R219). Writes 1 when A equals B, else 0. -/
  | ssetEq (f : S3F)
  /-- SSET_NE (R219). Writes 1 when A differs from B or is unordered. -/
  | ssetNe (f : S3F)
  /-- SSET_LT (R219). Writes 1 when A is less than B. -/
  | ssetLt (f : S3F)
  /-- SSET_LE (R219). Writes 1 when A is at most B. -/
  | ssetLe (f : S3F)
  /-- SSET_GT (R219). Writes 1 when A is greater than B. -/
  | ssetGt (f : S3F)
  /-- SSET_GE (R219). Writes 1 when A is at least B. -/
  | ssetGe (f : S3F)
  /-- SSET_UO (R219). Writes 1 when either f32 operand is NaN. -/
  | ssetUo (f : S3F)
  /-- SSET_OR (R219). Writes 1 when neither f32 operand is NaN. -/
  | ssetOr (f : S3F)
  /-- MAND (R220). AND of two mask groups. -/
  | mand (f : S3F)
  /-- MOR (R220). OR of two mask groups. -/
  | mor (f : S3F)
  /-- MXOR (R220). XOR of two mask groups. -/
  | mxor (f : S3F)
  /-- MANDN (R220). A AND NOT B of two mask groups. -/
  | mandn (f : S3F)
  /-- MNOT (R220). Complement of a mask group over the warp's width. -/
  | mnot (f : S3F)
  /-- MCNT (R220). Counts the set bits of a mask group. -/
  | mcnt (f : S3F)
  /-- MFIRST (R220). Index of the lowest set bit of a mask group. -/
  | mfirst (f : S3F)
  /-- MLIVE (R220). Writes the live mask to a group. -/
  | mlive (f : S3F)
  /-- MEXEC (R220). Writes the running path's exec to a group. -/
  | mexec (f : S3F)
  /-- MSETX (R221). Sets exec of the running path, setting other lanes aside. -/
  | msetx (f : S3F)
  /-- SGETR (R222). Reads a special register into scalar registers. -/
  | sgetr (f : S3F)
  /-- SSETR (R222). Writes a special register from scalar registers. -/
  | ssetr (f : S3F)
  /-- SMODE (R223). Reads and selectively changes MODE in one step. -/
  | smode (f : S3F)
  /-- BRA (R227). Branches the running path when a scalar condition holds. -/
  | bra (f : SbF)
  /-- BRD (R166). Divergent branch that parks the taken lanes and runs the rest. -/
  | brd (f : SbF)
  /-- BRX (R229). Indirect branch through a register pair, optionally writing a link. -/
  | brx (f : SbF)
  /-- CALL (R230). Writes PC+8 to a link pair and branches. -/
  | call (f : SbF)
  /-- RET (R230). Continues at the address in a link pair. -/
  | ret (f : SbF)
  /-- EXIT (R169). Removes the selected lanes from live, exec and helper and re-evaluates joins and barriers. -/
  | exitLanes (f : SbF)
  /-- TRAP (R232). Raises software TRAP with an immediate. -/
  | trapInstr (f : SbF)
  /-- TRET (R233). Returns from handler mode, re-executing or skipping the trapping instruction. -/
  | tret (f : SbF)
  /-- BRK (R232). Raises breakpoint with an immediate. -/
  | brk (f : SbF)
  /-- SKIP (R234). Unconditional jump used to pass over a literal pool. -/
  | skip (f : SbF)
  /-- JOIN (R167). Reconverges lanes, parking until every required live lane has arrived. -/
  | joinInstr (f : SbF)
  /-- NOP (R234). Does nothing. -/
  | nop (f : SbF)
  /-- SLD (R271). Loads 1 to 16 words from global memory into scalar registers. -/
  | sld (f : SmF)
  /-- SST (R271). Stores 1 to 16 scalar registers to global memory. -/
  | sst (f : SmF)
  /-- SLDL (R236). Loads scalar registers from code at a PC-relative address. -/
  | sldl (f : SmF)
  /-- SATOM (R272). Performs one scalar atomic read-modify-write in global memory. -/
  | satom (f : SmF)
  /-- SPREF (R273). Prefetches the lines of a scalar range into L1 and L2. -/
  | spref (f : SmF)
  /-- LD (R264). Loads one element per active lane. -/
  | ld (f : VmF)
  /-- ST (R265). Stores one element per active lane. -/
  | st (f : VmF)
  /-- STN4 (R266). Stores one FP4 nibble per active lane. -/
  | stn4 (f : VmF)
  /-- LDW (R267). Loads a block of registers per lane. -/
  | ldw (f : VmF)
  /-- STW (R267). Stores a block of registers per lane in ascending chunks. -/
  | stw (f : VmF)
  /-- ATOM_ADD (R268). Atomic integer add per lane. -/
  | atomAdd (f : VmF)
  /-- ATOM_FADD (R269). Atomic f32 add per lane. -/
  | atomFadd (f : VmF)
  /-- ATOM_MIN (R268). Atomic signed minimum per lane. -/
  | atomMin (f : VmF)
  /-- ATOM_MAX (R268). Atomic signed maximum per lane. -/
  | atomMax (f : VmF)
  /-- ATOM_AND (R268). Atomic AND per lane. -/
  | atomAnd (f : VmF)
  /-- ATOM_OR (R268). Atomic OR per lane. -/
  | atomOr (f : VmF)
  /-- ATOM_XOR (R268). Atomic XOR per lane. -/
  | atomXor (f : VmF)
  /-- ATOM_EXCH (R268). Atomic exchange per lane. -/
  | atomExch (f : VmF)
  /-- ATOM_CAS (R268). Atomic compare-and-swap per lane. -/
  | atomCas (f : VmF)
  /-- ATOM_INC (R268). Atomic wrapping increment per lane. -/
  | atomInc (f : VmF)
  /-- ATOM_DEC (R268). Atomic wrapping decrement per lane. -/
  | atomDec (f : VmF)
  /-- ATOM_FADDBF (R269). Atomic bf16 or bf16x2 add per lane. -/
  | atomFaddbf (f : VmF)
  /-- PREF (R270). Prefetches each lane's line without faulting. -/
  | pref (f : VmF)
  /-- CLEAN (R270). Writes each lane's dirty line to L2 or to memory by scope. -/
  | clean (f : VmF)
  /-- DROP (R270). Invalidates each lane's line and discards its dirty data by scope. -/
  | drop (f : VmF)
  /-- BAR (R171). Parks the path at a workgroup barrier. -/
  | bar (f : SyF)
  /-- BARC (R171). Parks the path at a cluster barrier. -/
  | barc (f : SyF)
  /-- BARD (R171). Parks the path at a launch-wide barrier over every die. -/
  | bard (f : SyF)
  /-- WAITC (R276). Continues only when the selected in-flight counter is at most m, else parks. -/
  | waitc (f : SyF)
  /-- WAITB (R278). Waits for a barrier object's PHASE to differ from the operand. -/
  | waitb (f : SyF)
  /-- ACQ (R135). Acquires a latch, waiting until its value meets the condition. -/
  | acq (f : SyF)
  /-- REL (R131). Waits for bound stores then updates the latch value as a release. -/
  | rel (f : SyF)
  /-- BIND (R280). Writes a region-table entry binding a region to a latch. -/
  | bindRegion (f : SyF)
  /-- UNBIND (R280). Clears a region-table entry. -/
  | unbindRegion (f : SyF)
  /-- FENCE (R136). Stalls until earlier loads, stores or both are performed at a scope. -/
  | fence (f : SyF)
  /-- NAP (R282). Parks the path for at least c clocks. -/
  | nap (f : SyF)
  /-- YIELD (R282). Parks the path and makes the warp youngest in its partition. -/
  | yield (f : SyF)
  /-- ARRB (R278). Fences stores then counts a barrier object down. -/
  | arrb (f : SyF)
  /-- MLOADW (R312). Queues a job loading a weight tile into the shadow plane. -/
  | mloadw (f : EnF)
  /-- MFLIP (R313). Queues a job exchanging the active and shadow planes. -/
  | mflip (f : EnF)
  /-- MSTREAM (R314). Queues a job streaming activation rows through the active plane. -/
  | mstream (f : EnF)
  /-- MNEST (R321). Queues a job running a nest table of loads, streams and drains. -/
  | mnest (f : EnF)
  /-- MDRAIN (R316). Queues a job converting accumulator rows and writing them out. -/
  | mdrain (f : EnF)
  /-- MZERO (R315). Queues a job clearing accumulator rows. -/
  | mzero (f : EnF)
  /-- CPY (R324). Queues a copy job described by a job card. -/
  | cpy (f : EnF)
  /-- GATH (R325). Queues a gather job through an index list. -/
  | gath (f : EnF)
  /-- COLL (R326). Queues one participant's step of a collective. -/
  | coll (f : EnF)
  /-- SPLIT (R173). Divides the warp into narrower children or returns code 1. -/
  | splitWarp (f : WqF)
  /-- FUSE (R176). Checks and waits to join the warp with its sibling into a wider warp. -/
  | fuseWarp (f : WqF)
  /-- PENQ (R342). Enqueues each active lane's key and value into a Pantry class. -/
  | penq (f : WqF)
  /-- PENQ_W (R343). Enqueues one key with a 16-field scalar payload into a Pantry class. -/
  | penqW (f : WqF)
  /-- PLIFT (R353). Lifts a sealed pull record into scalar registers. -/
  | plift (f : WqF)
  /-- LAUNCH (R346). Releases and enqueues a device-side launch record into class 0. -/
  | launchInstr (f : WqF)
  /-- NEXT (R355). Workgroup rendezvous that advances the T iteration. -/
  | nextIter (f : WqF)
  /-- DQPUSH (R356). Fences then pushes an item at the owner end of the core's deque. -/
  | dqpush (f : WqF)
  /-- DQPOP (R356). Pops the newest item of the core's deque. -/
  | dqpop (f : WqF)
  /-- DQSTEAL (R356). Takes the oldest item of another core's deque. -/
  | dqsteal (f : WqF)
  /-- QPUSH (R357). Pushes lane elements onto a scratch queue. -/
  | qpush (f : WqF)
  /-- QPOP (R357). Pops elements of a scratch queue into lanes. -/
  | qpop (f : WqF)
  /-- GSIG_REPLAY (R358). Checks a graph header and requests a replay from its home engine. -/
  | gsigReplay (f : WqF)
  /-- GSIG_DONE (R358). Completes an issued notify node of the current generation. -/
  | gsigDone (f : WqF)
  /-- TEX (R378). Samples a texture with filtering. -/
  | tex (f : GxF)
  /-- TEXF (R378). Fetches one unfiltered texel. -/
  | texf (f : GxF)
  /-- TRAV (R379). Traces each lane's ray through a BVH for its hit. -/
  | trav (f : GxF)
  /-- EMIT (R380). Sends each live lane's colour to the blend queue in sequence order. -/
  | emit (f : GxF)
  /-- KILL (R381). Removes lanes from live, retiring their fragments. -/
  | kill (f : GxF)
  /-- VISR (R382). Reads a visibility-buffer entry. -/
  | visr (f : GxF)
  /-- MEMORY_ACCESS_COMPLETION (R76). An outstanding access completes and its path counter falls in issue order. The
  parts named are performed in the order given. -/
  | memoryAccessCompletion (uid : Nat) (parts : List Nat)
  /-- PAGE_WALK_COMPLETE (R44). A walk ends and completes or faults every pending miss it covers. -/
  | pageWalkComplete (die k : Nat)
  /-- SHOOTDOWN_COMPLETE (R56). A shootdown finishes on all dies and its SEQ is written to INVDONE. -/
  | shootdownComplete
  /-- READSHARED (R92). The home serves a request for a readable copy. -/
  | readshared (k : Nat)
  /-- READOWN (R92). The home serves a request for the line with write permission. -/
  | readown (k : Nat)
  /-- UPGRADE (R92). The home grants write permission to a holder in S or O. -/
  | upgrade (k : Nat)
  /-- WRITEBACK (R94). The home writes back a dirty line and updates its directory. -/
  | writeback (k : Nat)
  /-- ATOMIC (R97). The home performs a device or system-scope atomic in its L2 slice. -/
  | atomicMsg (k : Nat)
  /-- READNC (R97). The home performs an uncached read. -/
  | readnc (k : Nat)
  /-- WRITENC (R97). The home performs an uncached masked write. -/
  | writenc (k : Nat)
  /-- SNPSHARED (R93). A holder forwards its copy to the requester and keeps a shared copy. -/
  | snpshared (k : Nat)
  /-- SNPINV (R93). A holder invalidates its copy, forwarding data for CODE 0. -/
  | snpinv (k : Nat)
  /-- BACKINV (R93). A holder invalidates for a directory eviction, returning dirty data home. -/
  | backinv (k : Nat)
  /-- DATA (R91). A requester or home receives line data with a grant. -/
  | dataMsg (k : Nat)
  /-- DATAFWD (R91). A requester receives line data forwarded by the owner. -/
  | datafwd (k : Nat)
  /-- ACK (R89). A completion or snoop reply with its code is received. -/
  | ackMsg (k : Nat)
  /-- HOMEOFFLINE (R99). A requester is told its home is offline and parks. -/
  | homeoffline (k : Nat)
  /-- LAUNCHFWD (R333). A die receives a checked launch for its die set. -/
  | launchfwd (k : Nat)
  /-- BATCHREQ (R334). The leader receives a die-span's request for a batch. -/
  | batchreq (k : Nat)
  /-- BATCHGRANT (R334). A die-span receives a batch of workgroup indices. -/
  | batchgrant (k : Nat)
  /-- BATCHMIRROR (R334). The mirror records a grant and acknowledges it. -/
  | batchmirror (k : Nat)
  /-- BATCHDONE (R334). Leader and mirror learn a batch has ended. -/
  | batchdone (k : Nat)
  /-- PANTRYENQ (R341). A home die's arbiter takes device-wide enqueues. -/
  | pantryenq (k : Nat)
  /-- PANTRYCODE (R333). The issuing die receives the codes of a device-wide enqueue. -/
  | pantrycode (k : Nat)
  /-- GRAPHDONE (R348). The home engine receives a node's completion and decrements its successors. -/
  | graphdone (k : Nat)
  /-- LATCHWAKE (R120). A die's waiting ACQs re-read the latch on a wake. -/
  | latchwake (k : Nat)
  /-- ACQ_REREAD_TIMEOUT (R120). A waiting ACQ re-reads its latch 2 us after its last read. -/
  | acqRereadTimeout (warp : Nat) (pc : Dword)
  /-- WORKGROUP_PLACEMENT (R335). The distributor places the next workgroup or cluster on a core. -/
  | workgroupPlacement (die : Nat)
  /-- CARVEOUT_GROW (R63). Surrendered L1 ways are walked and written back, then become scratch. -/
  | carveoutGrow (core : Nat)
  /-- CARVEOUT_SHRINK (R66). Scratch ways return to L1 empty. -/
  | carveoutShrink (core : Nat)
  /-- PREEMPTION (R336). A lower-priority workgroup is drained and saved to let another fit. -/
  | preemption (die : Nat)
  /-- WORKGROUP_RESTORE (R392). A saved workgroup is placed again with its state. -/
  | workgroupRestore (die : Nat)
  /-- LAUNCH_COMPLETION (R332). A launch ends and its completion latch receives the status word. -/
  | launchCompletion (uid : Nat)
  /-- NAP_EXPIRY (R282). A napping path becomes able to issue after its clocks. -/
  | napExpiry (warp : Nat)
  /-- SPLIT_CHILD_READY (R174). Split child i becomes ready 16i clocks after the SPLIT. -/
  | splitChildReady (warp : Nat)
  /-- FUSE_RENDEZVOUS (R177). Both siblings' counters reach 0 and the fused warp starts at the target. -/
  | fuseRendezvous (warp : Nat)
  /-- HELD_TRAP_DELIVERY (R387). A trap attributed to a boundary is delivered at the next boundary outside handler mode. -/
  | heldTrapDelivery (warp : Nat)
  /-- ENGINE_JOB_START (R143). The range checker and array order let a queued job begin its accesses. -/
  | engineJobStart (job : Nat)
  /-- ENGINE_CHUNK (R317). A job's destination chunk is performed and its barrier object counted down. -/
  | engineChunk (job : Nat)
  /-- ENGINE_JOB_COMPLETE (R311). A job's last chunk and arrivals are done and its latch released. -/
  | engineJobComplete (job : Nat)
  /-- MNEST_STEP (R321). The next load, flip, zero, stream or drain step of a nest begins. -/
  | mnestStep (job : Nat)
  /-- RECORD_SEAL_AGE (R340). An open Pantry record seals when the tick reaches OPENTICK + SEALVAL. -/
  | recordSealAge (die k : Nat)
  /-- RECORD_DISPATCH (R344). A sealed record is lifted to a kernel slot or deque when its target can take it. -/
  | recordDispatch (die : Nat)
  /-- SKIM_JOB (R362). A Skim job reprojects the previous visibility buffer and lists hole tiles. -/
  | skimJob (die : Nat)
  /-- DEPTH_RASTER_JOB (R364). A depth raster job starts filling open pixels from the triangle ring. -/
  | depthRasterJob (die : Nat)
  /-- RASTER_RECORD (R364). A raster job rasterises record i once RINGLATCH reaches i + 1. -/
  | rasterRecord (die : Nat)
  /-- VISIBILITY_WAVE_JOB (R366). A type 3 job builds fragment waves and launches the kernel. -/
  | visibilityWaveJob (die : Nat)
  /-- FORWARD_RASTER_JOB (R365). A type 4 job rasterises fragments and launches waves for them. -/
  | forwardRasterJob (die : Nat)
  /-- FRAME_JOB_COMPLETION (R359). A frame job completes and releases its latch with a status word. -/
  | frameJobCompletion (die : Nat)
  /-- BLEND_WRITE (R369). The blend unit blends an accepted fragment into the render target. -/
  | blendWrite (die q : Nat)
  /-- GRAPH_RUN_START (R348). A held replay takes effect, bumping G and readying root nodes. -/
  | graphRunStart (k : Nat)
  /-- GRAPH_NODE_RELEASE (R348). A ready node's action is issued at start + RELOFF. -/
  | graphNodeRelease (k node : Nat)
  /-- FAULT_QUEUE_MSI_REPEAT (R48). The fault MSI is raised again when records remain 10 us after the last raise. -/
  | faultQueueMsiRepeat (die slot : Nat)
  /-- FQHEAD_WRITE (R49). The driver advances the queue head, letting held records be written. -/
  | fqheadWrite (die slot : Nat) (v : Dword)
  /-- FQCMD_REPLAY_ONE (R52). Replays the one parked requester whose CORE, UNIT, ASID and SEQ match. -/
  | fqcmdReplayOne (die : Nat) (v : BitVec 62)
  /-- FQCMD_REJECT_ONE (R52). Rejects the one matching parked requester, trapping it with 0x05. -/
  | fqcmdRejectOne (die : Nat) (v : BitVec 62)
  /-- FQCMD_REPLAY_ASID (R52). Replays every requester of the ASID parked on this die. -/
  | fqcmdReplayAsid (die : Nat) (v : BitVec 62)
  /-- FQCMD_REJECT_ASID (R52). Rejects every requester of the ASID parked on this die. -/
  | fqcmdRejectAsid (die : Nat) (v : BitVec 62)
  /-- INVCMD_ALL (R55). Shoots down every translation entry. -/
  | invcmdAll (die : Nat) (v : BitVec 62)
  /-- INVCMD_ASID (R55). Shoots down every entry of an ASID. -/
  | invcmdAsid (die : Nat) (v : BitVec 62)
  /-- INVCMD_PAGE_ASID (R55). Shoots down one page of an ASID. -/
  | invcmdPageAsid (die : Nat) (v : BitVec 62)
  /-- INVCMD_PAGE_ALL (R55). Shoots down one page of every ASID. -/
  | invcmdPageAll (die : Nat) (v : BitVec 62)
  /-- HOME_OFFLINE_TIMEOUT (R397). A requester parked on an offline home for 200 ms raises home offline. -/
  | homeOfflineTimeout (r : Requester)
  /-- CELLAR_MISS_SCHEDULE (R113). A channel group picks the next Cellar miss by tier and charges its buckets. -/
  | cellarMissSchedule (die grp : Nat)
  /-- MACHINE_CHECK (R104). An error in a tag or directory line or a reserved message stops all dies. -/
  | machineCheck (cause : Byte) (die : Nat) (pa : BitVec 48)
  /-- FRAMEEDGE (R405). A frame-edge message with its remaining lead is received. -/
  | frameedge (e : EdgeMsg)
  /-- POWERSTEP (R413). A clock step is applied on a die at a frame-lock edge. -/
  | powerstep (die : Nat)
  /-- ERRORNOTE (R405). The management die receives an error log entry for its copy. -/
  | errornote (k : Nat)
  /-- URGENCY_CHANGE (R115). A die applies another head's urgency change to its regulators. -/
  | urgencyChange (k : Nat)
  /-- URGENCY_RAISE (R115). A scan-out FIFO falling below LOWAT raises urgency. -/
  | urgencyRaise (die : Nat)
  /-- URGENCY_LOWER (R115). A scan-out FIFO reaching HIWAT lowers urgency. -/
  | urgencyLower (die : Nat)
  /-- FIFO_FILL_SAMPLE (R116). Every 64 ticks each monitored FIFO's fill is added to its histogram. -/
  | fifoFillSample (die : Nat)
  /-- LAUNCH_SUBMISSION (R330). A 64-byte store to an enqueue port submits a launch record. -/
  | launchSubmission (die : Nat) (off : Nat) (data : List Byte)
  /-- PLACEMENT_BLOCK_TIMEOUT (R335). A workgroup waiting 100 us starts blocking younger launches. -/
  | placementBlockTimeout (die : Nat)
  /-- PATH_TIMESLICE_EXPIRY (R168). A path that ran 4096 clocks without a JOIN is parked and another chosen. -/
  | pathTimesliceExpiry (warp : Nat)
  /-- WORKGROUP_WATCHDOG (R389). A workgroup idle for WDOG microseconds raises 0x15. -/
  | workgroupWatchdog (wg : Nat)
  /-- COLL_PORT_TIMEOUT (R404). A ring port down for 1 ms ends the open match. -/
  | collPortTimeout (port : Nat)
  /-- PANTRY_CLASS_DESCRIPTOR_WRITE (R340). A write of a class descriptor, reading back V = 0 when invalid. -/
  | pantryClassDescriptorWrite (die c word : Nat) (v : Dword)
  /-- FRAME_JOB_SUBMISSION (R359). A 64-byte store to FJPORT queues a frame job. -/
  | frameJobSubmission (die : Nat) (off : Nat) (data : List Byte)
  /-- GRAPH_REPLAY_PORT (R358). A host store to GSIGPORT replays a graph in that context. -/
  | graphReplayPort (die slot : Nat) (v : Dword)
  /-- GRAPH_DEADLINE_SLIP (R349). A node incomplete at start + DEADOFF raises a slip event. -/
  | graphDeadlineSlip (k node : Nat)
  /-- FRAME_EDGE_GENERATE (R405). A master or free-running module makes an edge every PERIOD ticks. -/
  | frameEdgeGenerate
  /-- FRAME_EDGE_FIRE (R405). An edge fires when its remaining lead reaches zero and %frame advances. -/
  | frameEdgeFire (die : Nat)
  /-- FRAME_EDGE_TIMER (R406). A follower fires a due edge from its timer when no message arrived. -/
  | frameEdgeTimer
  /-- FRAME_EDGE_MISSED (R406). No message within 1/16 period of the due time clears LOCKED. -/
  | frameEdgeMissed
  /-- FLCFG_WRITE (R405). Sets the frame-lock role and period. -/
  | flcfgWrite (die : Nat) (v : Dword)
  /-- FLADMIT_WRITE (R410). Arms admission of a replacement module at frame A. -/
  | fladmitWrite (die : Nat) (v : Dword)
  /-- DISPLAY_HEAD_CHECK (R400). DSLEAD before vblank the head reads its latch and starts the Dust-sheet if needed. -/
  | displayHeadCheck (die : Nat)
  /-- VBLANK_PRESENT (R376). At vblank the head presents the released frame or the substitute. -/
  | vblankPresent (die : Nat)
  /-- HEAD_ENABLE (R409). Writing ENABLE starts a head unless its timing or period is invalid. -/
  | headEnable (die : Nat) (v : Dword)
  /-- POWER_STEP_DOWN (R413). The 10 ms average above the cap steps the clock down 100 MHz. -/
  | powerStepDown (watts10 : Nat)
  /-- POWER_STEP_UP (R413). The 100 ms average below 95 % of the cap steps the clock up. -/
  | powerStepUp (watts100 : Nat)
  /-- LINK_LOST (R20). A link fails and traffic is held until new route tables are installed. -/
  | linkLost (a b : Nat)
  /-- WARM_RESET (R394). Resets one die with its workgroups saved and restored. -/
  | warmReset (die : Nat) (v : WarmCmd)
  /-- WARM_RESET_KILL (R394). Resets one die with its workgroups killed. -/
  | warmResetKill (die : Nat) (v : WarmCmd)
  /-- WARM_RESET_WIPE (R394). Resets one die, killing workgroups and zeroing its LPDDR. -/
  | warmResetWipe (die : Nat) (v : WarmCmd)
  /-- WDOG_WRITE (R389). Sets the watchdog limit, taking effect at once for every workgroup. -/
  | wdogWrite (die : Nat) (v : Dword)
  /-- CLSCFG_WRITE (R109). Sets a class's latency, quota and buckets for later arbitration. -/
  | clscfgWrite (die c : Nat) (v : Dword)
  /-- MONCTL_SNAP (R117). Copies every monitor into its snapshot registers. -/
  | monctlSnap (die : Nat) (v : Dword)
  /-- MONCTL_CLEAR (R117). Zeroes every monitor. -/
  | monctlClear (die : Nat) (v : Dword)
  /-- STEER_WRITE (R415). Writes STEER entries, forwarded from the management die to all dies. -/
  | steerWrite (die w : Nat) (v : Dword)
  /-- ATTREQ_WRITE (R412). Requests a signed attestation report over a nonce. -/
  | attreqWrite (die : Nat) (v : Dword)
  /-- LIFE_CYCLE_TRANSITION (R411). A signed command moves the life-cycle state and zeroes memory. -/
  | lifeCycleTransition (cmd : List Byte)
  /-- FIRMWARE_IMAGE_WRITE (R411). The host writes a new firmware image to a die in recovery. -/
  | firmwareImageWrite (die : Nat) (image : List Byte)
  /-- POWER_ON_BOOT (R411). Power-on verifies firmware and zeroes all LPDDR before launches. -/
  | powerOnBoot (b : BootSetup) (image : List Byte)
  /-- REGISTER_WRITE (R415). A write to a register with no behaviour of its own stores its value. -/
  | registerWrite (die off : Nat) (v : Dword)
  /-- MODULE_RESET (R104). A reset of the whole module, as required after a machine check and for Attic or port-mode changes, zeroes all SRAM and restarts every die. -/
  | moduleReset (b : BootSetup)
  /-- HOST_CORE_ACCESS (R146). A host core or PCIe/CXL peer load, store, fetch or AMO to memory of the part is performed as a class-2 coherent access, including host releases and acquires on latches. -/
  | hostCoreAccess (a : HostAccess)
  /-- ACTIVE_SCAN_OUT (R409). During active scan-out the head consumes lines from its FIFO at the pixel clock and issues class-0 reads to refill it. -/
  | activeScanOut (die : Nat)
  deriving DecidableEq, Repr

end Sys2Proof
end

