-- ==== Sys2Proof/Machine/Legal.lean ====
section
/-! DEFINITION. Step 4 of R184: the fields, types, codes and MBZ rules of every opcode, from the entries of
chapters 08 to 11 and 13 to 15; and, for the events, the ranges of what names an occurrence. -/

namespace Sys2Proof.Machine

/-- How a V3 opcode uses rnd or sat (R238): not at all, under the floating-point types, under the integer
types, or under every type. -/
inductive FieldUse where
  | never | fp | int | always
  deriving DecidableEq, Repr

/-- Whether a code of the V3 type field is floating-point (R185). -/
def isFpType (ty : BitVec 3) : Bool := decide (ty = 2) || decide (ty = 3) || decide (ty = 4)

/-- Whether a field is used under a type. -/
def FieldUse.on (u : FieldUse) (ty : BitVec 3) : Bool :=
  match u with
  | .never => false
  | .fp => isFpType ty
  | .int => !isFpType ty
  | .always => true

/-- What an opcode of V3 asks beyond R238's columns: VSEL's guard (R240), VCMP's group (R244), CVT's control
field (R247). -/
inductive V3Extra where
  | plain | vsel | vcmp | cvt
  deriving DecidableEq, Repr

/-- A row of R238: whether operand a is read, whether va is a control field, whether operand b is a constant,
the types, and the use of rnd and sat. -/
structure V3Rule where
  rdA : Bool
  ctlA : Bool
  conB : Bool
  types : List (BitVec 3)
  rnd : FieldUse
  sat : FieldUse
  extra : V3Extra
  deriving DecidableEq, Repr

/-- The table of R238, by opcode. -/
def v3Rule (op : Nat) : Option V3Rule :=
  match op with
  | 0x01 => some ⟨false, false, false, [0], .never, .never, .plain⟩  -- VMOV
  | 0x02 => some ⟨true, false, false, [0, 1, 2, 3, 4, 5, 6], .fp, .always, .plain⟩  -- VADD
  | 0x03 => some ⟨true, false, false, [0, 1, 2, 3, 4, 5, 6], .fp, .always, .plain⟩  -- VSUB
  | 0x04 => some ⟨true, false, false, [0, 1, 2, 3, 4, 5, 6], .fp, .always, .plain⟩  -- VMUL
  | 0x05 => some ⟨true, false, false, [0, 1, 5, 6], .never, .never, .plain⟩  -- VMULH
  | 0x06 => some ⟨true, false, false, [0, 1, 2, 3, 4, 5, 6], .fp, .always, .plain⟩  -- VMAD
  | 0x07 => some ⟨true, false, false, [0, 1, 2, 3, 4, 5, 6], .never, .never, .plain⟩  -- VMIN
  | 0x08 => some ⟨true, false, false, [0, 1, 2, 3, 4, 5, 6], .never, .never, .plain⟩  -- VMAX
  | 0x09 => some ⟨false, false, false, [0, 5, 2, 3, 4], .never, .int, .plain⟩  -- VABS
  | 0x0A => some ⟨false, false, false, [0, 5, 2, 3, 4], .never, .int, .plain⟩  -- VNEG
  | 0x0B => some ⟨true, false, false, [0], .never, .never, .plain⟩  -- VAND
  | 0x0C => some ⟨true, false, false, [0], .never, .never, .plain⟩  -- VOR
  | 0x0D => some ⟨true, false, false, [0], .never, .never, .plain⟩  -- VXOR
  | 0x0E => some ⟨false, false, false, [0], .never, .never, .plain⟩  -- VNOT
  | 0x0F => some ⟨true, false, false, [0, 5], .never, .never, .plain⟩  -- VSHL
  | 0x10 => some ⟨true, false, false, [0, 5], .never, .never, .plain⟩  -- VSHR
  | 0x11 => some ⟨true, false, false, [0, 5], .never, .never, .plain⟩  -- VSAR
  | 0x12 => some ⟨true, false, false, [0, 5], .never, .never, .plain⟩  -- VROT
  | 0x13 => some ⟨true, false, false, [0, 1], .never, .never, .plain⟩  -- VBFE
  | 0x14 => some ⟨true, false, false, [0], .never, .never, .plain⟩  -- VBFI
  | 0x15 => some ⟨false, false, false, [0], .never, .never, .plain⟩  -- VPOPC
  | 0x16 => some ⟨false, false, false, [0], .never, .never, .plain⟩  -- VCLZ
  | 0x17 => some ⟨false, false, false, [0], .never, .never, .plain⟩  -- VBREV
  | 0x18 => some ⟨true, false, false, [0], .never, .never, .plain⟩  -- VADD64
  | 0x19 => some ⟨true, false, false, [0], .never, .never, .plain⟩  -- VSUB64
  | 0x1A => some ⟨true, false, false, [0, 1], .never, .never, .plain⟩  -- VMULW
  | 0x1B => some ⟨true, false, false, [0], .never, .never, .vsel⟩  -- VSEL
  | 0x20 => some ⟨true, false, false, [0, 1, 2], .never, .never, .vcmp⟩  -- VCMP_EQ
  | 0x21 => some ⟨true, false, false, [0, 1, 2], .never, .never, .vcmp⟩  -- VCMP_NE
  | 0x22 => some ⟨true, false, false, [0, 1, 2], .never, .never, .vcmp⟩  -- VCMP_LT
  | 0x23 => some ⟨true, false, false, [0, 1, 2], .never, .never, .vcmp⟩  -- VCMP_LE
  | 0x24 => some ⟨true, false, false, [0, 1, 2], .never, .never, .vcmp⟩  -- VCMP_GT
  | 0x25 => some ⟨true, false, false, [0, 1, 2], .never, .never, .vcmp⟩  -- VCMP_GE
  | 0x26 => some ⟨true, false, false, [2], .never, .never, .vcmp⟩  -- VCMP_UO
  | 0x27 => some ⟨true, false, false, [2], .never, .never, .vcmp⟩  -- VCMP_OR
  | 0x28 => some ⟨false, false, false, [2], .never, .never, .plain⟩  -- VCLASS
  | 0x30 => some ⟨false, false, false, [2], .never, .never, .plain⟩  -- VRCP
  | 0x31 => some ⟨false, false, false, [2], .never, .never, .plain⟩  -- VRSQ
  | 0x32 => some ⟨false, false, false, [2], .always, .never, .plain⟩  -- VSQRT
  | 0x33 => some ⟨false, false, false, [2], .never, .never, .plain⟩  -- VEXP2
  | 0x34 => some ⟨false, false, false, [2], .never, .never, .plain⟩  -- VLOG2
  | 0x35 => some ⟨false, false, false, [2], .never, .never, .plain⟩  -- VSIN
  | 0x36 => some ⟨false, false, false, [2], .never, .never, .plain⟩  -- VCOS
  | 0x37 => some ⟨true, false, false, [2], .always, .never, .plain⟩  -- VDIV
  | 0x38 => some ⟨false, false, false, [2], .never, .never, .plain⟩  -- VTANH
  | 0x40 => some ⟨false, true, false, [0, 1], .always, .always, .cvt⟩  -- CVT
  | 0x41 => some ⟨true, false, true, [0, 2], .fp, .always, .plain⟩  -- PACK8
  | 0x42 => some ⟨true, false, true, [0, 2], .never, .never, .plain⟩  -- UNPK8
  | 0x43 => some ⟨true, false, false, [2], .always, .never, .plain⟩  -- PACK4
  | 0x44 => some ⟨true, false, false, [2], .always, .always, .plain⟩  -- UNPK4
  | 0x48 => some ⟨true, false, false, [0, 1], .never, .always, .plain⟩  -- VDOT4
  | 0x49 => some ⟨true, false, false, [3, 4, 5, 6], .fp, .always, .plain⟩  -- VDOT2
  | 0x50 => some ⟨false, false, true, [0], .never, .never, .plain⟩  -- VIDX
  | _ => none

/-- gs and ginv are MBZ when gen = 0 (R185). -/
def guardLegal (gen ginv : Bool) (gs : BitVec 8) : Bool := gen || (!ginv && decide (gs = 0))

/-- A scalar register named in a 10-bit field has bits [9:8] zero (R186). -/
def hiZero (v : BitVec 10) : Bool := decide (v.extractLsb' 8 2 = 0)

/-- bsel 1 has vb[9:8] MBZ (R186). -/
def bselLegal (bsel : BitVec 2) (vb : BitVec 10) : Bool := decide (bsel ≠ 1) || hiZero vb

/-- The format codes of CVT (R247) and the position allowed for the source's width. -/
def cvtLegal (va : BitVec 10) : Bool :=
  let pos := va.extractLsb' 8 2
  let src := (va.extractLsb' 4 4).toNat
  let dst := (va.extractLsb' 0 4).toNat
  let code (c : Nat) : Bool := decide (c ≤ 8) && decide (c ≠ 5)
  code src && code dst &&
    (if src = 1 ∨ src = 2 then !pos.getLsbD 1
     else if src = 0 ∨ src = 8 then decide (pos = 0) else true)

/-- The V3 fields under a row of R238; `long` for the immediate form, whose bsel and vb are MBZ (R188). -/
def v3Fields (long : Bool) (r : V3Rule) (f : V3F) : Bool :=
  r.types.contains f.ty &&
  (if r.rnd.on f.ty then decide (f.rnd ≠ 7) else decide (f.rnd = 0)) &&
  (!f.sat || r.sat.on f.ty) &&
  (!f.na || (r.rdA && isFpType f.ty)) &&
  (!f.nb || isFpType f.ty) &&
  (r.rdA || r.ctlA || decide (f.va = 0)) &&
  guardLegal f.gen f.ginv f.gs &&
  (if long then decide (f.bsel = 0) && decide (f.vb = 0)
   else bselLegal f.bsel f.vb && (!r.conB || decide (f.bsel = 2))) &&
  (match r.extra with
   | .plain => true
   | .vsel => f.gen
   | .vcmp => hiZero f.vd
   | .cvt => cvtLegal f.va)

/-- Step 4 of R184 for V3 OP `op`. -/
def v3Legal (op : Nat) (f : V3F) : Bool :=
  match v3Rule op with
  | some r => v3Fields false r f
  | none => false

/-- Step 4 for the long immediate form of V3 OP `op` (R188). -/
def longImmLegal (op : Nat) (f : V3F) : Bool :=
  match v3Rule op with
  | some r => v3Fields true r f
  | none => false

/-- Step 4 for VMAD4 (R188, R252): the types, rnd and sat of VMAD. -/
def vmad4Legal (f : V3F) (csel : BitVec 2) (vc : BitVec 10) : Bool :=
  v3Legal 0x06 f && (decide (csel = 0) || (decide (csel = 1) && hiZero vc))

/-- Step 4 for an XL opcode (R189, R254, R255): whether operand a is read, the types, whether tos is
allowed. -/
def xlLegal (rdA : Bool) (types : List (BitVec 3)) (tos : Bool) (f : XlF) : Bool :=
  types.contains f.ty && guardLegal f.gen f.ginv f.gs && bselLegal f.bsel f.vb &&
  (rdA || decide (f.va = 0)) && (!f.tos || (tos && hiZero f.vd))

/-- Step 4 for the arithmetic opcodes of S3 (R190, R212, R214): two sources or one, the types. -/
def s3Legal (two : Bool) (types : List (BitVec 3)) (f : S3F) : Bool :=
  types.contains f.ty && (f.isimm || decide (f.imm.extractLsb' 8 24 = 0)) && (two || decide (f.sa = 0))

/-- Step 4 for SLEA (R218): scale in bits [39:37] when isimm = 0. -/
def sleaLegal (f : S3F) : Bool :=
  [0, 1, 2, 3].contains f.ty && (f.isimm || decide (f.imm.extractLsb' 11 21 = 0))

/-- Step 4 for the mask operations (R220): type 0, isimm 0. -/
def maskLegal (rdA rdB wrD : Bool) (f : S3F) : Bool :=
  decide (f.ty = 0) && !f.isimm && decide (f.imm.extractLsb' 8 24 = 0) &&
  (rdA || decide (f.sa = 0)) && (rdB || decide (f.imm = 0)) && (wrD || decide (f.sd = 0))

/-- Step 4 for SGETR and SSETR (R190, R222). -/
def sregLegal (f : S3F) : Bool :=
  decide (f.ty = 0) && f.isimm && decide (f.imm.extractLsb' 8 24 = 0)

/-- off32 is a multiple of 8 (R191). -/
def offLegal (f : SbF) : Bool := decide (f.off.extractLsb' 0 3 = 0)

/-- The fields that the conditions read (R191, R227). -/
def braLegal (f : SbF) : Bool :=
  offLegal f &&
  (let c := f.cond.toNat
   if c = 0 ∨ c = 12 then decide (f.sa = 0) && decide (f.sb = 0)
   else if c ≤ 6 then true
   else if c ≤ 11 then decide (f.sb = 0) else false)

/-- Step 4 for the other SB opcodes: which of off32, cond, sb and sa the entry names. -/
def sbLegal (off cond sb sa : Bool) (f : SbF) : Bool :=
  (if off then offLegal f else decide (f.off = 0)) && (cond || decide (f.cond = 0)) &&
  (sb || decide (f.sb = 0)) && (sa || decide (f.sa = 0))

/-- Step 4 for EXIT (R231). -/
def exitLegal (f : SbF) : Bool :=
  sbLegal false true false true f &&
  ((decide (f.cond = 0) && decide (f.sa = 0)) || decide (f.cond = 9) || decide (f.cond = 11))

/-- The sizes that each atomic allows, as VM size codes (R268, R272); the operation is R268's OP less 0x10. -/
def atomSizes (aop : Nat) : List Nat :=
  if aop = 1 then [2] else if aop = 9 then [2] else if aop = 10 then [2] else if aop = 11 then [1, 2] else [2, 3]

/-- Step 4 for SLD and SST (R271): scope 1 to 5. -/
def sldLegal (f : SmF) : Bool :=
  decide (f.size.toNat ≤ 4) && decide (1 ≤ f.scope.toNat) && decide (f.scope.toNat ≤ 5)

/-- Step 4 for SLDL (R236). -/
def sldlLegal (f : SmF) : Bool :=
  decide (f.size.toNat ≤ 4) && decide (f.scope = 0) && decide (f.sbase = 0)

/-- The operation of SATOM (R272). -/
def satomOp (f : SmF) : Nat := (f.off.extractLsb' 0 4).toNat

/-- Step 4 for SATOM (R272). -/
def satomLegal (f : SmF) : Bool :=
  decide (f.scope.toNat ≤ 5) && decide (satomOp f ≤ 11) &&
  (decide (f.size.toNat ≤ 1) && (atomSizes (satomOp f)).contains (f.size.toNat + 2))

/-- Step 4 for SPREF (R273). -/
def sprefLegal (f : SmF) : Bool :=
  decide (f.size.toNat ≤ 4) && decide (f.scope = 0) && decide (f.sd = 0)

/-- Step 4 for the VM opcodes: the sizes of the entry, whether hint, cnt and scope are named. -/
def vmLegal (sizes : List Nat) (hint cnt scope : Bool) (f : VmF) : Bool :=
  sizes.contains f.size.toNat &&
  (if hint then decide (f.hint.toNat ≤ 4) else decide (f.hint = 0)) &&
  (if cnt then decide (f.cnt.toNat ≤ 5) else decide (f.cnt = 0)) &&
  (if scope then decide (f.scope.toNat ≤ 5) else decide (f.scope = 0)) &&
  guardLegal f.gen f.ginv f.gs

/-- Step 4 for PREF, CLEAN and DROP (R270): space codes 1 and 2 are illegal. -/
def lineLegal (hint scope : Bool) (f : VmF) : Bool :=
  vmLegal [0] hint false scope f && decide (f.vdata = 0) && decide (f.space ≠ 1) && decide (f.space ≠ 2)

/-- Step 4 for the SY opcodes whose scope and kind are restricted by a range: which fields the entry names. -/
def syLegal (imm sc sb sa : Bool) (kinds scopes : List Nat) (f : SyF) : Bool :=
  (imm || decide (f.imm = 0)) && (sc || decide (f.sc = 0)) && (sb || decide (f.sb = 0)) &&
  (sa || decide (f.sa = 0)) && kinds.contains f.kind.toNat && scopes.contains f.scope.toNat

/-- The value operand of WAITB, ARRB, ACQ and REL: imm21 with kind[2] = 1, otherwise s[sb] (R278, R279). -/
def valueLegal (f : SyF) : Bool := if f.kind.getLsbD 2 then decide (f.sb = 0) else decide (f.imm = 0)

/-- imm21[20:8] is MBZ (R276, R280). -/
def immHiZero (f : SyF) : Bool := decide (f.imm.extractLsb' 8 13 = 0)

/-- How the EN table of R310 uses a field: MBZ, or must hold 0xFF, or read. -/
def enLegal (sc vf cs sl sx latchop t : Bool) (f : EnF) : Bool :=
  (sc || decide (f.sc = 0)) && (vf || decide (f.vf = 0)) && (cs || !f.cs) &&
  (sl || decide (f.sl = 0xFF)) && (sx || decide (f.sx = 0xFF)) &&
  (if latchop then decide (f.sl ≠ 0xFF) || decide (f.imm.extractLsb' 0 16 = 0)
   else decide (f.imm.extractLsb' 0 16 = 0)) &&
  (t || !f.imm.getLsbD 16)

/-- Step 4 for a WQ opcode: which fields the entry names and which bits of imm8 are read (R351). -/
def wqLegal (va vb sA sB sD : Bool) (imm : BitVec 8) (f : WqF) : Bool :=
  (va || decide (f.va = 0)) && (vb || decide (f.vb = 0)) && (sA || decide (f.sA = 0)) &&
  (sB || decide (f.sB = 0)) && (sD || decide (f.sD = 0)) && decide (f.imm &&& ~~~imm = 0)

/-- Step 4 for a GX opcode (R377): which of vd, va and sdesc are read, the modes, the flags. -/
def gxLegal (vd va sdesc : Bool) (modes : List Nat) (flags : BitVec 3) (f : GxF) : Bool :=
  (vd || decide (f.vd = 0)) && (va || decide (f.va = 0)) && (sdesc || decide (f.sdesc = 0)) &&
  decide (f.saux = 0) && modes.contains f.mode.toNat && decide (f.flags &&& ~~~flags = 0) &&
  guardLegal f.gen f.ginv f.gs

/-- A die number (R11). -/
def dieOk (d : Nat) : Bool := decide (d < 9)

/-- A core number of the module, die × 96 + its number on the die (R13). -/
def coreOk (c : Nat) : Bool := decide (c < 864)

/-- Step 4 of R184 for an instruction that has a word; for an event, the ranges of its parameters: dies 0 to 8,
cores 0 to 863, channel groups 0 to 35, 64-byte records, class and table numbers. -/
def legal (i : Instr) : Bool :=
  match i with
  | .vmov f => v3Legal 0x01 f
  | .vadd f => v3Legal 0x02 f
  | .vsub f => v3Legal 0x03 f
  | .vmul f => v3Legal 0x04 f
  | .vmulh f => v3Legal 0x05 f
  | .vmad f => v3Legal 0x06 f
  | .vmin f => v3Legal 0x07 f
  | .vmax f => v3Legal 0x08 f
  | .vabs f => v3Legal 0x09 f
  | .vneg f => v3Legal 0x0A f
  | .vand f => v3Legal 0x0B f
  | .vor f => v3Legal 0x0C f
  | .vxor f => v3Legal 0x0D f
  | .vnot f => v3Legal 0x0E f
  | .vshl f => v3Legal 0x0F f
  | .vshr f => v3Legal 0x10 f
  | .vsar f => v3Legal 0x11 f
  | .vrot f => v3Legal 0x12 f
  | .vbfe f => v3Legal 0x13 f
  | .vbfi f => v3Legal 0x14 f
  | .vpopc f => v3Legal 0x15 f
  | .vclz f => v3Legal 0x16 f
  | .vbrev f => v3Legal 0x17 f
  | .vadd64 f => v3Legal 0x18 f
  | .vsub64 f => v3Legal 0x19 f
  | .vmulw f => v3Legal 0x1A f
  | .vsel f => v3Legal 0x1B f
  | .vcmpEq f => v3Legal 0x20 f
  | .vcmpNe f => v3Legal 0x21 f
  | .vcmpLt f => v3Legal 0x22 f
  | .vcmpLe f => v3Legal 0x23 f
  | .vcmpGt f => v3Legal 0x24 f
  | .vcmpGe f => v3Legal 0x25 f
  | .vcmpUo f => v3Legal 0x26 f
  | .vcmpOr f => v3Legal 0x27 f
  | .vclass f => v3Legal 0x28 f
  | .vrcp f => v3Legal 0x30 f
  | .vrsq f => v3Legal 0x31 f
  | .vsqrt f => v3Legal 0x32 f
  | .vexp2 f => v3Legal 0x33 f
  | .vlog2 f => v3Legal 0x34 f
  | .vsin f => v3Legal 0x35 f
  | .vcos f => v3Legal 0x36 f
  | .vtanh f => v3Legal 0x38 f
  | .vdiv f => v3Legal 0x37 f
  | .cvt f => v3Legal 0x40 f
  | .pack8 f => v3Legal 0x41 f
  | .unpk8 f => v3Legal 0x42 f
  | .pack4 f => v3Legal 0x43 f
  | .unpk4 f => v3Legal 0x44 f
  | .vdot4 f => v3Legal 0x48 f
  | .vdot2 f => v3Legal 0x49 f
  | .vidx f => v3Legal 0x50 f
  | .vmad4 f csel vc => vmad4Legal f csel vc
  | .longImmediateForm op f _ => longImmLegal op.toNat f
  | .shfl f => xlLegal true [0] false f
  | .shflx f => xlLegal true [0] false f
  | .shflup f => xlLegal true [0] false f
  | .shfldn f => xlLegal true [0] false f
  | .bcst f => xlLegal true [0] false f && decide (f.bsel ≠ 0)
  | .redadd f => xlLegal false [0, 1, 2, 3, 4] true f
  | .redmin f => xlLegal false [0, 1, 2] true f
  | .redmax f => xlLegal false [0, 1, 2] true f
  | .redand f => xlLegal false [0] true f
  | .redor f => xlLegal false [0] true f
  | .redxor f => xlLegal false [0] true f
  | .scan f => xlLegal false [0, 1, 2] false f
  | .scanx f => xlLegal false [0, 1, 2] false f
  | .scanmax f => xlLegal false [0, 1, 2] false f
  | .vote f => xlLegal false [0] true f
  | .matchLanes f => xlLegal false [0] false f
  | .ddx f => xlLegal false [2] false f && decide (f.g = 7) && decide (f.bsel = 0)
  | .ddy f => xlLegal false [2] false f && decide (f.g = 7) && decide (f.bsel = 0)
  | .sadd f => s3Legal true [0, 1, 2, 3, 4] f
  | .ssub f => s3Legal true [0, 1, 2, 3, 4] f
  | .smul f => s3Legal true [0, 1, 2, 3, 4] f
  | .smin f => s3Legal true [0, 1, 2, 3, 4] f
  | .smax f => s3Legal true [0, 1, 2, 3, 4] f
  | .smov f => s3Legal false [0, 1, 2, 3, 4] f
  | .smulh f => s3Legal true [0, 1, 2, 3] f
  | .sdiv f => s3Legal true [0, 1, 2, 3] f
  | .srem f => s3Legal true [0, 1, 2, 3] f
  | .sand f => s3Legal true [0, 1, 2, 3] f
  | .sor f => s3Legal true [0, 1, 2, 3] f
  | .sxor f => s3Legal true [0, 1, 2, 3] f
  | .sshl f => s3Legal true [0, 1, 2, 3] f
  | .sshr f => s3Legal true [0, 1, 2, 3] f
  | .ssar f => s3Legal true [0, 1, 2, 3] f
  | .srot f => s3Legal true [0, 1, 2, 3] f
  | .sbfe f => s3Legal true [0, 1, 2, 3] f
  | .sbfi f => s3Legal true [0, 1, 2, 3] f
  | .spopc f => s3Legal false [0, 1, 2, 3] f
  | .sclz f => s3Legal false [0, 1, 2, 3] f
  | .sffs f => s3Legal false [0, 1, 2, 3] f
  | .slea f => sleaLegal f
  | .ssetEq f => s3Legal true [0, 1, 2, 3, 4] f
  | .ssetNe f => s3Legal true [0, 1, 2, 3, 4] f
  | .ssetLt f => s3Legal true [0, 1, 2, 3, 4] f
  | .ssetLe f => s3Legal true [0, 1, 2, 3, 4] f
  | .ssetGt f => s3Legal true [0, 1, 2, 3, 4] f
  | .ssetGe f => s3Legal true [0, 1, 2, 3, 4] f
  | .ssetUo f => s3Legal true [4] f
  | .ssetOr f => s3Legal true [4] f
  | .mand f => maskLegal true true true f
  | .mor f => maskLegal true true true f
  | .mxor f => maskLegal true true true f
  | .mandn f => maskLegal true true true f
  | .mnot f => maskLegal false true true f
  | .mcnt f => maskLegal false true true f
  | .mfirst f => maskLegal false true true f
  | .mlive f => maskLegal false false true f
  | .mexec f => maskLegal false false true f
  | .msetx f => maskLegal false true false f
  | .sgetr f => sregLegal f && decide (f.sa = 0)
  | .ssetr f => sregLegal f && decide (f.sd = 0)
  | .smode f => s3Legal true [0] f
  | .bra f => braLegal f
  | .brd f => sbLegal true false false true f
  | .brx f => sbLegal true false true true f
  | .call f => sbLegal true false true false f
  | .ret f => sbLegal false false false true f
  | .exitLanes f => exitLegal f
  | .trapInstr f => sbLegal false false true true f
  | .tret f => sbLegal false false false true f && decide (f.sa.extractLsb' 1 7 = 0)
  | .brk f => sbLegal false false true true f
  | .skip f => sbLegal true false false false f
  | .joinInstr f => sbLegal false false false true f
  | .nop f => sbLegal false false false false f
  | .sld f => sldLegal f
  | .sst f => sldLegal f
  | .sldl f => sldlLegal f
  | .satom f => satomLegal f
  | .spref f => sprefLegal f
  | .ld f => vmLegal [0, 1, 2, 3, 4] true false true f
  | .st f => vmLegal [0, 1, 2, 3, 4] true false true f
  | .stn4 f => vmLegal [5] true false true f
  | .ldw f => vmLegal [2] true true true f
  | .stw f => vmLegal [2] true true true f
  | .atomAdd f => vmLegal (atomSizes 0) false false true f
  | .atomFadd f => vmLegal (atomSizes 1) false false true f
  | .atomMin f => vmLegal (atomSizes 2) false false true f
  | .atomMax f => vmLegal (atomSizes 3) false false true f
  | .atomAnd f => vmLegal (atomSizes 4) false false true f
  | .atomOr f => vmLegal (atomSizes 5) false false true f
  | .atomXor f => vmLegal (atomSizes 6) false false true f
  | .atomExch f => vmLegal (atomSizes 7) false false true f
  | .atomCas f => vmLegal (atomSizes 8) false false true f
  | .atomInc f => vmLegal (atomSizes 9) false false true f
  | .atomDec f => vmLegal (atomSizes 10) false false true f
  | .atomFaddbf f => vmLegal (atomSizes 11) false false true f
  | .pref f => lineLegal true false f
  | .clean f => lineLegal false true f
  | .drop f => lineLegal false true f
  | .bar f => syLegal false false false false [0] [0] f
  | .barc f => syLegal false false false false [0] [0] f
  | .bard f => syLegal false false false false [0] [0] f
  | .waitc f => syLegal true false false false [0, 1, 2, 3, 4, 5, 6, 7, 8] [0] f && immHiZero f
  | .waitb f => syLegal true false true true [0, 1, 4, 5] [0] f && valueLegal f
  | .acq f => syLegal true false true true [0, 1, 4, 5] [1, 2, 3, 4, 5] f && valueLegal f
  | .rel f => syLegal true false true true [0, 1, 4, 5] [1, 2, 3, 4, 5] f && valueLegal f
  | .bindRegion f => syLegal true true true true [0] [0, 1, 2, 3, 4, 5] f && immHiZero f
  | .unbindRegion f => syLegal false false false true [0] [0] f
  | .fence f => syLegal false false false false [0, 1, 2] [1, 2, 3, 4, 5] f
  | .nap f => syLegal true false false false [0] [0] f
  | .yield f => syLegal false false false false [0] [0] f
  | .arrb f => syLegal true false true true [0, 1, 4, 5] [0] f && valueLegal f
  | .mloadw f => enLegal true true false false false false false f
  | .mflip f => enLegal false false false false false false false f
  | .mstream f => enLegal true true false false false false false f
  | .mnest f => enLegal true true true true true true false f
  | .mdrain f => enLegal true true true true true true true f
  | .mzero f => enLegal true false false false false false false f
  | .cpy f => enLegal true false true true false true false f
  | .gath f => enLegal true false true true false true false f
  | .coll f => enLegal true false true true false true false f
  | .splitWarp f => wqLegal false false false false true 0xFF f
  | .fuseWarp f => wqLegal true true false false true 0x03 f && decide (f.va.extractLsb' 0 3 = 0)
  | .penq f => wqLegal true true true false false 0x1F f
  | .penqW f => wqLegal true false true true true 0x30 f && f.imm.getLsbD 5 && hiZero f.va
  | .plift f => wqLegal false false true true true 0x01 f
  | .launchInstr f => wqLegal false false false true true 0x01 f
  | .nextIter f => wqLegal false false false false true 0x00 f
  | .dqpush f => wqLegal false false false true true 0x00 f
  | .dqpop f => wqLegal false false false true true 0x00 f
  | .dqsteal f => wqLegal false false true true true 0x01 f && (!f.imm.getLsbD 0 || decide (f.sA = 0))
  | .qpush f => wqLegal true true true false true 0x01 f
  | .qpop f => wqLegal true true true false true 0x01 f
  | .gsigReplay f => wqLegal false false true false true 0x00 f
  | .gsigDone f => wqLegal false false true true true 0x01 f && f.imm.getLsbD 0
  | .tex f => gxLegal true true true [0, 1, 2] 0 f
  | .texf f => gxLegal true true true [0] 0 f
  | .trav f => gxLegal true true true [0] 1 f
  | .emit f => gxLegal false true true [0, 1, 2] 0 f
  | .kill f => gxLegal false false false [0] 0 f
  | .visr f => gxLegal true true true [0, 1] 0 f && (decide (f.mode = 0) || decide (f.va = 0))
  | .memoryAccessCompletion _ _ => true
  | .pageWalkComplete die _ => dieOk die
  | .faultQueueMsiRepeat die slot => dieOk die && decide (slot < 256)
  | .fqheadWrite die slot _ => dieOk die && decide (slot < 256)
  | .fqcmdReplayOne die _ => dieOk die
  | .fqcmdRejectOne die _ => dieOk die
  | .fqcmdReplayAsid die _ => dieOk die
  | .fqcmdRejectAsid die _ => dieOk die
  | .invcmdAll die _ => dieOk die
  | .invcmdAsid die _ => dieOk die
  | .invcmdPageAsid die _ => dieOk die
  | .invcmdPageAll die _ => dieOk die
  | .shootdownComplete => true
  | .homeOfflineTimeout _ => true
  | .readshared _ => true
  | .readown _ => true
  | .upgrade _ => true
  | .writeback _ => true
  | .atomicMsg _ => true
  | .readnc _ => true
  | .writenc _ => true
  | .snpshared _ => true
  | .snpinv _ => true
  | .backinv _ => true
  | .dataMsg _ => true
  | .datafwd _ => true
  | .ackMsg _ => true
  | .homeoffline _ => true
  | .cellarMissSchedule die grp => dieOk die && decide (grp < 36)
  | .machineCheck _ die _ => dieOk die
  | .launchfwd _ => true
  | .batchreq _ => true
  | .batchgrant _ => true
  | .batchmirror _ => true
  | .batchdone _ => true
  | .pantryenq _ => true
  | .pantrycode _ => true
  | .graphdone _ => true
  | .latchwake _ => true
  | .acqRereadTimeout _ _ => true
  | .frameedge _ => true
  | .powerstep die => dieOk die
  | .errornote _ => true
  | .urgencyChange _ => true
  | .urgencyRaise die => dieOk die
  | .urgencyLower die => dieOk die
  | .fifoFillSample die => dieOk die
  | .launchSubmission die _ data => dieOk die && decide (data.length = 64)
  | .workgroupPlacement die => dieOk die
  | .placementBlockTimeout die => dieOk die
  | .carveoutGrow core => coreOk core
  | .carveoutShrink core => coreOk core
  | .preemption die => dieOk die
  | .workgroupRestore die => dieOk die
  | .launchCompletion _ => true
  | .pathTimesliceExpiry _ => true
  | .napExpiry _ => true
  | .splitChildReady _ => true
  | .fuseRendezvous _ => true
  | .heldTrapDelivery _ => true
  | .workgroupWatchdog _ => true
  | .engineJobStart _ => true
  | .engineChunk _ => true
  | .engineJobComplete _ => true
  | .mnestStep _ => true
  | .collPortTimeout port => decide (port < 18)
  | .recordSealAge die _ => dieOk die
  | .recordDispatch die => dieOk die
  | .pantryClassDescriptorWrite die c word _ => dieOk die && decide (c < 64) && decide (word < 8)
  | .frameJobSubmission die _ data => dieOk die && decide (data.length = 64)
  | .skimJob die => dieOk die
  | .depthRasterJob die => dieOk die
  | .rasterRecord die => dieOk die
  | .visibilityWaveJob die => dieOk die
  | .forwardRasterJob die => dieOk die
  | .frameJobCompletion die => dieOk die
  | .blendWrite die q => dieOk die && decide (q < 2)
  | .graphReplayPort die slot _ => dieOk die && decide (slot < 256)
  | .graphRunStart _ => true
  | .graphNodeRelease _ _ => true
  | .graphDeadlineSlip _ _ => true
  | .frameEdgeGenerate => true
  | .frameEdgeFire die => dieOk die
  | .frameEdgeTimer => true
  | .frameEdgeMissed => true
  | .flcfgWrite die _ => dieOk die
  | .fladmitWrite die _ => dieOk die
  | .displayHeadCheck die => dieOk die
  | .vblankPresent die => dieOk die
  | .headEnable die _ => dieOk die
  | .powerStepDown _ => true
  | .powerStepUp _ => true
  | .linkLost a b => dieOk a && dieOk b
  | .warmReset die v => dieOk die && decide (v.step ≤ 10)
  | .warmResetKill die v => dieOk die && decide (v.step ≤ 10)
  | .warmResetWipe die v => dieOk die && decide (v.step ≤ 10)
  | .wdogWrite die _ => dieOk die
  | .clscfgWrite die c _ => dieOk die && decide (c < 16)
  | .monctlSnap die _ => dieOk die
  | .monctlClear die _ => dieOk die
  | .steerWrite die w _ => dieOk die && decide (w < 32)
  | .attreqWrite die _ => dieOk die
  | .lifeCycleTransition _ => true
  | .firmwareImageWrite die _ => dieOk die
  | .powerOnBoot _ _ => true
  | .registerWrite die _ _ => dieOk die
  | .moduleReset _ => true
  | .hostCoreAccess a => match a.agent with
    | .hart h => decide (h < 72)
    | _ => true
  | .activeScanOut die => dieOk die

end Sys2Proof.Machine
end

