-- ==== Sys2Proof/WellFormed.lean ====
section
/-! DEFINITION. Well-formed instructions: those that step 4 of R184 accepts, and events whose parameters name
something the part has. -/

namespace Sys2Proof

/-- Step 4 of R184 accepts the fields (R185 to R199 and the entries of the opcodes). -/
def Instr.WellFormed (i : Instr) : Prop := Machine.legal i = true

/-- Whether an instruction is well-formed, as a Bool. -/
def Instr.wf (i : Instr) : Bool := Machine.legal i

end Sys2Proof
end

