-- ==== Sys2Proof/Decode.lean ====
section
/-! DEFINITION. Instruction words (R182 to R199): the fields of each format, the opcode map, the decoder on
bytes, and the encoder. -/

namespace Sys2Proof.Machine

/-- A word with its format and opcode known and its operand fields taken apart; a LONG form carries both. -/
inductive Shape where
  | v3 (op : BitVec 8) (f : V3F)
  | vmad4 (f : V3F) (csel : BitVec 2) (vc : BitVec 10)
  | longImm (op : BitVec 7) (f : V3F) (imm : Word)
  | xl (op : BitVec 8) (f : XlF)
  | s3 (op : BitVec 8) (f : S3F)
  | sb (op : BitVec 8) (f : SbF)
  | sm (op : BitVec 8) (f : SmF)
  | vm (op : BitVec 8) (f : VmF)
  | sy (op : BitVec 8) (f : SyF)
  | en (op : BitVec 8) (f : EnF)
  | wq (op : BitVec 8) (f : WqF)
  | gx (op : BitVec 8) (f : GxF)
  deriving DecidableEq, Repr

/-- Why the decoder refuses a word: the failing step of R184 (each of these raises 0x01 when the warp
reaches the word), or too few bytes. -/
inductive Reject where
  /-- Step 1: FMT 0xA to 0xE. -/
  | reservedFormat
  /-- Step 2: an OP that R199 does not define. -/
  | reservedOpcode
  /-- Step 4: an illegal code, a type that the opcode does not define, a nonzero MBZ bit. -/
  | illegalField
  /-- Fewer bytes than the instruction is long; the fetch supplies the missing word (step 3). -/
  | tooShort
  deriving DecidableEq, Repr

/-- A Bool as a bit. -/
def bit1 (b : Bool) : BitVec 1 := BitVec.ofBool b

/-- Word 0 of V3 and LONG (R185); `m` is the MBZ bit 63. -/
def v3Word (m : Bool) (op : BitVec 8) (fmt : BitVec 4) (f : V3F) : Dword :=
  bit1 m ++ (bit1 f.nb ++ (bit1 f.na ++ (bit1 f.ginv ++ (f.gs ++ (bit1 f.gen ++ (f.ty ++ (bit1 f.sat ++
    (f.rnd ++ (f.bsel ++ (f.vb ++ (f.va ++ (f.vd ++ (op ++ fmt)))))))))))))

/-- The fields of a V3 word (R185). -/
def v3Of (w : Dword) : V3F where
  nb := w.getLsbD 62
  na := w.getLsbD 61
  ginv := w.getLsbD 60
  gs := w.extractLsb' 52 8
  gen := w.getLsbD 51
  ty := w.extractLsb' 48 3
  sat := w.getLsbD 47
  rnd := w.extractLsb' 44 3
  bsel := w.extractLsb' 42 2
  vb := w.extractLsb' 32 10
  va := w.extractLsb' 22 10
  vd := w.extractLsb' 12 10

/-- An XL word (R189); bits 63, 62 and 47 are MBZ. -/
def xlWord (op : BitVec 8) (f : XlF) : Dword :=
  0#2 ++ (bit1 f.tos ++ (bit1 f.ginv ++ (f.gs ++ (bit1 f.gen ++ (f.ty ++ (0#1 ++ (f.g ++ (f.bsel ++
    (f.vb ++ (f.va ++ (f.vd ++ (op ++ 0x1#4))))))))))))

/-- The fields of an XL word (R189). -/
def xlOf (w : Dword) : XlF where
  tos := w.getLsbD 61
  ginv := w.getLsbD 60
  gs := w.extractLsb' 52 8
  gen := w.getLsbD 51
  ty := w.extractLsb' 48 3
  g := w.extractLsb' 44 3
  bsel := w.extractLsb' 42 2
  vb := w.extractLsb' 32 10
  va := w.extractLsb' 22 10
  vd := w.extractLsb' 12 10

/-- An S3 word (R190). -/
def s3Word (op : BitVec 8) (f : S3F) : Dword :=
  f.ty ++ (f.imm ++ (bit1 f.isimm ++ (f.sa ++ (f.sd ++ (op ++ 0x2#4)))))

/-- The fields of an S3 word (R190). -/
def s3Of (w : Dword) : S3F where
  ty := w.extractLsb' 61 3
  imm := w.extractLsb' 29 32
  isimm := w.getLsbD 28
  sa := w.extractLsb' 20 8
  sd := w.extractLsb' 12 8

/-- An SB word (R191). -/
def sbWord (op : BitVec 8) (f : SbF) : Dword :=
  f.off ++ (f.cond ++ (f.sb ++ (f.sa ++ (op ++ 0x3#4))))

/-- The fields of an SB word (R191). -/
def sbOf (w : Dword) : SbF where
  off := w.extractLsb' 32 32
  cond := w.extractLsb' 28 4
  sb := w.extractLsb' 20 8
  sa := w.extractLsb' 12 8

/-- An SM word (R192). -/
def smWord (op : BitVec 8) (f : SmF) : Dword :=
  f.off ++ (f.scope ++ (f.size ++ (f.sbase ++ (f.sd ++ (op ++ 0x4#4)))))

/-- The fields of an SM word (R192). -/
def smOf (w : Dword) : SmF where
  off := w.extractLsb' 34 30
  scope := w.extractLsb' 31 3
  size := w.extractLsb' 28 3
  sbase := w.extractLsb' 20 8
  sd := w.extractLsb' 12 8

/-- A VM word (R193). -/
def vmWord (op : BitVec 8) (f : VmF) : Dword :=
  f.hint ++ (bit1 f.ginv ++ (f.gs ++ (bit1 f.gen ++ (f.cnt ++ (f.scope ++ (f.space ++ (f.size ++
    (f.sbase ++ (f.voff ++ (f.vdata ++ (op ++ 0x5#4)))))))))))

/-- The fields of a VM word (R193). -/
def vmOf (w : Dword) : VmF where
  hint := w.extractLsb' 61 3
  ginv := w.getLsbD 60
  gs := w.extractLsb' 52 8
  gen := w.getLsbD 51
  cnt := w.extractLsb' 48 3
  scope := w.extractLsb' 45 3
  space := w.extractLsb' 43 2
  size := w.extractLsb' 40 3
  sbase := w.extractLsb' 32 8
  voff := w.extractLsb' 22 10
  vdata := w.extractLsb' 12 10

/-- An SY word (R194). -/
def syWord (op : BitVec 8) (f : SyF) : Dword :=
  f.imm ++ (f.scope ++ (f.kind ++ (f.sc ++ (f.sb ++ (f.sa ++ (op ++ 0x6#4))))))

/-- The fields of an SY word (R194). -/
def syOf (w : Dword) : SyF where
  imm := w.extractLsb' 43 21
  scope := w.extractLsb' 40 3
  kind := w.extractLsb' 36 4
  sc := w.extractLsb' 28 8
  sb := w.extractLsb' 20 8
  sa := w.extractLsb' 12 8

/-- An EN word (R195). -/
def enWord (op : BitVec 8) (f : EnF) : Dword :=
  f.imm ++ (f.sx ++ (f.sl ++ (bit1 f.cs ++ (f.vf ++ (f.sc ++ (op ++ 0x7#4))))))

/-- The fields of an EN word (R195). -/
def enOf (w : Dword) : EnF where
  imm := w.extractLsb' 47 17
  sx := w.extractLsb' 39 8
  sl := w.extractLsb' 31 8
  cs := w.getLsbD 30
  vf := w.extractLsb' 20 10
  sc := w.extractLsb' 12 8

/-- A WQ word (R196). -/
def wqWord (op : BitVec 8) (f : WqF) : Dword :=
  f.imm ++ (f.sD ++ (f.sB ++ (f.sA ++ (f.vb ++ (f.va ++ (op ++ 0x8#4))))))

/-- The fields of a WQ word (R196). -/
def wqOf (w : Dword) : WqF where
  imm := w.extractLsb' 56 8
  sD := w.extractLsb' 48 8
  sB := w.extractLsb' 40 8
  sA := w.extractLsb' 32 8
  vb := w.extractLsb' 22 10
  va := w.extractLsb' 12 10

/-- A GX word (R197). -/
def gxWord (op : BitVec 8) (f : GxF) : Dword :=
  f.flags ++ (bit1 f.ginv ++ (f.gs ++ (bit1 f.gen ++ (f.mode ++ (f.saux ++ (f.sdesc ++ (f.va ++
    (f.vd ++ (op ++ 0x9#4)))))))))

/-- The fields of a GX word (R197). -/
def gxOf (w : Dword) : GxF where
  flags := w.extractLsb' 61 3
  ginv := w.getLsbD 60
  gs := w.extractLsb' 52 8
  gen := w.getLsbD 51
  mode := w.extractLsb' 48 3
  saux := w.extractLsb' 40 8
  sdesc := w.extractLsb' 32 8
  va := w.extractLsb' 22 10
  vd := w.extractLsb' 12 10

/-- The words of a shape: one, or two for a LONG form (R188). -/
def Shape.words : Shape → List Dword
  | .v3 op f => [v3Word false op 0x0 f]
  | .vmad4 f csel vc => [v3Word false 0x01 0xF f, 0#52 ++ (csel ++ vc)]
  | .longImm op f imm => [v3Word false (1#1 ++ op) 0xF f, 0#32 ++ imm]
  | .xl op f => [xlWord op f]
  | .s3 op f => [s3Word op f]
  | .sb op f => [sbWord op f]
  | .sm op f => [smWord op f]
  | .vm op f => [vmWord op f]
  | .sy op f => [syWord op f]
  | .en op f => [enWord op f]
  | .wq op f => [wqWord op f]
  | .gx op f => [gxWord op f]

/-- The opcodes of V3 (R199). -/
def v3Instr (op : Nat) (f : V3F) : Option Instr :=
  match op with
  | 0x01 => some (.vmov f)
  | 0x02 => some (.vadd f)
  | 0x03 => some (.vsub f)
  | 0x04 => some (.vmul f)
  | 0x05 => some (.vmulh f)
  | 0x06 => some (.vmad f)
  | 0x07 => some (.vmin f)
  | 0x08 => some (.vmax f)
  | 0x09 => some (.vabs f)
  | 0x0A => some (.vneg f)
  | 0x0B => some (.vand f)
  | 0x0C => some (.vor f)
  | 0x0D => some (.vxor f)
  | 0x0E => some (.vnot f)
  | 0x0F => some (.vshl f)
  | 0x10 => some (.vshr f)
  | 0x11 => some (.vsar f)
  | 0x12 => some (.vrot f)
  | 0x13 => some (.vbfe f)
  | 0x14 => some (.vbfi f)
  | 0x15 => some (.vpopc f)
  | 0x16 => some (.vclz f)
  | 0x17 => some (.vbrev f)
  | 0x18 => some (.vadd64 f)
  | 0x19 => some (.vsub64 f)
  | 0x1A => some (.vmulw f)
  | 0x1B => some (.vsel f)
  | 0x20 => some (.vcmpEq f)
  | 0x21 => some (.vcmpNe f)
  | 0x22 => some (.vcmpLt f)
  | 0x23 => some (.vcmpLe f)
  | 0x24 => some (.vcmpGt f)
  | 0x25 => some (.vcmpGe f)
  | 0x26 => some (.vcmpUo f)
  | 0x27 => some (.vcmpOr f)
  | 0x28 => some (.vclass f)
  | 0x30 => some (.vrcp f)
  | 0x31 => some (.vrsq f)
  | 0x32 => some (.vsqrt f)
  | 0x33 => some (.vexp2 f)
  | 0x34 => some (.vlog2 f)
  | 0x35 => some (.vsin f)
  | 0x36 => some (.vcos f)
  | 0x37 => some (.vdiv f)
  | 0x38 => some (.vtanh f)
  | 0x40 => some (.cvt f)
  | 0x41 => some (.pack8 f)
  | 0x42 => some (.unpk8 f)
  | 0x43 => some (.pack4 f)
  | 0x44 => some (.unpk4 f)
  | 0x48 => some (.vdot4 f)
  | 0x49 => some (.vdot2 f)
  | 0x50 => some (.vidx f)
  | _ => none

/-- The opcodes of XL (R199). -/
def xlInstr (op : Nat) (f : XlF) : Option Instr :=
  match op with
  | 0x01 => some (.shfl f)
  | 0x02 => some (.shflx f)
  | 0x03 => some (.shflup f)
  | 0x04 => some (.shfldn f)
  | 0x05 => some (.bcst f)
  | 0x08 => some (.redadd f)
  | 0x09 => some (.redmin f)
  | 0x0A => some (.redmax f)
  | 0x0B => some (.redand f)
  | 0x0C => some (.redor f)
  | 0x0D => some (.redxor f)
  | 0x10 => some (.scan f)
  | 0x11 => some (.scanx f)
  | 0x12 => some (.scanmax f)
  | 0x18 => some (.vote f)
  | 0x19 => some (.matchLanes f)
  | 0x20 => some (.ddx f)
  | 0x21 => some (.ddy f)
  | _ => none

/-- The opcodes of S3 (R199). -/
def s3Instr (op : Nat) (f : S3F) : Option Instr :=
  match op with
  | 0x01 => some (.smov f)
  | 0x02 => some (.sadd f)
  | 0x03 => some (.ssub f)
  | 0x04 => some (.smul f)
  | 0x05 => some (.smulh f)
  | 0x06 => some (.sdiv f)
  | 0x07 => some (.srem f)
  | 0x08 => some (.smin f)
  | 0x09 => some (.smax f)
  | 0x0A => some (.sand f)
  | 0x0B => some (.sor f)
  | 0x0C => some (.sxor f)
  | 0x0D => some (.sshl f)
  | 0x0E => some (.sshr f)
  | 0x0F => some (.ssar f)
  | 0x10 => some (.srot f)
  | 0x11 => some (.sbfe f)
  | 0x12 => some (.sbfi f)
  | 0x13 => some (.spopc f)
  | 0x14 => some (.sclz f)
  | 0x15 => some (.sffs f)
  | 0x16 => some (.slea f)
  | 0x18 => some (.ssetEq f)
  | 0x19 => some (.ssetNe f)
  | 0x1A => some (.ssetLt f)
  | 0x1B => some (.ssetLe f)
  | 0x1C => some (.ssetGt f)
  | 0x1D => some (.ssetGe f)
  | 0x1E => some (.ssetUo f)
  | 0x1F => some (.ssetOr f)
  | 0x28 => some (.mand f)
  | 0x29 => some (.mor f)
  | 0x2A => some (.mxor f)
  | 0x2B => some (.mandn f)
  | 0x2C => some (.mnot f)
  | 0x2D => some (.mcnt f)
  | 0x2E => some (.mfirst f)
  | 0x2F => some (.mlive f)
  | 0x30 => some (.mexec f)
  | 0x31 => some (.msetx f)
  | 0x38 => some (.sgetr f)
  | 0x39 => some (.ssetr f)
  | 0x3A => some (.smode f)
  | _ => none

/-- The opcodes of SB (R199). -/
def sbInstr (op : Nat) (f : SbF) : Option Instr :=
  match op with
  | 0x01 => some (.bra f)
  | 0x02 => some (.brd f)
  | 0x03 => some (.brx f)
  | 0x04 => some (.call f)
  | 0x05 => some (.ret f)
  | 0x06 => some (.exitLanes f)
  | 0x07 => some (.trapInstr f)
  | 0x08 => some (.tret f)
  | 0x09 => some (.brk f)
  | 0x0A => some (.skip f)
  | 0x0B => some (.joinInstr f)
  | 0x3F => some (.nop f)
  | _ => none

/-- The opcodes of SM (R199). -/
def smInstr (op : Nat) (f : SmF) : Option Instr :=
  match op with
  | 0x01 => some (.sld f)
  | 0x02 => some (.sst f)
  | 0x03 => some (.sldl f)
  | 0x04 => some (.satom f)
  | 0x05 => some (.spref f)
  | _ => none

/-- The opcodes of VM (R199). -/
def vmInstr (op : Nat) (f : VmF) : Option Instr :=
  match op with
  | 0x01 => some (.ld f)
  | 0x02 => some (.st f)
  | 0x03 => some (.stn4 f)
  | 0x04 => some (.ldw f)
  | 0x05 => some (.stw f)
  | 0x10 => some (.atomAdd f)
  | 0x11 => some (.atomFadd f)
  | 0x12 => some (.atomMin f)
  | 0x13 => some (.atomMax f)
  | 0x14 => some (.atomAnd f)
  | 0x15 => some (.atomOr f)
  | 0x16 => some (.atomXor f)
  | 0x17 => some (.atomExch f)
  | 0x18 => some (.atomCas f)
  | 0x19 => some (.atomInc f)
  | 0x1A => some (.atomDec f)
  | 0x1B => some (.atomFaddbf f)
  | 0x20 => some (.pref f)
  | 0x21 => some (.clean f)
  | 0x22 => some (.drop f)
  | _ => none

/-- The opcodes of SY (R199). -/
def syInstr (op : Nat) (f : SyF) : Option Instr :=
  match op with
  | 0x01 => some (.bar f)
  | 0x02 => some (.barc f)
  | 0x03 => some (.bard f)
  | 0x04 => some (.waitc f)
  | 0x05 => some (.waitb f)
  | 0x06 => some (.acq f)
  | 0x07 => some (.rel f)
  | 0x08 => some (.bindRegion f)
  | 0x09 => some (.unbindRegion f)
  | 0x0A => some (.fence f)
  | 0x0B => some (.nap f)
  | 0x0C => some (.yield f)
  | 0x0D => some (.arrb f)
  | _ => none

/-- The opcodes of EN (R199). -/
def enInstr (op : Nat) (f : EnF) : Option Instr :=
  match op with
  | 0x01 => some (.mloadw f)
  | 0x02 => some (.mflip f)
  | 0x03 => some (.mstream f)
  | 0x04 => some (.mnest f)
  | 0x05 => some (.mdrain f)
  | 0x06 => some (.mzero f)
  | 0x08 => some (.cpy f)
  | 0x09 => some (.gath f)
  | 0x0A => some (.coll f)
  | _ => none

/-- The opcodes of WQ (R199). -/
def wqInstr (op : Nat) (f : WqF) : Option Instr :=
  match op with
  | 0x01 => some (.splitWarp f)
  | 0x02 => some (.fuseWarp f)
  | 0x06 => some (.plift f)
  | 0x07 => some (.launchInstr f)
  | 0x08 => some (.nextIter f)
  | 0x09 => some (.dqpush f)
  | 0x0A => some (.dqpop f)
  | 0x0B => some (.dqsteal f)
  | 0x0C => some (.qpush f)
  | 0x0D => some (.qpop f)
  | 0x04 => some (if f.imm.getLsbD 5 then .penqW f else .penq f)
  | 0x0E => some (if f.imm.getLsbD 0 then .gsigDone f else .gsigReplay f)
  | _ => none

/-- The opcodes of GX (R199). -/
def gxInstr (op : Nat) (f : GxF) : Option Instr :=
  match op with
  | 0x01 => some (.tex f)
  | 0x02 => some (.texf f)
  | 0x03 => some (.trav f)
  | 0x04 => some (.emit f)
  | 0x05 => some (.kill f)
  | 0x07 => some (.visr f)
  | _ => none

/-- The instruction that a shape stands for: none for a reserved opcode (R184 step 2). -/
def Shape.instr : Shape → Option Instr
  | .v3 op f => v3Instr op.toNat f
  | .vmad4 f csel vc => some (.vmad4 f csel vc)
  | .longImm op f imm => (v3Instr op.toNat f).map fun _ => .longImmediateForm op f imm
  | .xl op f => xlInstr op.toNat f
  | .s3 op f => s3Instr op.toNat f
  | .sb op f => sbInstr op.toNat f
  | .sm op f => smInstr op.toNat f
  | .vm op f => vmInstr op.toNat f
  | .sy op f => syInstr op.toNat f
  | .en op f => enInstr op.toNat f
  | .wq op f => wqInstr op.toNat f
  | .gx op f => gxInstr op.toNat f

/-- The shape of an instruction; none for an event, which has no word. -/
def shapeOf (i : Instr) : Option Shape :=
  match i with
  | .vmov f => some (.v3 0x01 f)
  | .vadd f => some (.v3 0x02 f)
  | .vsub f => some (.v3 0x03 f)
  | .vmul f => some (.v3 0x04 f)
  | .vmulh f => some (.v3 0x05 f)
  | .vmad f => some (.v3 0x06 f)
  | .vmin f => some (.v3 0x07 f)
  | .vmax f => some (.v3 0x08 f)
  | .vabs f => some (.v3 0x09 f)
  | .vneg f => some (.v3 0x0A f)
  | .vand f => some (.v3 0x0B f)
  | .vor f => some (.v3 0x0C f)
  | .vxor f => some (.v3 0x0D f)
  | .vnot f => some (.v3 0x0E f)
  | .vshl f => some (.v3 0x0F f)
  | .vshr f => some (.v3 0x10 f)
  | .vsar f => some (.v3 0x11 f)
  | .vrot f => some (.v3 0x12 f)
  | .vbfe f => some (.v3 0x13 f)
  | .vbfi f => some (.v3 0x14 f)
  | .vpopc f => some (.v3 0x15 f)
  | .vclz f => some (.v3 0x16 f)
  | .vbrev f => some (.v3 0x17 f)
  | .vadd64 f => some (.v3 0x18 f)
  | .vsub64 f => some (.v3 0x19 f)
  | .vmulw f => some (.v3 0x1A f)
  | .vsel f => some (.v3 0x1B f)
  | .vcmpEq f => some (.v3 0x20 f)
  | .vcmpNe f => some (.v3 0x21 f)
  | .vcmpLt f => some (.v3 0x22 f)
  | .vcmpLe f => some (.v3 0x23 f)
  | .vcmpGt f => some (.v3 0x24 f)
  | .vcmpGe f => some (.v3 0x25 f)
  | .vcmpUo f => some (.v3 0x26 f)
  | .vcmpOr f => some (.v3 0x27 f)
  | .vclass f => some (.v3 0x28 f)
  | .vrcp f => some (.v3 0x30 f)
  | .vrsq f => some (.v3 0x31 f)
  | .vsqrt f => some (.v3 0x32 f)
  | .vexp2 f => some (.v3 0x33 f)
  | .vlog2 f => some (.v3 0x34 f)
  | .vsin f => some (.v3 0x35 f)
  | .vcos f => some (.v3 0x36 f)
  | .vtanh f => some (.v3 0x38 f)
  | .vdiv f => some (.v3 0x37 f)
  | .cvt f => some (.v3 0x40 f)
  | .pack8 f => some (.v3 0x41 f)
  | .unpk8 f => some (.v3 0x42 f)
  | .pack4 f => some (.v3 0x43 f)
  | .unpk4 f => some (.v3 0x44 f)
  | .vdot4 f => some (.v3 0x48 f)
  | .vdot2 f => some (.v3 0x49 f)
  | .vidx f => some (.v3 0x50 f)
  | .shfl f => some (.xl 0x01 f)
  | .shflx f => some (.xl 0x02 f)
  | .shflup f => some (.xl 0x03 f)
  | .shfldn f => some (.xl 0x04 f)
  | .bcst f => some (.xl 0x05 f)
  | .redadd f => some (.xl 0x08 f)
  | .redmin f => some (.xl 0x09 f)
  | .redmax f => some (.xl 0x0A f)
  | .redand f => some (.xl 0x0B f)
  | .redor f => some (.xl 0x0C f)
  | .redxor f => some (.xl 0x0D f)
  | .scan f => some (.xl 0x10 f)
  | .scanx f => some (.xl 0x11 f)
  | .scanmax f => some (.xl 0x12 f)
  | .vote f => some (.xl 0x18 f)
  | .matchLanes f => some (.xl 0x19 f)
  | .ddx f => some (.xl 0x20 f)
  | .ddy f => some (.xl 0x21 f)
  | .sadd f => some (.s3 0x02 f)
  | .ssub f => some (.s3 0x03 f)
  | .smul f => some (.s3 0x04 f)
  | .smin f => some (.s3 0x08 f)
  | .smax f => some (.s3 0x09 f)
  | .smov f => some (.s3 0x01 f)
  | .smulh f => some (.s3 0x05 f)
  | .sdiv f => some (.s3 0x06 f)
  | .srem f => some (.s3 0x07 f)
  | .sand f => some (.s3 0x0A f)
  | .sor f => some (.s3 0x0B f)
  | .sxor f => some (.s3 0x0C f)
  | .sshl f => some (.s3 0x0D f)
  | .sshr f => some (.s3 0x0E f)
  | .ssar f => some (.s3 0x0F f)
  | .srot f => some (.s3 0x10 f)
  | .sbfe f => some (.s3 0x11 f)
  | .sbfi f => some (.s3 0x12 f)
  | .spopc f => some (.s3 0x13 f)
  | .sclz f => some (.s3 0x14 f)
  | .sffs f => some (.s3 0x15 f)
  | .slea f => some (.s3 0x16 f)
  | .ssetEq f => some (.s3 0x18 f)
  | .ssetNe f => some (.s3 0x19 f)
  | .ssetLt f => some (.s3 0x1A f)
  | .ssetLe f => some (.s3 0x1B f)
  | .ssetGt f => some (.s3 0x1C f)
  | .ssetGe f => some (.s3 0x1D f)
  | .ssetUo f => some (.s3 0x1E f)
  | .ssetOr f => some (.s3 0x1F f)
  | .mand f => some (.s3 0x28 f)
  | .mor f => some (.s3 0x29 f)
  | .mxor f => some (.s3 0x2A f)
  | .mandn f => some (.s3 0x2B f)
  | .mnot f => some (.s3 0x2C f)
  | .mcnt f => some (.s3 0x2D f)
  | .mfirst f => some (.s3 0x2E f)
  | .mlive f => some (.s3 0x2F f)
  | .mexec f => some (.s3 0x30 f)
  | .msetx f => some (.s3 0x31 f)
  | .sgetr f => some (.s3 0x38 f)
  | .ssetr f => some (.s3 0x39 f)
  | .smode f => some (.s3 0x3A f)
  | .bra f => some (.sb 0x01 f)
  | .brd f => some (.sb 0x02 f)
  | .brx f => some (.sb 0x03 f)
  | .call f => some (.sb 0x04 f)
  | .ret f => some (.sb 0x05 f)
  | .exitLanes f => some (.sb 0x06 f)
  | .trapInstr f => some (.sb 0x07 f)
  | .tret f => some (.sb 0x08 f)
  | .brk f => some (.sb 0x09 f)
  | .skip f => some (.sb 0x0A f)
  | .joinInstr f => some (.sb 0x0B f)
  | .nop f => some (.sb 0x3F f)
  | .sld f => some (.sm 0x01 f)
  | .sst f => some (.sm 0x02 f)
  | .sldl f => some (.sm 0x03 f)
  | .satom f => some (.sm 0x04 f)
  | .spref f => some (.sm 0x05 f)
  | .ld f => some (.vm 0x01 f)
  | .st f => some (.vm 0x02 f)
  | .stn4 f => some (.vm 0x03 f)
  | .ldw f => some (.vm 0x04 f)
  | .stw f => some (.vm 0x05 f)
  | .atomAdd f => some (.vm 0x10 f)
  | .atomFadd f => some (.vm 0x11 f)
  | .atomMin f => some (.vm 0x12 f)
  | .atomMax f => some (.vm 0x13 f)
  | .atomAnd f => some (.vm 0x14 f)
  | .atomOr f => some (.vm 0x15 f)
  | .atomXor f => some (.vm 0x16 f)
  | .atomExch f => some (.vm 0x17 f)
  | .atomCas f => some (.vm 0x18 f)
  | .atomInc f => some (.vm 0x19 f)
  | .atomDec f => some (.vm 0x1A f)
  | .atomFaddbf f => some (.vm 0x1B f)
  | .pref f => some (.vm 0x20 f)
  | .clean f => some (.vm 0x21 f)
  | .drop f => some (.vm 0x22 f)
  | .bar f => some (.sy 0x01 f)
  | .barc f => some (.sy 0x02 f)
  | .bard f => some (.sy 0x03 f)
  | .waitc f => some (.sy 0x04 f)
  | .waitb f => some (.sy 0x05 f)
  | .acq f => some (.sy 0x06 f)
  | .rel f => some (.sy 0x07 f)
  | .bindRegion f => some (.sy 0x08 f)
  | .unbindRegion f => some (.sy 0x09 f)
  | .fence f => some (.sy 0x0A f)
  | .nap f => some (.sy 0x0B f)
  | .yield f => some (.sy 0x0C f)
  | .arrb f => some (.sy 0x0D f)
  | .mloadw f => some (.en 0x01 f)
  | .mflip f => some (.en 0x02 f)
  | .mstream f => some (.en 0x03 f)
  | .mnest f => some (.en 0x04 f)
  | .mdrain f => some (.en 0x05 f)
  | .mzero f => some (.en 0x06 f)
  | .cpy f => some (.en 0x08 f)
  | .gath f => some (.en 0x09 f)
  | .coll f => some (.en 0x0A f)
  | .splitWarp f => some (.wq 0x01 f)
  | .fuseWarp f => some (.wq 0x02 f)
  | .penq f => some (.wq 0x04 f)
  | .penqW f => some (.wq 0x04 f)
  | .plift f => some (.wq 0x06 f)
  | .launchInstr f => some (.wq 0x07 f)
  | .nextIter f => some (.wq 0x08 f)
  | .dqpush f => some (.wq 0x09 f)
  | .dqpop f => some (.wq 0x0A f)
  | .dqsteal f => some (.wq 0x0B f)
  | .qpush f => some (.wq 0x0C f)
  | .qpop f => some (.wq 0x0D f)
  | .gsigReplay f => some (.wq 0x0E f)
  | .gsigDone f => some (.wq 0x0E f)
  | .tex f => some (.gx 0x01 f)
  | .texf f => some (.gx 0x02 f)
  | .trav f => some (.gx 0x03 f)
  | .emit f => some (.gx 0x04 f)
  | .kill f => some (.gx 0x05 f)
  | .visr f => some (.gx 0x07 f)
  | .vmad4 f csel vc => some (.vmad4 f csel vc)
  | .longImmediateForm op f imm => some (.longImm op f imm)
  | .memoryAccessCompletion _ _ => none
  | .pageWalkComplete _ _ => none
  | .faultQueueMsiRepeat _ _ => none
  | .fqheadWrite _ _ _ => none
  | .fqcmdReplayOne _ _ => none
  | .fqcmdRejectOne _ _ => none
  | .fqcmdReplayAsid _ _ => none
  | .fqcmdRejectAsid _ _ => none
  | .invcmdAll _ _ => none
  | .invcmdAsid _ _ => none
  | .invcmdPageAsid _ _ => none
  | .invcmdPageAll _ _ => none
  | .shootdownComplete => none
  | .homeOfflineTimeout _ => none
  | .readshared _ => none
  | .readown _ => none
  | .upgrade _ => none
  | .writeback _ => none
  | .atomicMsg _ => none
  | .readnc _ => none
  | .writenc _ => none
  | .snpshared _ => none
  | .snpinv _ => none
  | .backinv _ => none
  | .dataMsg _ => none
  | .datafwd _ => none
  | .ackMsg _ => none
  | .homeoffline _ => none
  | .cellarMissSchedule _ _ => none
  | .machineCheck _ _ _ => none
  | .launchfwd _ => none
  | .batchreq _ => none
  | .batchgrant _ => none
  | .batchmirror _ => none
  | .batchdone _ => none
  | .pantryenq _ => none
  | .pantrycode _ => none
  | .graphdone _ => none
  | .latchwake _ => none
  | .acqRereadTimeout _ _ => none
  | .frameedge _ => none
  | .powerstep _ => none
  | .errornote _ => none
  | .urgencyChange _ => none
  | .urgencyRaise _ => none
  | .urgencyLower _ => none
  | .fifoFillSample _ => none
  | .launchSubmission _ _ _ => none
  | .workgroupPlacement _ => none
  | .placementBlockTimeout _ => none
  | .carveoutGrow _ => none
  | .carveoutShrink _ => none
  | .preemption _ => none
  | .workgroupRestore _ => none
  | .launchCompletion _ => none
  | .pathTimesliceExpiry _ => none
  | .napExpiry _ => none
  | .splitChildReady _ => none
  | .fuseRendezvous _ => none
  | .heldTrapDelivery _ => none
  | .workgroupWatchdog _ => none
  | .engineJobStart _ => none
  | .engineChunk _ => none
  | .engineJobComplete _ => none
  | .mnestStep _ => none
  | .collPortTimeout _ => none
  | .recordSealAge _ _ => none
  | .recordDispatch _ => none
  | .pantryClassDescriptorWrite _ _ _ _ => none
  | .frameJobSubmission _ _ _ => none
  | .skimJob _ => none
  | .depthRasterJob _ => none
  | .rasterRecord _ => none
  | .visibilityWaveJob _ => none
  | .forwardRasterJob _ => none
  | .frameJobCompletion _ => none
  | .blendWrite _ _ => none
  | .graphReplayPort _ _ _ => none
  | .graphRunStart _ => none
  | .graphNodeRelease _ _ => none
  | .graphDeadlineSlip _ _ => none
  | .frameEdgeGenerate => none
  | .frameEdgeFire _ => none
  | .frameEdgeTimer => none
  | .frameEdgeMissed => none
  | .flcfgWrite _ _ => none
  | .fladmitWrite _ _ => none
  | .displayHeadCheck _ => none
  | .vblankPresent _ => none
  | .headEnable _ _ => none
  | .powerStepDown _ => none
  | .powerStepUp _ => none
  | .linkLost _ _ => none
  | .warmReset _ _ => none
  | .warmResetKill _ _ => none
  | .warmResetWipe _ _ => none
  | .wdogWrite _ _ => none
  | .clscfgWrite _ _ _ => none
  | .monctlSnap _ _ => none
  | .monctlClear _ _ => none
  | .steerWrite _ _ _ => none
  | .attreqWrite _ _ => none
  | .lifeCycleTransition _ => none
  | .firmwareImageWrite _ _ => none
  | .powerOnBoot _ _ => none
  | .registerWrite _ _ _ => none
  | .moduleReset _ => none
  | .hostCoreAccess _ => none
  | .activeScanOut _ => none

/-- The words of an instruction; none for an event. -/
def encode (i : Instr) : List Dword :=
  match shapeOf i with
  | some sh => sh.words
  | none => []

/-- A 64-bit word from 8 bytes, little-endian (R7). -/
def wordOfBytes (bs : List Byte) : Dword := BitVec.ofNat 64 (leNat bs)

/-- The bytes of a word, little-endian (R7). -/
def bytesOfWord (w : Dword) : List Byte := leBytes 8 w.toNat

/-- The bytes of an instruction. -/
def encodeBytes (i : Instr) : List Byte := (encode i).flatMap bytesOfWord

/-- Whether the opcode of a V3 word is defined. -/
def v3Defined (op : Nat) : Bool := (v3Rule op).isSome

/-- Steps 1 and 2 of R184 on word 0: whether FMT and OP are defined, and whether a second word follows. -/
def headOf (w : Dword) : Except Reject Bool :=
  let fmt := (w.extractLsb' 0 4).toNat
  let op := (w.extractLsb' 4 8).toNat
  if 10 ≤ fmt ∧ fmt ≤ 14 then .error .reservedFormat
  else if fmt = 15 then
    if op = 1 ∨ (0x80 ≤ op ∧ v3Defined (op - 0x80)) then .ok true else .error .reservedOpcode
  else
    let known :=
      match fmt with
      | 0 => v3Defined op
      | 1 => (xlInstr op (xlOf w)).isSome
      | 2 => (s3Instr op (s3Of w)).isSome
      | 3 => (sbInstr op (sbOf w)).isSome
      | 4 => (smInstr op (smOf w)).isSome
      | 5 => (vmInstr op (vmOf w)).isSome
      | 6 => (syInstr op (syOf w)).isSome
      | 7 => (enInstr op (enOf w)).isSome
      | 8 => (wqInstr op (wqOf w)).isSome
      | _ => (gxInstr op (gxOf w)).isSome
    if known then .ok false else .error .reservedOpcode

/-- The shape of a word whose head is defined, with the MBZ bits that the field map itself marks: none where
one of them is set. `w1` is the second word of a LONG form. -/
def shapeOfWords (w w1 : Dword) : Option Shape :=
  let op := w.extractLsb' 4 8
  match (w.extractLsb' 0 4).toNat with
  | 0 => if w.getLsbD 63 then none else some (.v3 op (v3Of w))
  | 1 => if w.getLsbD 63 || w.getLsbD 62 || w.getLsbD 47 then none else some (.xl op (xlOf w))
  | 2 => some (.s3 op (s3Of w))
  | 3 => some (.sb op (sbOf w))
  | 4 => some (.sm op (smOf w))
  | 5 => some (.vm op (vmOf w))
  | 6 => some (.sy op (syOf w))
  | 7 => some (.en op (enOf w))
  | 8 => some (.wq op (wqOf w))
  | 9 => some (.gx op (gxOf w))
  | _ =>
    if w.getLsbD 63 then none
    else if op = 1 then
      if w1.extractLsb' 12 52 = 0 then some (.vmad4 (v3Of w) (w1.extractLsb' 10 2) (w1.extractLsb' 0 10))
      else none
    else if w1.extractLsb' 32 32 = 0 then
      some (.longImm (w.extractLsb' 4 7) (v3Of w) (w1.extractLsb' 0 32))
    else none

/-- Steps 1, 2 and 4 of R184 on the words of an instruction; `w1` counts only for a LONG form. -/
def decodeWords (w w1 : Dword) : Except Reject Instr :=
  match headOf w with
  | .error e => .error e
  | .ok _ =>
    match (shapeOfWords w w1).bind Shape.instr with
    | none => .error .illegalField
    | some i => if legal i then .ok i else .error .illegalField

/-- Decode the instruction at the front of a byte string, and what follows it. -/
def decode (bs : List Byte) : Except Reject (Instr × List Byte) :=
  if bs.length < 8 then .error .tooShort
  else
    let w := wordOfBytes (bs.take 8)
    match headOf w with
    | .error e => .error e
    | .ok false =>
      match decodeWords w 0 with
      | .error e => .error e
      | .ok i => .ok (i, bs.drop 8)
    | .ok true =>
      if bs.length < 16 then .error .tooShort
      else
        match decodeWords w (wordOfBytes ((bs.drop 8).take 8)) with
        | .error e => .error e
        | .ok i => .ok (i, bs.drop 16)

/-- The length of an instruction in bytes: 16 for FMT 0xF, 8 otherwise, 0 for an event (R182). -/
def instrLen (i : Instr) : Nat := 8 * (encode i).length

end Sys2Proof.Machine

namespace Sys2Proof

/-- What the decoder reads from an instruction whose bits are `w`, the first word in the low bits; the bits
above `nbits` are zero. -/
def decodeTableWord (nbits w : Nat) : Option Instr :=
  let x := w % 2 ^ nbits
  match Machine.decode (Machine.leBytes 16 x) with
  | .ok (i, _) => some i
  | .error _ => none

end Sys2Proof
end

