-- ==== Sys2Proof/Machine/Float.lean ====
section
/-! DEFINITION. Number formats and exact arithmetic (spec 12): each value is decoded exactly, each
operation is computed exactly as a quotient of integers times a power of two, and rounded once. -/

namespace Sys2Proof.Machine

/-- The rounding modes of R292. -/
inductive RMode where
  | rne | rtz | rdn | rup | rna | sto
  deriving DecidableEq, Repr

/-- The mode that a code of 1 to 6 names (R292); other codes read as RNE. -/
def rmodeOf (code : Nat) : RMode :=
  if code = 2 then .rtz else if code = 3 then .rdn else if code = 4 then .rup
  else if code = 5 then .rna else if code = 6 then .sto else .rne

/-- How a format treats its topmost exponent (R284). -/
inductive FKind where
  /-- Infinities and NaNs at exponent all ones. -/
  | ieee
  /-- No infinity; NaN only at all ones (e4m3). -/
  | e4m3
  /-- Neither infinity nor NaN (e2m1). -/
  | e2m1
  deriving DecidableEq, Repr

/-- A floating-point format: exponent bits, mantissa bits, bias (R284). -/
structure FFmt where
  eb : Nat
  mb : Nat
  bias : Nat
  kind : FKind
  deriving DecidableEq, Repr

def fmtF32 : FFmt := ⟨8, 23, 127, .ieee⟩
def fmtF16 : FFmt := ⟨5, 10, 15, .ieee⟩
def fmtBf16 : FFmt := ⟨8, 7, 127, .ieee⟩
def fmtE4m3 : FFmt := ⟨4, 3, 7, .e4m3⟩
def fmtE5m2 : FFmt := ⟨5, 2, 15, .ieee⟩
def fmtE2m1 : FFmt := ⟨2, 1, 1, .e2m1⟩

/-- An exact value: a NaN, an infinity, or `(-1)^neg × m × 2^e`. -/
inductive FVal where
  | nan (signalling : Bool)
  | inf (neg : Bool)
  | fin (neg : Bool) (m : Nat) (e : Int)
  deriving DecidableEq, Repr

/-- The exponent of the smallest normal of a format (R284). -/
def FFmt.emin (f : FFmt) : Int := 1 - (f.bias : Int)

/-- The exact value of a code (R284, R285). -/
def fdecode (f : FFmt) (x : Nat) : FVal :=
  let neg := bitOf x (f.eb + f.mb)
  let e := bitsOf x (f.eb + f.mb - 1) f.mb
  let m := x % 2 ^ f.mb
  if f.kind = .ieee ∧ e = 2 ^ f.eb - 1 then
    if m = 0 then .inf neg
    else .nan (!bitOf x (f.mb - 1) && decide (f.mb ≠ 2))
  else if f.kind = .e4m3 ∧ e = 15 ∧ m = 7 then .nan false
  else if e = 0 then .fin neg m (f.emin - f.mb)
  else .fin neg (2 ^ f.mb + m) ((e : Int) - f.bias - f.mb)

/-- The code of zero with a sign. -/
def fzero (f : FFmt) (neg : Bool) : Nat := if neg then 2 ^ (f.eb + f.mb) else 0

/-- The canonical NaN of a format (R285). -/
def fnan (f : FFmt) : Nat :=
  match f.kind with
  | .ieee => (2 ^ f.eb - 1) * 2 ^ f.mb + 2 ^ (f.mb - 1)
  | .e4m3 => 0x7F
  | .e2m1 => 0

/-- The largest finite code of a format, of a sign (R284). -/
def fmax (f : FFmt) (neg : Bool) : Nat :=
  fzero f neg + match f.kind with
    | .ieee => (2 ^ f.eb - 1) * 2 ^ f.mb - 1
    | .e4m3 => 0x7E
    | .e2m1 => 0x7

/-- The code of an infinity; in a format without infinity, what R293 gives in its place. -/
def finf (f : FFmt) (neg : Bool) : Nat :=
  match f.kind with
  | .ieee => fzero f neg + (2 ^ f.eb - 1) * 2 ^ f.mb
  | .e4m3 => 0x7F
  | .e2m1 => fmax f neg

/-- The canonical NaN of e5m2 is 0x7E (R285), as of every IEEE-like format here. -/
def flagInvalid : BitVec 5 := 1
def flagDivZero : BitVec 5 := 2
def flagOverflow : BitVec 5 := 4
def flagUnderflow : BitVec 5 := 8
def flagInexact : BitVec 5 := 16

/-- An exact nonnegative magnitude `n / d × 2^e`, `d` nonzero. -/
structure Mag where
  n : Nat
  d : Nat
  e : Int
  deriving DecidableEq, Repr

/-- `x × 2^k` as a numerator and denominator. -/
def scaleQ (n d : Nat) (k : Int) : Nat × Nat :=
  if 0 ≤ k then (n * 2 ^ k.toNat, d) else (n, d * 2 ^ (-k).toNat)

/-- ⌊log2⌋ of a nonzero magnitude. -/
def Mag.log2 (x : Mag) : Int :=
  let k : Int := (x.n.log2 : Int) - (x.d.log2 : Int)
  let (a, b) := scaleQ x.n x.d (-k)
  (if b ≤ a then k else k - 1) + x.e

/-- The quotient of a magnitude by `2^q`, rounded to an integer (R292, R295), with a mark whether it
was exact. `l` is the STO comparand. -/
def roundInt (md : RMode) (l : Nat) (neg : Bool) (x : Mag) (q : Int) : Nat × Bool :=
  let (a, b) := scaleQ x.n x.d (x.e - q)
  let t := a / b
  let r := a % b
  let up := match md with
    | .rne => decide (b < 2 * r) || (decide (2 * r = b) && decide (t % 2 = 1))
    | .rtz => false
    | .rdn => neg && decide (r ≠ 0)
    | .rup => !neg && decide (r ≠ 0)
    | .rna => decide (b ≤ 2 * r)
    | .sto => decide (l < r * 65536 / b)
  (if up then t + 1 else t, decide (r = 0))

/-- The result of rounding a nonzero exact value into a format, with its exceptions (R292, R293, R299,
R300): `ftzo` flushes a subnormal result, `sat` turns an infinity into the largest finite value. -/
def fround (f : FFmt) (md : RMode) (ftzo sat : Bool) (l : Nat) (neg : Bool) (x : Mag) : Nat × BitVec 5 :=
  let lg := x.log2
  let q0 := lg - f.mb
  let q := max q0 (f.emin - f.mb)
  let (t, exact) := roundInt md l neg x q
  let (t', q') := if t = 2 ^ (f.mb + 1) then (2 ^ f.mb, q + 1) else (t, q)
  let top : Int := match f.kind with
    | .ieee => (2 ^ f.eb - 2 : Nat) - (f.bias : Int)
    | .e4m3 => 8
    | .e2m1 => 2
  let maxT := match f.kind with | .ieee => 2 ^ (f.mb + 1) - 1 | .e4m3 => 14 | .e2m1 => 3
  let ovf := decide (top - f.mb < q') || (decide (q' = top - f.mb) && decide (maxT < t'))
  if ovf then
    let toInf := match md with
      | .rne | .rna | .sto => true
      | .rtz => false
      | .rdn => neg
      | .rup => !neg
    (if toInf && !sat then finf f neg else fmax f neg, flagOverflow ||| flagInexact)
  else
    let (tu, _) := roundInt md l neg x q0
    let tiny := decide (q0 < f.emin - f.mb) &&
      !(decide (q0 = f.emin - f.mb - 1) && decide (tu = 2 ^ (f.mb + 1)))
    let nx := if exact then 0 else flagInexact ||| (if tiny then flagUnderflow else 0)
    if t' < 2 ^ f.mb then
      if ftzo then (fzero f neg, flagUnderflow ||| flagInexact)
      else (fzero f neg + t', nx)
    else
      (fzero f neg + (q' + f.mb + f.bias).toNat * 2 ^ f.mb + (t' - 2 ^ f.mb), nx)

/-- An exact infinity delivered in a format (R241, R293): itself, or with `sat` the largest finite value, or what a
format without infinity has in its place. It is inexact where the delivered value is no infinity (R300: the delivered
result differs from the exact one), and no overflow, since none happened (R241). -/
def finfOut (f : FFmt) (sat neg : Bool) : Nat × BitVec 5 :=
  if sat then (fmax f neg, flagInexact)
  else (finf f neg, if f.kind = .ieee then 0 else flagInexact)

/-- Rounding an exact value into a format (R241, R248): zeros keep their sign, a NaN gives the canonical
NaN, an infinity stays unless `sat`. -/
def fencode (f : FFmt) (md : RMode) (ftzo sat : Bool) (l : Nat) : FVal → Nat × BitVec 5
  | .nan sg => (fnan f, if sg then flagInvalid else 0)
  | .inf neg => finfOut f sat neg
  | .fin neg m e => if m = 0 then (fzero f neg, 0) else fround f md ftzo sat l neg ⟨m, 1, e⟩

/-- Read an operand (R299): FTZ-in reads a subnormal as the zero of its sign. -/
def fread (f : FFmt) (ftzi : Bool) (x : Nat) : FVal :=
  match fdecode f x with
  | .fin neg m e => if ftzi && decide (m < 2 ^ f.mb) then .fin neg 0 0 else .fin neg m e
  | v => v

/-- The value with its sign inverted. -/
def FVal.negate : FVal → FVal
  | .nan s => .nan s
  | .inf n => .inf (!n)
  | .fin n m e => .fin (!n) m e

def FVal.isNaN : FVal → Bool
  | .nan _ => true
  | _ => false

def FVal.isSNaN : FVal → Bool
  | .nan s => s
  | _ => false

def FVal.isInf : FVal → Bool
  | .inf _ => true
  | _ => false

def FVal.isZero : FVal → Bool
  | .fin _ m _ => m == 0
  | _ => false

def FVal.sign : FVal → Bool
  | .nan _ => false
  | .inf n => n
  | .fin n _ _ => n

/-- A signed integer times `2^e` as a value; zero takes the sign given. -/
def FVal.ofInt (zneg : Bool) (m : Int) (e : Int) : FVal :=
  if m = 0 then .fin zneg 0 0 else .fin (decide (m < 0)) m.natAbs e

/-- The signed mantissa of a finite value at exponent `e0` at or below its own. -/
def FVal.at (v : FVal) (e0 : Int) : Int :=
  match v with
  | .fin n m e => (if n then -(m : Int) else (m : Int)) * (2 : Int) ^ (e - e0).toNat
  | _ => 0

/-- The exponent of a finite value; 0 for the others. -/
def FVal.expo : FVal → Int
  | .fin _ m e => if m = 0 then 0 else e
  | _ => 0

/-- The exact sum of finite values (R294 gives the sign of a zero: `−0` only when every term is `−0`, or under
RDN for terms of both signs). -/
def sumFinite (md : RMode) (vs : List FVal) : FVal :=
  let nz := vs.filter fun v => !v.isZero
  let e0 := nz.foldl (fun a v => min a v.expo) (match nz with | v :: _ => v.expo | [] => 0)
  let s := nz.foldl (fun a v => a + v.at e0) 0
  if s = 0 then
    let allNeg := vs.all FVal.sign
    let allPos := vs.all fun v => !v.sign
    .fin (allNeg || (!allPos && decide (md = .rdn))) 0 0
  else FVal.ofInt false s e0

/-- The exact product; an infinity times a zero is invalid. -/
def fmulExact (a b : FVal) : FVal × BitVec 5 :=
  match a, b with
  | .nan s, b => (.nan false, if s || b.isSNaN then flagInvalid else 0)
  | a, .nan s => (.nan false, if s || a.isSNaN then flagInvalid else 0)
  | .inf n, b => if b.isZero then (.nan false, flagInvalid) else (.inf (n != b.sign), 0)
  | a, .inf n => if a.isZero then (.nan false, flagInvalid) else (.inf (n != a.sign), 0)
  | .fin n m e, .fin n' m' e' => (.fin (n != n') (m * m') (if m * m' = 0 then 0 else e + e'), 0)

/-- The exact sum of values; infinities of both signs are invalid. DEDUCED (log 13): beside a NaN term they raise nothing, because
the sum is that NaN. -/
def fsumExact (md : RMode) (vs : List FVal) : FVal × BitVec 5 :=
  if vs.any FVal.isNaN then (.nan false, if vs.any FVal.isSNaN then flagInvalid else 0)
  else
    let pi := vs.any fun v => v.isInf && !v.sign
    let ni := vs.any fun v => v.isInf && v.sign
    if pi && ni then (.nan false, flagInvalid)
    else if pi then (.inf false, 0)
    else if ni then (.inf true, 0)
    else (sumFinite md vs, 0)

/-- How an element operation rounds: mode, flushing, saturation, STO comparand. -/
structure RCtx where
  md : RMode
  ftzi : Bool
  ftzo : Bool
  sat : Bool
  l : Nat
  deriving DecidableEq, Repr

/-- `a + b` in a format (R241, R294). -/
def fadd (f : FFmt) (c : RCtx) (a b : Nat) : Nat × BitVec 5 :=
  let (v, fl) := fsumExact c.md [fread f c.ftzi a, fread f c.ftzi b]
  let (r, fl') := fencode f c.md c.ftzo c.sat c.l v
  (r, fl ||| fl')

/-- The code with its sign bit inverted (na and nb, R187). -/
def fneg (f : FFmt) (a : Nat) : Nat := a ^^^ 2 ^ (f.eb + f.mb)

/-- `a − b` in a format. -/
def fsub (f : FFmt) (c : RCtx) (a b : Nat) : Nat × BitVec 5 :=
  let (v, fl) := fsumExact c.md [fread f c.ftzi a, (fread f c.ftzi b).negate]
  let (r, fl') := fencode f c.md c.ftzo c.sat c.l v
  (r, fl ||| fl')

/-- `a × b` in a format. -/
def fmul (f : FFmt) (c : RCtx) (a b : Nat) : Nat × BitVec 5 :=
  let (v, fl) := fmulExact (fread f c.ftzi a) (fread f c.ftzi b)
  let (r, fl') := fencode f c.md c.ftzo c.sat c.l v
  (r, fl ||| fl')

/-- `a × b + d`, rounded once (R241). A product of an infinity and a zero is invalid whatever `d` is (R300,
log 13). -/
def ffma (f : FFmt) (c : RCtx) (a b d : Nat) : Nat × BitVec 5 :=
  let vd := fread f c.ftzi d
  let (p, fl) := fmulExact (fread f c.ftzi a) (fread f c.ftzi b)
  let (v, fl2) := fsumExact c.md [p, vd]
  let (r, fl3) := fencode f c.md c.ftzo c.sat c.l v
  (r, fl ||| fl2 ||| fl3)

/-- `a / b` in a format, correctly rounded (R246). -/
def fdiv (f : FFmt) (c : RCtx) (a b : Nat) : Nat × BitVec 5 :=
  let va := fread f c.ftzi a
  let vb := fread f c.ftzi b
  if va.isNaN || vb.isNaN then (fnan f, if va.isSNaN || vb.isSNaN then flagInvalid else 0)
  else
    let neg := va.sign != vb.sign
    match va, vb with
    | .inf _, .inf _ => (fnan f, flagInvalid)
    | .inf _, _ => finfOut f c.sat neg
    | _, .inf _ => (fzero f neg, 0)
    | .fin _ m e, .fin _ m' e' =>
      if m' = 0 then
        if m = 0 then (fnan f, flagInvalid)
        else let (r, fl) := finfOut f c.sat neg; (r, fl ||| flagDivZero)
      else if m = 0 then (fzero f neg, 0)
      else fround f c.md c.ftzo c.sat c.l neg ⟨m, m', e - e'⟩
    | _, _ => (fnan f, 0)

/-- A magnitude that rounds as the square root of `m × 2^e` does in every format here: 80 exact bits and
a sticky half. -/
def sqrtMag (m : Nat) (e : Int) : Mag :=
  let m1 := if e % 2 = 0 then m else 2 * m
  let e1 := if e % 2 = 0 then e else e - 1
  let big := m1 * 2 ^ 160
  let s := big.sqrt
  if s * s = big then ⟨s, 1, e1 / 2 - 80⟩ else ⟨2 * s + 1, 2, e1 / 2 - 80⟩

/-- The square root, correctly rounded (R246). -/
def fsqrt (f : FFmt) (c : RCtx) (a : Nat) : Nat × BitVec 5 :=
  match fread f c.ftzi a with
  | .nan s => (fnan f, if s then flagInvalid else 0)
  | .inf neg => if neg then (fnan f, flagInvalid) else finfOut f c.sat false
  | .fin neg m e =>
    if m = 0 then (fzero f neg, 0)
    else if neg then (fnan f, flagInvalid)
    else fround f c.md c.ftzo c.sat c.l false (sqrtMag m e)

/-- Whether `a < b`, for values that are no NaN; `−0` and `+0` are equal. -/
def fltVal (a b : FVal) : Bool :=
  match a, b with
  | .inf n, .inf n' => n && !n'
  | .inf n, _ => n
  | _, .inf n' => !n'
  | a, b =>
    let e0 := min a.expo b.expo
    decide (a.at e0 < b.at e0)

/-- Whether `a = b`, for values that are no NaN. -/
def feqVal (a b : FVal) : Bool := !fltVal a b && !fltVal b a

/-- The order that minimumNumber and maximumNumber use: `−0` below `+0` (R217, R241). -/
def fltZ (a b : FVal) : Bool := fltVal a b || (feqVal a b && a.sign && !b.sign)

/-- minimumNumber (`wantMax = false`) or maximumNumber (R217, R241): flushed operands keep their sign, a
number beside a NaN is the result, a signalling NaN sets invalid. -/
def fminmax (f : FFmt) (wantMax : Bool) (ftzi ftzo : Bool) (a b : Nat) : Nat × BitVec 5 :=
  let va := fread f ftzi a
  let vb := fread f ftzi b
  let fl := if va.isSNaN || vb.isSNaN then flagInvalid else 0
  let pick (v : FVal) : Nat × BitVec 5 :=
    let (r, fl') := fencode f .rne ftzo false 0 v
    (r, fl ||| fl')
  if va.isNaN && vb.isNaN then (fnan f, fl)
  else if va.isNaN then pick vb
  else if vb.isNaN then pick va
  else if fltZ va vb then pick (if wantMax then vb else va)
  else pick (if wantMax then va else vb)

/-- The comparisons of SSET and VCMP on floating-point operands (R219): 0 eq, 1 ne, 2 lt, 3 le, 4 gt,
5 ge, 6 uo, 7 or; a signalling NaN sets invalid. -/
def fcompare (f : FFmt) (ftzi : Bool) (cc : Nat) (a b : Nat) : Bool × BitVec 5 :=
  let va := fread f ftzi a
  let vb := fread f ftzi b
  let uo := va.isNaN || vb.isNaN
  let r :=
    if cc = 0 then !uo && feqVal va vb
    else if cc = 1 then uo || !feqVal va vb
    else if cc = 2 then !uo && fltVal va vb
    else if cc = 3 then !uo && !fltVal vb va
    else if cc = 4 then !uo && fltVal vb va
    else if cc = 5 then !uo && !fltVal va vb
    else if cc = 6 then uo
    else !uo
  (r, if va.isSNaN || vb.isSNaN then flagInvalid else 0)

/-- The class bit of an f32 (R245). -/
def fclass (x : Nat) : Nat :=
  match fdecode fmtF32 x with
  | .nan s => if s then 8 else 9
  | .inf n => if n then 0 else 7
  | .fin n m _ =>
    if m = 0 then (if n then 3 else 4)
    else if m < 2 ^ 23 then (if n then 2 else 5)
    else (if n then 1 else 6)

/-- A float value rounded to an integer and clamped to `lo … hi` (R248). -/
def fToInt (md : RMode) (l : Nat) (lo hi : Int) (v : FVal) : Int × BitVec 5 :=
  match v with
  | .nan _ => (0, flagInvalid)
  | .inf n => (if n then lo else hi, flagInvalid)
  | .fin n m e =>
    if m = 0 then (0, 0)
    else
      let (t, exact) := roundInt md l n ⟨m, 1, e⟩ 0
      let r : Int := if n then -(t : Int) else t
      if r < lo then (lo, flagInvalid) else if hi < r then (hi, flagInvalid)
      else (r, if exact then 0 else flagInexact)

/-- One advance of the stochastic-rounding state (R295). -/
def lfsrNext (q : Word) : Word :=
  if q.getLsbD 0 then (q >>> 1) ^^^ 0x80200003#32 else q >>> 1

/-- `n` advances. -/
def lfsrSteps : Nat → Word → Word
  | 0, q => q
  | n + 1, q => lfsrSteps n (lfsrNext q)

/-- The seed of a lane (R295). -/
def lfsrSeed (seed : Nat) (laneid : Nat) : Word :=
  0x6C070000#32 ||| BitVec.ofNat 32 ((seed ^^^ laneid) % 65536)

/-- The exact value of a SEB element (R289): `p` magnitude bits, micro-exponent `m`. -/
def sebVal (p : Nat) (e : Nat) (m : Bool) (x : Nat) : FVal :=
  if e = 255 then .nan false
  else .fin (bitOf x p) (x % 2 ^ p) ((e : Int) - 127 - (if m then 1 else 0) - ((p : Int) - 1))

/-- A value under an MX scale (R287). -/
def mxVal (x : Nat) (v : FVal) : FVal :=
  if x = 255 then .nan false
  else match v with
    | .fin n m e => .fin n m (e + (x : Int) - 127)
    | v => v

end Sys2Proof.Machine
end

