-- ==== Sys2Proof/Machine/Flags.lean ====
section
/-! DEFINITION. MODE (R296 to R298): its fields, its sticky flags and its trap enables. -/

namespace Sys2Proof.Machine

/-- MODE of a new warp (R160). -/
def modeReset : Word := 1

/-- RM, bits [2:0]. -/
def modeRM (m : Word) : Nat := (m.extractLsb' 0 3).toNat
def modeFtzi32 (m : Word) : Bool := m.getLsbD 3
def modeFtzo32 (m : Word) : Bool := m.getLsbD 4
def modeFtzi16 (m : Word) : Bool := m.getLsbD 5
def modeFtzo16 (m : Word) : Bool := m.getLsbD 6
/-- SEED, bits [31:16]. -/
def modeSeed (m : Word) : Nat := (m.extractLsb' 16 16).toNat

/-- The sticky flags, bits [11:7], in the order of `%trapimm` (R296). -/
def modeFlags (m : Word) : BitVec 5 := m.extractLsb' 7 5

/-- MODE with flags raised. -/
def modeRaise (m : Word) (fl : BitVec 5) : Word := m ||| (fl.setWidth 32 <<< 7)

/-- The enables, bits [15:12], for invalid, divide-by-zero, overflow and underflow; inexact has none. -/
def modeEnables (m : Word) : BitVec 5 := (m.extractLsb' 12 4).setWidth 5

/-- Whether some raised exception is enabled (R217, R241). -/
def modeTraps (m : Word) (fl : BitVec 5) : Bool := decide (fl &&& modeEnables m ≠ 0)

/-- Whether RM of a value to be written is one that MODE may hold (R209, R223). -/
def modeRmLegal (m : Word) : Bool := decide (1 ≤ modeRM m) && decide (modeRM m ≤ 6)

end Sys2Proof.Machine
end

