-- ==== Sys2Proof/Machine/Arith.lean ====
section
/-! DEFINITION. Integer and bit arithmetic on numbers of `n` bits, shared by the scalar and vector
instructions (R214 to R219, R239). Values are numbers below `2^n`. -/

namespace Sys2Proof.Machine

/-- Whether an integer type is signed; the value that a number of `n` bits has under it. -/
def intVal (signed : Bool) (n x : Nat) : Int := if signed then signedOf n x else (x % 2 ^ n : Nat)

/-- The least and greatest values of `n` bits (R239). -/
def intMin (signed : Bool) (n : Nat) : Int := if signed then -((2 ^ (n - 1) : Nat) : Int) else 0
def intMax (signed : Bool) (n : Nat) : Int := if signed then ((2 ^ (n - 1) : Nat) : Int) - 1 else ((2 ^ n : Nat) : Int) - 1

/-- Narrow an exact result: wrap, or clamp under sat (R239). -/
def narrow (signed sat : Bool) (n : Nat) (x : Int) : Nat :=
  if sat then wrapTo n (max (intMin signed n) (min (intMax signed n) x)) else wrapTo n x

/-- High half of the product (R214 SMULH, R239 VMULH). -/
def mulHigh (signed : Bool) (n a b : Nat) : Nat :=
  wrapTo n (intVal signed n a * intVal signed n b / (2 ^ n : Nat))

/-- Division rounded toward zero with its two special cases (R215). -/
def divInt (signed : Bool) (n a b : Nat) : Nat :=
  if b % 2 ^ n = 0 then 2 ^ n - 1 else wrapTo n (Int.tdiv (intVal signed n a) (intVal signed n b))

/-- Remainder with the sign of the dividend (R215). -/
def remInt (signed : Bool) (n a b : Nat) : Nat :=
  if b % 2 ^ n = 0 then a % 2 ^ n else wrapTo n (Int.tmod (intVal signed n a) (intVal signed n b))

/-- The smaller or larger value. -/
def minInt (signed : Bool) (n a b : Nat) : Nat := if intVal signed n b < intVal signed n a then b else a
def maxInt (signed : Bool) (n a b : Nat) : Nat := if intVal signed n a < intVal signed n b then b else a

/-- Shifts by B mod N (R214). -/
def shlN (n a b : Nat) : Nat := a * 2 ^ (b % n) % 2 ^ n
def shrN (n a b : Nat) : Nat := a % 2 ^ n / 2 ^ (b % n)
def sarN (n a b : Nat) : Nat := wrapTo n (signedOf n a / (2 ^ (b % n) : Nat))
def rotN (n a b : Nat) : Nat := (a % 2 ^ n * 2 ^ (b % n) + a % 2 ^ n / 2 ^ (n - b % n)) % 2 ^ n

/-- The field of SBFE and SBFI: offset and clamped length (R216). -/
def bfField (n b : Nat) : Nat × Nat :=
  let off := b % 256
  let len := b / 256 % 256
  (off, if n ≤ off then 0 else min len (n - off))

/-- Bit-field extract (R216). -/
def bfExtract (signed : Bool) (n a b : Nat) : Nat :=
  let (off, len) := bfField n b
  let f := a % 2 ^ n / 2 ^ off % 2 ^ len
  if signed && decide (0 < len) then wrapTo n (signedOf len f) else f

/-- Bit-field insert into `d` (R216). -/
def bfInsert (n d a b : Nat) : Nat :=
  let (off, len) := bfField n b
  if len = 0 then d else
    let m := (2 ^ len - 1) * 2 ^ off
    (d &&& (2 ^ n - 1 - m)) ||| (a * 2 ^ off &&& m)

/-- Number of set bits among the low `n`. -/
def popc : Nat → Nat → Nat
  | 0, _ => 0
  | n + 1, x => x % 2 + popc n (x / 2)

/-- Leading zeros among `n` bits; `n` for 0. -/
def clzN (n x : Nat) : Nat := if x % 2 ^ n = 0 then n else n - 1 - (x % 2 ^ n).log2

/-- The index of the lowest set bit among `n`. -/
def ffsN : Nat → Nat → Option Nat
  | 0, _ => none
  | n + 1, x => if x % 2 = 1 then some 0 else (ffsN n (x / 2)).map (· + 1)

/-- The bits of `x` in reverse order. -/
def brevN : Nat → Nat → Nat
  | 0, _ => 0
  | n + 1, x => (x % 2) * 2 ^ n + brevN n (x / 2)

/-- The integer conditions of SSET and VCMP (R219): 0 eq, 1 ne, 2 lt, 3 le, 4 gt, 5 ge. -/
def compareInt (signed : Bool) (n cc a b : Nat) : Bool :=
  let x := intVal signed n a
  let y := intVal signed n b
  if cc = 0 then decide (x = y) else if cc = 1 then decide (x ≠ y)
  else if cc = 2 then decide (x < y) else if cc = 3 then decide (x ≤ y)
  else if cc = 4 then decide (y < x) else decide (y ≤ x)

/-- How an instruction rounds the elements of one format, before STO's comparand is known (R187, R217, R241). -/
structure FpEnv where
  md : RMode
  sat : Bool
  ftzi32 : Bool
  ftzo32 : Bool
  ftzi16 : Bool
  ftzo16 : Bool
  deriving DecidableEq, Repr

/-- The rounding of an element of a format with STO comparand `l`: f16 has its own FTZ bits, f32 and bf16 share
theirs (R241, R299). -/
def FpEnv.ctx (e : FpEnv) (half : Bool) (l : Nat) : RCtx :=
  { md := e.md, ftzi := if half then e.ftzi16 else e.ftzi32, ftzo := if half then e.ftzo16 else e.ftzo32,
    sat := e.sat, l := l }

/-- The environment that MODE and rnd give (R292, R297). -/
def fpEnvOf (mode : Word) (rnd : Nat) (sat : Bool) : FpEnv :=
  { md := rmodeOf (if rnd = 0 then modeRM mode else rnd), sat := sat
    ftzi32 := modeFtzi32 mode, ftzo32 := modeFtzo32 mode
    ftzi16 := modeFtzi16 mode, ftzo16 := modeFtzo16 mode }

/-- The environment of scalar instructions, reductions and scans: MODE's mode, with RNE in place of STO (R217,
R257). -/
def fpEnvNoSto (mode : Word) : FpEnv :=
  let e := fpEnvOf mode 0 false
  if e.md = .sto then { e with md := .rne } else e

end Sys2Proof.Machine
end

