-- ==== Sys2Proof/Machine/Transcendental.lean ====
section
/-! DEFINITION. The transcendentals of R246. The exact value is computed with at least 60 correct bits; the
result is one of the f32 values within the stated bound of it, and which one, the free function
`Config.transPick` says (log 2). -/

namespace Sys2Proof.Machine

/-- π and log2 e, times 2^240, truncated. -/
def pi240 : Nat := 5550713758724461735233077129787137796835226094488409880962709825408003150
def log2e240 : Nat := 2549021498364996158492822670917473327442576334123703768170874065315799874

/-- The largest f32 magnitude code whose value is at most a magnitude. -/
def floorCode (x : Mag) : Nat :=
  if x.n = 0 then 0 else
    let q := max (x.log2 - 23) (-149)
    let (t, _) := roundInt .rtz 0 false x q
    if t < 2 ^ 23 then t else (q + 150).toNat * 2 ^ 23 + (t - 2 ^ 23)

/-- Whether the f32 magnitude code `c` lies within `k` ulp of `x` (R246). -/
def withinUlp (k : Nat) (x : Mag) (c : Nat) : Bool :=
  match fdecode fmtF32 c with
  | .fin _ m e =>
    let q := max (x.log2 - 23) (-149)
    let s : Int := min (min e x.e) q
    let v := m * 2 ^ (e - s).toNat * x.d
    let y := x.n * 2 ^ (x.e - s).toNat
    let b := k * 2 ^ (q - s).toNat * x.d
    decide (v ≤ y + b) && decide (y ≤ v + b)
  | _ => false

/-- The f32 magnitude codes within `k` ulp of `x`. -/
def ulpCodes (k : Nat) (x : Mag) : List Nat :=
  let t := floorCode x
  ((List.range (4 * k + 1)).map fun i => t + i).filterMap fun c =>
    if 2 * k ≤ c ∧ c - 2 * k < 0x7F800000 ∧ withinUlp k x (c - 2 * k) then some (c - 2 * k) else none

/-- A result of opcode `op` for operand `x`: a value within `k` ulp of the magnitude, of a sign; overflow where the
nearest value is infinite (R246, R293, R300), FTZ-out on a subnormal result (R299). DESIGN CHOICE (log 83): where the
chosen value is already a zero, FTZ-out has flushed nothing and sets no flag; and a VRCP past the largest finite value, for which the
table of R246 names no overflow, gives an infinity with overflow and inexact. -/
def transResult (op : Nat) (x : Word) (k : Nat) (ftzo neg : Bool) (v : Mag) : Nat × BitVec 5 :=
  let sgn := if neg then 0x80000000 else 0
  if (2 ^ 25 - 1) * v.d * 2 ^ (103 - v.e).toNat ≤ v.n * 2 ^ (v.e - 103).toNat then
    (sgn + 0x7F800000, flagOverflow ||| flagInexact)
  else
    let cs := ulpCodes k v
    let c := cs.getD (Config.transPick op x % cs.length) (floorCode v)
    if ftzo && decide (c < 0x800000) && decide (0 < c) then (sgn, flagUnderflow ||| flagInexact)
    else (sgn + c, 0)

/-- √(n × 2^e) with 100 bits below the point of a scaled root: a magnitude. -/
def rootMag (n : Nat) (e : Int) : Mag :=
  let n1 := if e % 2 = 0 then n else 2 * n
  let e1 := if e % 2 = 0 then e else e - 1
  ⟨(n1 * 2 ^ 200).sqrt, 1, e1 / 2 - 100⟩

/-- 2^(f / 2^240) × 2^200 for f below 2^240, by the bits of f from the highest: `c` is 2^(2^-i) × 2^200. -/
def exp2Bits : Nat → Nat → Nat → Nat → Nat
  | 0, _, acc, _ => acc
  | k + 1, f, acc, c =>
    let c' := (c * 2 ^ 200).sqrt
    let f2 := f * 2
    if f2 / 2 ^ 240 = 1 then exp2Bits k (f2 % 2 ^ 240) (acc * c' / 2 ^ 200) c'
    else exp2Bits k f2 acc c'

/-- 2^(y / 2^240) for a signed y: a magnitude. -/
def exp2Mag (y : Int) : Mag :=
  let n := y / (2 ^ 240 : Nat)
  let f := (y % (2 ^ 240 : Nat)).toNat
  ⟨exp2Bits 100 f (2 ^ 200) (2 ^ 201), 1, n - 200⟩

/-- log2 of y / 2^256 for y in [2^256, 2^257), times 2^110: bit by bit. -/
def log2Bits : Nat → Nat → Nat → Nat
  | 0, _, acc => acc
  | k + 1, y, acc =>
    let y2 := y * y / 2 ^ 256
    if 2 ^ 257 ≤ y2 then log2Bits k (y2 / 2) (2 * acc + 1) else log2Bits k y2 (2 * acc)

/-- The Taylor series of the sine: terms a, a³/3!, … of a fixed point argument with 200 fraction bits. -/
def sinTerms : Nat → Nat → Nat → Nat → Int → Int
  | 0, _, _, _, acc => acc
  | k + 1, i, a2, t, acc =>
    let t' := t * a2 / 2 ^ 200 / ((2 * i) * (2 * i + 1))
    sinTerms k (i + 1) a2 t' (if i % 2 = 1 then acc - t' else acc + t')

/-- sin(π r) for 0 < r ≤ 1/2, r = m × 2^e: a magnitude. -/
def sinPiMag (m : Nat) (e : Int) : Mag :=
  if (m.log2 : Int) + e < -30 then ⟨m * pi240, 1, e - 240⟩
  else
    let a := (scaleQ (m * pi240) 1 (e - 40))
    let a := a.1 / a.2
    ⟨(sinTerms 40 1 (a * a / 2 ^ 200) a a).toNat, 1, -200⟩

/-- sin(π x) of a finite nonzero x = (−1)^neg × m × 2^e: the sign and magnitude; magnitude 0 for an integer. -/
def sinPi (neg : Bool) (m : Nat) (e : Int) : Bool × Mag :=
  if 1 ≤ e then (neg, ⟨0, 1, 0⟩)
  else
    let k := (-e).toNat
    let r := m % 2 ^ (k + 1)
    let (sg, r) := if 2 ^ k ≤ r then (!neg, r - 2 ^ k) else (neg, r)
    if r = 0 then (neg, ⟨0, 1, 0⟩)
    else
      let r := if 2 ^ k < 2 * r then 2 ^ k - r else r
      (sg, sinPiMag r e)

/-- tanh of m × 2^e > 0: a magnitude. -/
def tanhMag (m : Nat) (e : Int) : Mag :=
  let lg := (m.log2 : Int) + e
  if lg < -30 then ⟨m, 1, e⟩
  else if 6 ≤ lg then ⟨2 ^ 100 - 1, 1, -100⟩
  else
    let y := scaleQ (m * log2e240) 1 (e + 1)
    let x := exp2Mag ((y.1 / y.2 : Nat) : Int)
    let v := scaleQ x.n 1 (x.e + 200)
    let v := v.1 / v.2
    ⟨v - 2 ^ 200, v + 2 ^ 200, 0⟩

/-- An f32 operand as FTZ-in leaves it: a subnormal is read as the zero of its sign before any other step (R299). -/
def ftzIn (ftzi : Bool) (x : Word) : Word := if ftzi && x.extractLsb' 23 8 == 0 then x &&& 0x80000000 else x

/-- The transcendental of V3 opcode `op` (R246) other than VSQRT and VDIV: code and exceptions. -/
def transcendental (op : Nat) (ftzi ftzo : Bool) (x : Word) : Nat × BitVec 5 :=
  let x := ftzIn ftzi x
  match fread fmtF32 ftzi x.toNat with
  | .nan s => (0x7FC00000, if s then flagInvalid else 0)
  | .inf neg =>
    let sgn := if neg then 0x80000000 else 0
    if op = 0x30 then (sgn, 0)
    else if op = 0x31 then (if neg then (0x7FC00000, flagInvalid) else (0, 0))
    else if op = 0x33 then (if neg then 0 else 0x7F800000, 0)
    else if op = 0x34 then (if neg then (0x7FC00000, flagInvalid) else (0x7F800000, 0))
    else if op = 0x38 then (sgn + 0x3F800000, 0)
    else (0x7FC00000, flagInvalid)
  | .fin neg m e =>
    let sgn := if neg then 0x80000000 else 0
    if m = 0 then
      if op = 0x30 ∨ op = 0x31 then (sgn + 0x7F800000, flagDivZero)
      else if op = 0x33 then (0x3F800000, 0)
      else if op = 0x34 then (0xFF800000, flagDivZero)
      else if op = 0x36 then transResult op x 2 ftzo false ⟨1, 1, 0⟩
      else (sgn, 0)
    else if op = 0x30 then transResult op x 1 ftzo neg ⟨1, m, -e⟩
    else if op = 0x31 then
      if neg then (0x7FC00000, flagInvalid)
      else transResult op x 1 ftzo false (rootMag (2 ^ 160 / m) (-e - 160))
    else if op = 0x33 then
      if 8 ≤ (m.log2 : Int) + e then
        (if neg then transResult op x 2 ftzo false ⟨1, 1, -300⟩ else (0x7F800000, flagOverflow ||| flagInexact))
      else
        let (a, b) := scaleQ m 1 (e + 240)
        let y : Int := if neg then -((a / b : Nat) : Int) - (if a % b = 0 then 0 else 1) else (a / b : Nat)
        if y % (2 ^ 240 : Nat) = 0 ∧ a % b = 0 then
          let n := y / (2 ^ 240 : Nat)
          if 127 < n then (0x7F800000, flagOverflow ||| flagInexact)
          else if -149 ≤ n then
            fround fmtF32 .rne ftzo false 0 false ⟨1, 1, n⟩
          else transResult op x 2 ftzo false ⟨1, 1, n⟩
        else transResult op x 2 ftzo false (exp2Mag y)
    else if op = 0x34 then
      if neg then (0x7FC00000, flagInvalid)
      else
        let lg := m.log2
        let ex := (lg : Int) + e
        if m = 2 ^ lg then
          fencode fmtF32 .rne ftzo false 0 (FVal.ofInt false ex 0)
        else
          let f := log2Bits 110 (m * 2 ^ (256 - lg)) 0
          let v : Int := ex * (2 ^ 110 : Nat) + f
          transResult op x 2 ftzo (decide (v < 0)) ⟨v.natAbs, 1, -110⟩
    else if op = 0x35 then
      let (sg, v) := sinPi neg m e
      if v.n = 0 then (sgn, 0) else transResult op x 2 ftzo sg v
    else if op = 0x36 then
      -- cos πx = sin π(x + 1/2); the cosine is even
      if 2 ≤ e then transResult op x 2 ftzo false ⟨1, 1, 0⟩
      else if e < -100 then transResult op x 2 ftzo false ⟨2 ^ 100 - 1, 1, -100⟩
      else
        let (a, _) := scaleQ m 1 (e + 101)
        let (sg, v) := sinPi false (a + 2 ^ 100) (-101)
        if v.n = 0 then (0, 0) else transResult op x 2 ftzo sg v
    else transResult op x 3 ftzo neg (tanhMag m e)

end Sys2Proof.Machine
end

