-- ==== Sys2Proof/Machine/Lanes.lean ====
section
/-! DEFINITION. What a V3 instruction computes in one lane (R239 to R253), as plain functions of the lane's
operands. -/

namespace Sys2Proof.Machine

/-- A lane's operands: the registers from va up (the pair, the range, or the one), operand b, the old vd, or
operand c of VMAD4, the type code, how elements round, the lane's STO state, and whether operand a was negated. -/
structure LaneIn where
  a : List Word
  b : Dword
  d : Word
  ty : Nat
  e : FpEnv
  q : Word
  na : Bool := false
  deriving DecidableEq, Repr

/-- What a lane produces: the values of vd upward, the exceptions, the STO state. -/
structure LaneOut where
  ws : List Word
  fl : BitVec 5
  q : Word
  deriving DecidableEq, Repr

/-- Operand a, and the low word of operand b. -/
def LaneIn.a0 (x : LaneIn) : Nat := (x.a.headD 0).toNat
def LaneIn.b0 (x : LaneIn) : Nat := (loWord x.b).toNat
/-- The pair at va. -/
def LaneIn.a64 (x : LaneIn) : Nat := (pairOf (x.a.headD 0) (x.a.getD 1 0)).toNat

/-- Element sizes and signedness of the integer types (R185): i32, n32, i16x2, n16x2. -/
def tySigned (ty : Nat) : Bool := ty == 0 || ty == 5
def tyPacked (ty : Nat) : Bool := decide (3 ≤ ty)
def tyFloat (ty : Nat) : Bool := decide (2 ≤ ty) && decide (ty ≤ 4)

/-- The format of a floating-point type. -/
def tyFmt (ty : Nat) : FFmt := if ty = 3 then fmtF16 else if ty = 4 then fmtBf16 else fmtF32

/-- The bits that na and nb flip (R187). -/
def signBits (ty : Nat) : Word := if ty = 2 then 0x80000000#32 else 0x80008000#32

/-- One result word with no exceptions. -/
def LaneIn.out (x : LaneIn) (r : Nat) : LaneOut := ⟨[BitVec.ofNat 32 r], 0, x.q⟩

/-- A pair of result words. -/
def LaneIn.out64 (x : LaneIn) (r : Nat) : LaneOut :=
  ⟨[BitVec.ofNat 32 r, BitVec.ofNat 32 (r / 2 ^ 32)], 0, x.q⟩

/-- Apply an integer operation to the element, or to each half (R237). -/
def laneInt (f : Bool → Nat → Nat → Nat → Nat → Nat) (x : LaneIn) : LaneOut :=
  let s := tySigned x.ty
  let d := x.d.toNat
  if tyPacked x.ty then
    let lo := f s 16 (x.a0 % 65536) (x.b0 % 65536) (d % 65536)
    let hi := f s 16 (x.a0 / 65536) (x.b0 / 65536) (d / 65536)
    x.out (lo % 65536 + 65536 * (hi % 65536))
  else x.out (f s 32 x.a0 x.b0 d)

/-- One rounded element: the comparand is read from the STO state, which then advances (R243, R295). -/
def roundElem (e : FpEnv) (half : Bool) (q : Word) (f : RCtx → Nat × BitVec 5) : Nat × BitVec 5 × Word :=
  let r := f (e.ctx half (q.toNat % 65536))
  (r.1, r.2, if e.md = .sto then lfsrNext q else q)

/-- Apply a floating-point operation to the element, or to each half, the low one first (R237, R243). -/
def laneFp (f : FFmt → RCtx → Nat → Nat → Nat → Nat × BitVec 5) (x : LaneIn) : LaneOut :=
  let fm := tyFmt x.ty
  let half := decide (x.ty = 3)
  let d := x.d.toNat
  if tyPacked x.ty then
    let lo := roundElem x.e half x.q fun c => f fm c (x.a0 % 65536) (x.b0 % 65536) (d % 65536)
    let hi := roundElem x.e half lo.2.2 fun c => f fm c (x.a0 / 65536) (x.b0 / 65536) (d / 65536)
    ⟨[BitVec.ofNat 32 (lo.1 + 65536 * hi.1)], lo.2.1 ||| hi.2.1, hi.2.2⟩
  else
    let r := roundElem x.e half x.q fun c => f fm c x.a0 x.b0 d
    ⟨[BitVec.ofNat 32 r.1], r.2.1, r.2.2⟩

/-- A floating-point operation that does not round by rnd: it advances no STO state (VMIN, VMAX). -/
def laneFpExact (f : FFmt → RCtx → Nat → Nat → Nat × BitVec 5) (x : LaneIn) : LaneOut :=
  let e := { x.e with md := .rne }
  { laneFp (fun fm c a b _ => f fm c a b) { x with e := e } with q := x.q }

/-- VMOV, VAND, VOR, VXOR, VNOT (R239). -/
def laneMov (x : LaneIn) : LaneOut := x.out x.b0
def laneAnd (x : LaneIn) : LaneOut := x.out (x.a0 &&& x.b0)
def laneOr (x : LaneIn) : LaneOut := x.out (x.a0 ||| x.b0)
def laneXor (x : LaneIn) : LaneOut := x.out (x.a0 ^^^ x.b0)
def laneNot (x : LaneIn) : LaneOut := x.out (2 ^ 32 - 1 - x.b0)

/-- VADD, VSUB, VMUL, VMAD (R239, R241). -/
def laneAdd (x : LaneIn) : LaneOut :=
  if tyFloat x.ty then laneFp (fun fm c a b _ => fadd fm c a b) x
  else laneInt (fun s n a b _ => narrow s x.e.sat n (intVal s n a + intVal s n b)) x
def laneSub (x : LaneIn) : LaneOut :=
  if tyFloat x.ty then laneFp (fun fm c a b _ => fsub fm c a b) x
  else laneInt (fun s n a b _ => narrow s x.e.sat n (intVal s n a - intVal s n b)) x
def laneMul (x : LaneIn) : LaneOut :=
  if tyFloat x.ty then laneFp (fun fm c a b _ => fmul fm c a b) x
  else laneInt (fun s n a b _ => narrow s x.e.sat n (intVal s n a * intVal s n b)) x
def laneMad (x : LaneIn) : LaneOut :=
  if tyFloat x.ty then laneFp ffma x
  else laneInt (fun s n a b d => narrow s x.e.sat n (intVal s n a * intVal s n b + intVal s n d)) x

/-- VMULH (R239). -/
def laneMulh (x : LaneIn) : LaneOut := laneInt (fun s n a b _ => mulHigh s n a b) x

/-- VMIN, VMAX (R239, R241). -/
def laneMin (x : LaneIn) : LaneOut :=
  if tyFloat x.ty then laneFpExact (fun fm c a b => fminmax fm false c.ftzi c.ftzo a b) x
  else laneInt (fun s n a b _ => minInt s n a b) x
def laneMax (x : LaneIn) : LaneOut :=
  if tyFloat x.ty then laneFpExact (fun fm c a b => fminmax fm true c.ftzi c.ftzo a b) x
  else laneInt (fun s n a b _ => maxInt s n a b) x

/-- VABS and VNEG (R239, R242). -/
def laneAbs (x : LaneIn) : LaneOut :=
  if tyFloat x.ty then x.out (x.b0 &&& (2 ^ 32 - 1 - (signBits x.ty).toNat))
  else laneInt (fun s n _ b _ => narrow s x.e.sat n (intVal s n b).natAbs) x
def laneNeg (x : LaneIn) : LaneOut :=
  if tyFloat x.ty then x.out (x.b0 ^^^ (signBits x.ty).toNat)
  else laneInt (fun s n _ b _ => narrow s x.e.sat n (-(intVal s n b))) x

/-- VSHL, VSHR, VSAR, VROT (R239). -/
def laneShl (x : LaneIn) : LaneOut := laneInt (fun _ n a b _ => shlN n a b) x
def laneShr (x : LaneIn) : LaneOut := laneInt (fun _ n a b _ => shrN n a b) x
def laneSar (x : LaneIn) : LaneOut := laneInt (fun _ n a b _ => sarN n a b) x
def laneRot (x : LaneIn) : LaneOut := laneInt (fun _ n a b _ => rotN n a b) x

/-- VBFE, VBFI (R216, R239). -/
def laneBfe (x : LaneIn) : LaneOut := x.out (bfExtract (tySigned x.ty) 32 x.a0 x.b0)
def laneBfi (x : LaneIn) : LaneOut := x.out (bfInsert 32 x.d.toNat x.a0 x.b0)

/-- VPOPC, VCLZ, VBREV (R239). -/
def lanePopc (x : LaneIn) : LaneOut := x.out (popc 32 x.b0)
def laneClz (x : LaneIn) : LaneOut := x.out (clzN 32 x.b0)
def laneBrev (x : LaneIn) : LaneOut := x.out (brevN 32 x.b0)

/-- VADD64, VSUB64, VMULW (R239). -/
def laneAdd64 (x : LaneIn) : LaneOut := x.out64 ((x.a64 + x.b.toNat) % 2 ^ 64)
def laneSub64 (x : LaneIn) : LaneOut := x.out64 ((x.a64 + 2 ^ 64 - x.b.toNat) % 2 ^ 64)
def laneMulw (x : LaneIn) : LaneOut :=
  let s := tySigned x.ty
  x.out64 (wrapTo 64 (intVal s 32 x.a0 * intVal s 32 x.b0))

/-- VCLASS (R245). -/
def laneClass (x : LaneIn) : LaneOut := x.out (2 ^ fclass x.b0)

/-- VSQRT, VDIV: correctly rounded (R246). -/
def laneSqrt (x : LaneIn) : LaneOut := laneFp (fun fm c _ b _ => fsqrt fm c b) x
def laneDiv (x : LaneIn) : LaneOut := laneFp (fun fm c a b _ => fdiv fm c a b) x

/-- The other transcendentals, by opcode (R246). DESIGN CHOICE (log 83): an opcode whose rnd must be zero takes no
rounding mode, so it advances no STO state even while MODE selects STO; so do UNPK8 and the exact operations. -/
def laneTrans (op : Nat) (x : LaneIn) : LaneOut :=
  let (r, fl) := transcendental op x.e.ftzi32 x.e.ftzo32 (loWord x.b)
  ⟨[BitVec.ofNat 32 r], fl, x.q⟩

/-- The comparison of VCMP on one lane (R219, R244). -/
def laneCmp (cc : Nat) (x : LaneIn) : Bool × BitVec 5 :=
  if x.ty = 2 then fcompare fmtF32 x.e.ftzi32 cc x.a0 x.b0
  else (compareInt (tySigned x.ty) 32 cc x.a0 x.b0, 0)

/-- The floating-point format of a code of R283; none for the integers and blocks. -/
def cvtFmt (code : Nat) : Option FFmt :=
  if code = 0 then some fmtF32 else if code = 1 then some fmtF16 else if code = 2 then some fmtBf16
  else if code = 3 then some fmtE4m3 else if code = 4 then some fmtE5m2 else none

/-- Signedness and bits of an integer code: i8, n8, and code 8 (R247). -/
def cvtInt (n32 : Bool) (code : Nat) : Bool × Nat :=
  if code = 6 then (true, 8) else if code = 7 then (false, 8) else (!n32, 32)

/-- FTZ-in and FTZ-out for a format code (R248, R299): f32 and bf16, f16; FP8 is never flushed. -/
def cvtFtz (code : Nat) (b32 b16 : Bool) : Bool :=
  if code = 0 ∨ code = 2 then b32 else if code = 1 then b16 else false

/-- The source of a conversion: its exact value. -/
def cvtSource (n32 : Bool) (ftzi : Bool) (code raw : Nat) : FVal :=
  match cvtFmt code with
  | some f => fread f ftzi (raw % 2 ^ (1 + f.eb + f.mb))
  | none => let (s, n) := cvtInt n32 code; FVal.ofInt false (intVal s n raw) 0

/-- Convert one element (R248): `n32` for code 8 as n32, `md` and `l` the rounding. -/
def convertElem (n32 : Bool) (src dst raw : Nat) (md : RMode) (l : Nat) (sat ftzi ftzo : Bool) : Nat × BitVec 5 :=
  let v := cvtSource n32 ftzi src raw
  match cvtFmt dst with
  | some f =>
    let (r, fl) := fencode f md ftzo sat l v
    (r, fl)
  | none =>
    let (s, n) := cvtInt n32 dst
    if (cvtFmt src).isNone then
      let (s', n') := cvtInt n32 src
      (narrow s true n (intVal s' n' raw), 0)
    else
      let (r, fl) := fToInt md l (intMin s n) (intMax s n) v
      (wrapTo n r, fl)

/-- A conversion by an instruction: FTZ from MODE, STO advanced once (R243, R248). -/
def convertLane (e : FpEnv) (q : Word) (n32 : Bool) (src dst raw : Nat) : Nat × BitVec 5 × Word :=
  let r := convertElem n32 src dst raw e.md (q.toNat % 65536) e.sat
    (cvtFtz src e.ftzi32 e.ftzi16) (cvtFtz dst e.ftzo32 e.ftzo16)
  (r.1, r.2, if e.md = .sto then lfsrNext q else q)

/-- CVT (R247): `ctl` is its va field. -/
def laneCvt (ctl : Nat) (x : LaneIn) : LaneOut :=
  let pos := ctl / 256
  let src := ctl / 16 % 16
  let dst := ctl % 16
  let raw :=
    if src = 3 ∨ src = 4 ∨ src = 6 ∨ src = 7 then x.b0 / 2 ^ (8 * pos) % 256
    else if src = 1 ∨ src = 2 then x.b0 / 2 ^ (16 * (pos % 2)) % 65536
    else x.b0
  let (r, fl, q) := convertLane x.e x.q (x.ty == 1) src dst raw
  ⟨[BitVec.ofNat 32 r], fl, q⟩

/-- Fold a conversion over a list of registers, the STO state threaded through (R249, R250). -/
def convertAll (f : Word → Nat → Nat × BitVec 5 × Word) : Word → List Nat → List Nat × BitVec 5 × Word
  | q, [] => ([], 0, q)
  | q, r :: rs =>
    let (v, fl, q1) := f q r
    let (vs, fl2, q2) := convertAll f q1 rs
    (v :: vs, fl ||| fl2, q2)

/-- PACK8 (R249): type i32 takes no rounding mode and advances no STO state. -/
def lanePack8 (code : Nat) (x : LaneIn) : LaneOut :=
  let src := if x.ty = 2 then 0 else 8
  let e := if x.ty = 2 then x.e else { x.e with md := .rne }
  let (vs, fl, q) := convertAll (fun q r => convertLane e q false src code r) x.q ((x.a.take 4).map BitVec.toNat)
  ⟨[BitVec.ofNat 32 (leNat (vs.map (BitVec.ofNat 8)))], fl, q⟩

/-- The packed word of UNPK8 or UNPK4. na flips the sign bit of every element (R187): that of the highest element,
bit 31, `laneArgs` has flipped as for every f32 operand, and `rest` holds the other bits to flip. -/
def LaneIn.packed (x : LaneIn) (rest : Nat) : Nat := if x.na then x.a0 ^^^ rest else x.a0

/-- UNPK8 (R249): exact, no flag. An n8 element has no sign bit, so na changes none (log 47). -/
def laneUnpk8 (code : Nat) (x : LaneIn) : LaneOut :=
  let dst := if x.ty = 2 then 0 else 8
  let w := x.packed (if code = 7 then 0x80000000 else 0x00808080)
  ⟨(List.range 4).map fun i =>
    BitVec.ofNat 32 (convertElem false code dst (w / 2 ^ (8 * i) % 256) .rne 0 false false false).1, 0, x.q⟩

/-- One element of PACK4 (R250). An infinity overflows, and an overflow is inexact (R300). DESIGN CHOICE (log 83): a
value counts as beyond ±6 by its rounded magnitude, as R293 counts an overflow, so a value above 6 that rounds to 6
(up to 6.5 under RNE) is inexact only. -/
def pack4Elem (e : FpEnv) (sc : Nat) (q : Word) (r : Nat) : Nat × BitVec 5 × Word :=
  let q' := if e.md = .sto then lfsrNext q else q
  match fread fmtF32 e.ftzi32 r with
  | .nan _ => (0, flagInvalid, q')
  | .inf n => if sc = 255 then (0, flagInvalid, q') else (fmax fmtE2m1 n, flagOverflow ||| flagInexact, q')
  | .fin n m x =>
    if sc = 255 then (0, flagInvalid, q')
    else
      let (v, fl) := fencode fmtE2m1 e.md false true (q.toNat % 65536) (.fin n m (x + 127 - (sc : Int)))
      (v, fl, q')

/-- PACK4 (R250). -/
def lanePack4 (x : LaneIn) : LaneOut :=
  let (vs, fl, q) := convertAll (pack4Elem x.e (x.b0 % 256)) x.q ((x.a.take 8).map BitVec.toNat)
  ⟨[BitVec.ofNat 32 (vs.foldr (fun v acc => v % 16 + 16 * acc) 0)], fl, q⟩

/-- One element of UNPK4 (R250). -/
def unpk4Elem (e : FpEnv) (sc : Nat) (q : Word) (nib : Nat) : Nat × BitVec 5 × Word :=
  let q' := if e.md = .sto then lfsrNext q else q
  if sc = 255 then (0x7FC00000, 0, q')
  else
    match fdecode fmtE2m1 nib with
    | .fin n m x =>
      let (v, fl) := fencode fmtF32 e.md e.ftzo32 e.sat (q.toNat % 65536) (.fin n m (x + (sc : Int) - 127))
      (v, fl, q')
    | _ => (0x7FC00000, 0, q')

/-- UNPK4 (R250). -/
def laneUnpk4 (x : LaneIn) : LaneOut :=
  let (vs, fl, q) := convertAll (unpk4Elem x.e (x.b0 % 256)) x.q
    ((List.range 8).map fun k => x.packed 0x08888888 / 16 ^ k % 16)
  ⟨vs.map (BitVec.ofNat 32), fl, q⟩

/-- VDOT4 (R251): the exact sum of four byte products and vd, wrapped or clamped. -/
def laneDot4 (x : LaneIn) : LaneOut :=
  let s := tySigned x.ty
  let p := (List.range 4).foldl (fun acc i =>
    acc + intVal s 8 (x.a0 / 256 ^ i % 256) * intVal s 8 (x.b0 / 256 ^ i % 256)) (intVal s 32 x.d.toNat)
  x.out (narrow s x.e.sat 32 p)

/-- VDOT2 (R251). -/
def laneDot2 (x : LaneIn) : LaneOut :=
  if tyFloat x.ty then
    let fm := tyFmt x.ty
    let fi := if x.ty = 3 then x.e.ftzi16 else x.e.ftzi32
    let p0 := fmulExact (fread fm fi (x.a0 % 65536)) (fread fm fi (x.b0 % 65536))
    let p1 := fmulExact (fread fm fi (x.a0 / 65536)) (fread fm fi (x.b0 / 65536))
    let vd := fread fmtF32 x.e.ftzi32 x.d.toNat
    let r := roundElem x.e false x.q fun c =>
      let (v, fl) := fsumExact c.md [vd, p0.1, p1.1]
      let (y, fl') := fencode fmtF32 c.md c.ftzo c.sat c.l v
      (y, fl ||| fl' ||| p0.2 ||| p1.2)
    ⟨[BitVec.ofNat 32 r.1], r.2.1, r.2.2⟩
  else
    let s := tySigned x.ty
    let p := intVal s 32 x.d.toNat +
      intVal s 16 (x.a0 % 65536) * intVal s 16 (x.b0 % 65536) +
      intVal s 16 (x.a0 / 65536) * intVal s 16 (x.b0 / 65536)
    x.out (narrow s x.e.sat 32 p)

end Sys2Proof.Machine
end

