-- ==== Sys2Proof/Machine/WarpState.lean ====
section
/-! DEFINITION. The state of warps and workgroups (spec 07, 16): registers, masks, path table, counters, trap
registers, and what a fragment wave keeps for its lanes (spec 15). -/

namespace Sys2Proof.Machine

/-- The four kinds of barrier (R171, R355). A NEXT entry keeps the register that receives its code. -/
inductive BarKind where
  | bar | barc | bard
  | next (sd : Nat)
  deriving DecidableEq, Repr

/-- The state of a parked path (R165). -/
inductive PathKind where
  | ready
  | join (r : LaneMask)
  | bar (k : BarKind)
  deriving DecidableEq, Repr

/-- The fault for which a requester is parked (R45 to R48): what its record says, for TYPE 6 the tick of its first
HomeOffline and the home, and the trap that it is to take when it was rejected or timed out (R52, R397). -/
structure Park where
  ctx : Nat
  asid : Nat
  seq : Nat
  va : Dword
  access : Nat
  ftype : Nat
  level : Nat
  tick : Nat
  home : Nat
  answer : Option Nat
  side : Nat
  deriving DecidableEq, Repr

/-- A path-table entry (R165): `wake` is the clock before which a napping path issues nothing (R282), `park`
the fault that blocks it (R45), `nap` whether its wait is that of the NAP just before `pc`, which a save repeats (R180). -/
structure Path where
  pc : Dword
  mask : LaneMask
  kind : PathKind
  wake : Nat
  park : Option Park
  nap : Bool
  deriving DecidableEq, Repr

/-- The eight in-flight counters (R75). -/
inductive Ctr where
  | lg | sg | lx | at | sl | gx | en | wq
  deriving DecidableEq, Repr

/-- A pending instruction of a warp, in issue order (R76): its counter, its number, whether it is complete. -/
structure Pend where
  ctr : Ctr
  uid : Nat
  done : Bool
  deriving DecidableEq, Repr

/-- A trap held for a boundary (R387). -/
structure HeldTrap where
  cause : Nat
  src : Dword
  addr : Dword
  imm : Word
  deriving DecidableEq, Repr

/-- A warp waiting in FUSE (R176). -/
structure FuseWait where
  sd : Nat
  target : Dword
  move : Bool
  deriving DecidableEq, Repr

/-- What a stalled instruction waits for (R274): the accesses and jobs that it found outstanding, how far it has
come, and the bytes that its own access returned. -/
structure Stall where
  pc : Dword
  waits : List Nat
  stage : Nat
  got : List Byte
  deriving DecidableEq, Repr

/-- An ACQ that found its condition false (R120): its warp and PC, the latch, the tick of its last read, and whether it
is to read again. -/
structure AcqWait where
  warp : Nat
  pc : Dword
  die : Nat
  pa : Nat
  tick : Nat
  wake : Bool
  deriving DecidableEq, Repr

/-- An issued access whose request received HomeOffline (R54, R397): its number, the lanes that issued it, the counter that it will
raise again, the tick of its first HomeOffline, and the fault that it is parked with, or none while it is replayed (R52). The paths
with one of these lanes are parked until its replay has translated what it has not performed. -/
structure OffAcc where
  uid : Nat
  mask : LaneMask
  ctr : Option Ctr
  since : Nat
  park : Option Park
  deriving DecidableEq, Repr

/-- A warp (R158 to R181, R384 to R387). -/
structure Warp where
  /-- The workgroup it belongs to. -/
  wg : Nat
  width : Nat
  famOff : Nat
  warpid : Nat
  splitIdx : Nat
  /-- The rectangle (R158): partition pair, first column, first row. -/
  pair : Nat
  col : Nat
  row0 : Nat
  /-- The warp slots held, partition × 16 + slot (R47, R158). -/
  slots : List Nat
  pc : Dword
  /-- Whether a path is running; `exec` is empty when none is. -/
  running : Bool
  exec : LaneMask
  live : LaneMask
  helper : LaneMask
  paths : List Path
  sregs : FMap Word
  mode : Word
  /-- The pending instructions, oldest first (R76). -/
  pend : List Pend
  handler : Bool
  trapExec : LaneMask
  /-- Whether the last trap was taken at a boundary (R233). -/
  boundary : Bool
  cause : Word
  trappc : Dword
  trapaddr : Dword
  trapimm : Word
  trapsrc : Dword
  held : List HeldTrap
  tickLatch : Option Word
  seq : Nat
  /-- The fault that blocks the running path when the path table could not take it, or that it has to answer for. -/
  block : Option Park
  /-- The accesses that wait for an offline home (R54, R397). -/
  offl : List OffAcc
  /-- The clock before which the running path issues nothing: a NAP that waits (R282, R385). -/
  wake : Nat
  /-- Whether that NAP stands just before `pc`. -/
  nap : Bool
  /-- The clock for the path that a trap has interrupted (R384). -/
  trapWake : Nat
  /-- The PC after the NAP at which the trap has interrupted it; with `trapWake` 0 a save has made it one that is not executed. -/
  trapNap : Option Dword
  /-- The clock before which the warp issues nothing: the copies of a SPLIT child (R174), a FUSE's move (R260). -/
  notBefore : Nat
  /-- The clock at which the running path began its 4 096 clocks (R168). -/
  slice : Nat
  /-- The warp's place in the oldest-first order (R179, R282). -/
  age : Nat
  fuse : Option FuseWait
  stall : Option Stall
  /-- The code that has been fetched and has not run (R33): numbers of 8-byte words of virtual memory with their bytes. -/
  fetched : FMap Nat
  deriving DecidableEq, Repr

/-- What a fragment wave keeps for a lane (R366, R367): the pixel, its sequence number, the quad's top-left lane
and the position in it, and whether the fragment was accepted or has retired. Lanes are numbered within the
workgroup's initial lanes. -/
structure Frag where
  px : Nat
  py : Nat
  smp : Nat
  quad : Option Nat
  pos : Nat
  seq : Nat
  /-- Whether the lane was created as a helper. -/
  help : Bool
  /-- The visibility entry that the wave was built from (R382). -/
  vis : Dword
  accepted : Bool
  retired : Bool
  deriving DecidableEq, Repr

/-- Where a workgroup stands: running, waiting for its core's carve-out to grow (R62), stopped and draining (R390), saved,
or ended. -/
inductive WgPhase where
  | placed | growing | draining | saved | ended
  deriving DecidableEq, Repr

/-- A save image in memory (R390, R391): the runs of its die's save area that it takes, address and length, and its bytes. -/
structure SaveImage where
  runs : List (Nat × Nat)
  bytes : List Byte
  deriving DecidableEq, Repr

/-- A workgroup (R151 to R160). -/
structure Workgroup where
  launch : Nat
  die : Nat
  core : Nat
  /-- `%dieidx` (R152).  -/
  rank : Nat
  /-- The D combination, the workgroup index and the T iteration (R151). -/
  d : Nat
  w : Nat
  t : Nat
  clmember : Nat
  /-- The launch width, warps per workgroup, K and S (R154). -/
  width0 : Nat
  nwarps : Nat
  k : Nat
  sr : Nat
  /-- The scratch allocation in bytes and its first granule (R60). -/
  alloc : Nat
  gran : Nat
  scratch : FMap Byte
  /-- Vector register cells, keyed family lane × 1 024 + register; unlisted cells are 0 (R160). -/
  vregs : FMap Word
  /-- The stochastic-rounding states that differ from their seed at creation, by family lane (R295). -/
  lfsr : FMap Word
  frags : FMap Frag
  /-- The tick of the last issue or counter fall (R389). -/
  active : Nat
  phase : WgPhase
  /-- The cause of a kill that is under way (R388). -/
  killed : Option Nat
  /-- The numbers free for new warps are those not in use; the order number of the placement (R336). -/
  order : Nat
  /-- Where the image of a saved workgroup lies (R390, R391). -/
  image : Option SaveImage
  deriving DecidableEq, Repr

end Sys2Proof.Machine
end

