-- ==== Sys2Proof/Machine/JobState.lean ====
section
/-! DEFINITION. The state of the engines (spec 13): the matrix array, job cards, nest tables, queued jobs,
collectives. -/

namespace Sys2Proof.Machine

/-- A plane of a matrix array (R301): its format, and the bytes of its 128 weight vectors with their scale bytes, which
decode exactly into its cells; no vectors is a plane of +0. -/
structure Plane where
  fmt : Option Nat
  vecs : List (List Byte × List Byte)
  deriving DecidableEq, Repr

/-- A core's matrix array (R301, R302): its owner, planes and accumulator words by row × 128 + column. -/
structure MatArray where
  owner : Option Nat
  active : Plane
  shadow : Plane
  acc : FMap Word
  deriving DecidableEq, Repr

/-- A range of a footprint (R142, R327): the bytes from `lo` below `hi`, in global memory or scratch. -/
structure Extent where
  glob : Bool
  lo : Nat
  hi : Nat
  deriving DecidableEq, Repr

/-- A job card (R323). -/
structure Card where
  type : Nat
  sfmt : Nat
  dfmt : Nat
  rnd : Nat
  sat : Bool
  fixed : Bool
  sglob : Bool
  dglob : Bool
  fexp : Nat
  seed : Nat
  kind : Nat
  src : Nat
  dst : Nat
  nx : Nat
  ny : Nat
  nz : Nat
  ssy : Int
  ssz : Int
  dsy : Int
  dsz : Int
  sscl : Int
  dscl : Int
  bar : Nat
  set : Nat
  deriving DecidableEq, Repr

/-- What an MDRAIN or a drain step converts and where it writes (R316). -/
structure Drain where
  glob : Bool
  dst : Nat
  stride : Nat
  rows : Nat
  acc0 : Nat
  soff : Int
  transposed : Bool
  toff : Int
  tstride : Nat
  fexp : Nat
  fixed : Bool
  sat : Bool
  rnd : Nat
  fmt : Nat
  int : Bool
  deriving DecidableEq, Repr

/-- A level of a nest table (R319). -/
structure NestLevel where
  count : Nat
  da : Int
  dw : Int
  dOut : Int
  dacc : Int
  events : Nat
  deriving DecidableEq, Repr

/-- A nest table (R319). -/
structure Nest where
  abase : Nat
  ascl : Int
  wbase : Nat
  wstr : Nat
  wscl : Int
  obase : Nat
  ostr : Nat
  oscl : Int
  astr : Nat
  accb : Nat
  rows : Nat
  drows : Nat
  oglob : Bool
  sat : Bool
  fixed : Bool
  ofmt : Nat
  fexp : Nat
  seed : Nat
  levels : List NestLevel
  deriving DecidableEq, Repr

/-- What a job does. Formats are those of the format word (R304). -/
inductive JobKind where
  | loadw (fmt base stride sbase : Nat)
  | flip
  | stream (afmt wfmt base stride sbase rows acc0 : Nat)
  | zero (n acc0 : Nat)
  | drain (d : Drain)
  | nest (n : Nest) (afmt wfmt rnd : Nat) (int : Bool)
  | copy (c : Card)
  /-- A collective with its place among the collectives of its member, context and GROUP (R326). -/
  | coll (c : Card) (k : Nat)
  deriving DecidableEq, Repr

/-- A latch operation (R310): the latch's address, the value, set or add. -/
structure LatchOp where
  va : Dword
  value : Nat
  set : Bool
  deriving DecidableEq, Repr

/-- A job in a core's engine queue (R309, R311). -/
structure Job where
  /-- The warp that issued it, its workgroup, core, context, and PC; its queue entry and the address of its card. -/
  warp : Nat
  wg : Nat
  core : Nat
  ctx : Nat
  asid : Nat
  pc : Dword
  entry : Nat
  card : Dword
  kind : JobKind
  reads : List Extent
  writes : List Extent
  /-- The earlier accesses of the warp that come before it (R144). -/
  after : List Nat
  started : Bool
  /-- A COLL's or GATH's source data or indices, read when it starts. -/
  data : List Byte
  /-- Destination bytes still to be written, for drains, in step order (R321). -/
  imgs : List (FMap Byte)
  /-- The destination address from which chunks are still to be performed (R141); none when all are. -/
  pos : Option Nat
  /-- A nest's indices and the number of its next step (R322); none when all have begun. -/
  idx : Option (List Nat)
  phase : Nat
  /-- The stochastic-rounding state (R316). -/
  sto : Word
  latch : Option LatchOp
  bar : Option Nat
  seq : Nat
  park : Option Park
  /-- Whether it is part of a saved workgroup (R328). -/
  saved : Bool
  deriving DecidableEq, Repr

/-- A member's part in a match of collectives (R326): its rank, job, and source. -/
structure CollMember where
  die : Nat
  rank : Nat
  job : Nat
  data : List Byte
  deriving DecidableEq, Repr

/-- A match of collectives (R326): the k-th of a context and GROUP, what its first member asked, the dies that its members' cards
name, and the members whose jobs have started; whether it has failed, and with which cause: a member that starts later ends too. -/
structure Coll where
  ctx : Nat
  group : Nat
  k : Nat
  card : Card
  set : List Nat
  members : List CollMember
  failed : Option Nat
  deriving DecidableEq, Repr

end Sys2Proof.Machine
end

