-- ==== Sys2Proof/Machine/WorkState.lean ====
section
/-! DEFINITION. The state of launches and of the die front ends (spec 07, 14). -/

namespace Sys2Proof.Machine

/-- A context descriptor as the part has read it (R36). -/
structure Ctx where
  slot : Nat
  /-- Sv57 when true, Sv48 otherwise. -/
  sv57 : Bool
  asid : Nat
  root : Nat
  fqvec : Nat
  fqsize : Nat
  fqbase : Nat
  regtab : Dword
  nofq : Bool
  deriving DecidableEq, Repr

/-- What a launch takes from its kernel image's header (R207). -/
structure Image where
  base : Dword
  entry : Dword
  trapvec : Dword
  scratch : Nat
  cluster : Nat
  sregs : Nat
  vregs : Nat
  nwarps : Nat
  width : Nat
  maxdepth : Nat
  prio : Nat
  coopdie : Bool
  codesize : Dword
  kinds : List Nat
  deriving DecidableEq, Repr

/-- Workgroups that a die-span is to run: those of D combination `d` with `w` from `lo` below `hi`, and after them those
of `more` further combinations, `stride` apart, each whole (R152). The rank is what `%dieidx` reads; a combination re-run
for a lost die keeps the lost rank (R334). -/
structure Range where
  rank : Nat
  d : Nat
  lo : Nat
  hi : Nat
  more : Nat
  stride : Nat
  deriving DecidableEq, Repr

/-- The part of a launch on one die (R152, R334). -/
structure Span where
  die : Nat
  rank : Nat
  /-- What has been granted and not yet placed, in order. -/
  todo : List Range
  /-- Whether a BatchReq is on its way. -/
  asked : Bool
  /-- Whether the leader has said that no further batch exists. -/
  dry : Bool
  /-- Since when the next workgroup waits for room (R335). -/
  since : Option Nat
  /-- Whether it has waited 100 µs and holds back younger launches (R335). -/
  blocking : Bool
  deriving DecidableEq, Repr

/-- A granted batch that has not ended (R334): how many of its workgroups are still to end, and whether the
mirror has acknowledged it. -/
structure Batch where
  die : Nat
  lo : Nat
  hi : Nat
  left : Nat
  acked : Bool
  deriving DecidableEq, Repr

/-- What else follows the end of a launch: a Pantry slot to free (R344), a graph node to complete (R348), a frame
job (R366). -/
inductive LaunchFor where
  | plain
  | slot (die cls slot : Nat)
  | node (run node gen : Nat)
  | frame (die : Nat)
  deriving DecidableEq, Repr

/-- A launch (R149 to R157, R329 to R334). -/
structure Launch where
  ctx : Ctx
  image : Image
  param : Dword
  latch : Dword
  /-- Kind and extent of each used level (R149). -/
  levels : List (Nat × Nat)
  prio : Nat
  coop : Bool
  reissue : Bool
  depth : Nat
  recv : Nat
  /-- Its place in the order of acceptance (R335). -/
  order : Nat
  spans : List Span
  /-- The number of die-spans at the check; what a lost die's batches are to run again (R334). -/
  nspans : Nat
  nextIdx : Nat
  again : List (Nat × Nat)
  batches : List Batch
  leader : Nat
  mirror : Option Nat
  /-- Die and cause of the first kill (R388). -/
  kill : Option (Nat × Nat)
  lost : Bool
  suspended : Bool
  purpose : LaunchFor
  deriving DecidableEq, Repr

/-- A control-class message (R17, R120, R333): what it carries. -/
inductive CtlBody where
  | launchFwd (launch : Nat)
  | batchReq (launch : Nat)
  | batchGrant (launch lo hi : Nat)
  | batchMirror (launch lo hi die : Nat)
  | batchDone (launch lo hi die : Nat)
  | latchWake (pa : Nat)
  /-- Groups of an enqueue for one home (R342). -/
  | pantryEnq (enq : Nat)
  | pantryCode (enq : Nat)
  | graphDone (graph node gen : Nat)
  /-- A change of a head's urgency (R115). -/
  | urgency (head : Nat) (raised : Bool)
  | errorNote (entry : List Byte)
  /-- A step of the clock for the next frame-lock edge (R413). -/
  | powerStep (mhz : Nat)
  deriving DecidableEq, Repr

/-- A control-class message in flight. -/
structure CtlMsg where
  src : Nat
  dst : Nat
  body : CtlBody
  deriving DecidableEq, Repr

end Sys2Proof.Machine
end

