-- ==== Sys2Proof/Machine/MemState.lean ====
section
/-! DEFINITION. The state of the memory system (spec 01 to 06): caches, coherence transactions and messages,
translation hardware, accesses in flight, store-buffer entries. -/

namespace Sys2Proof.Machine

/-- MOESI (R68, R80). -/
inductive Moesi where
  | i | s | e | o | m
  deriving DecidableEq, Repr

/-- A line of an L1 (R57, R69): `line` is PA[47:7]. -/
structure L1Line where
  line : Nat
  st : Moesi
  valid : Byte
  dirty : Byte
  mask : NibMask
  data : Line
  /-- The streaming access that brought it in, while no other one has used it (R263). -/
  cold : Option Nat
  deriving DecidableEq, Repr

/-- A line of an L2 (R71, R79 to R81, R263): the hardware clusters that may hold copies, the host cores of the die that may
(R96), the core or host core that holds it M, O or E. -/
structure L2Line where
  line : Nat
  st : Moesi
  dirty : Byte
  data : Line
  sharers : BitVec 12
  hosts : BitVec 8
  owner : Option Nat
  noAttic : Bool
  keep : Bool
  /-- The streaming access that brought it in, while no other one has used it (R263). -/
  cold : Option Nat
  cls : Nat
  deriving DecidableEq, Repr

/-- A line of a Cellar slice (R82, R110): the value is memory's. -/
structure CellarLine where
  line : Nat
  cls : Nat
  dirty : Bool
  /-- When it was last used, for the least recently used order. -/
  used : Nat
  deriving DecidableEq, Repr

/-- The coherence messages (R88). -/
inductive CohCode where
  | readShared | readOwn | upgrade | writeBack | atomic | readNC | writeNC
  | snpShared | snpInv | backInv | data | dataFwd | ack | homeOffline
  deriving DecidableEq, Repr

/-- A coherence message with its line (R88). `mask` is the byte mask of a WriteNC, as nibbles. -/
structure CohMsg where
  code : CohCode
  src : Nat
  dst : Nat
  req : Nat
  cd : Nat
  cls : Nat
  smask : Byte
  txn : Nat
  line : Nat
  data : Line
  mask : NibMask
  deriving DecidableEq, Repr

/-- A request that a die has open (R91): what it asked, the data with its dirty sectors and the grant that it holds,
whether the line is installed, whether the home's final message has come and was a GRANT, and the hints of the access that
caused it. `drop` marks the ReadOwn of a DROP (R270). -/
structure OpenReq where
  txn : Nat
  line : Nat
  code : CohCode
  drop : Bool
  got : Option (Line × Byte)
  inst : Bool
  final : Bool
  grant : Moesi
  granted : Bool
  noAttic : Bool
  keep : Bool
  stream : Option Nat
  cls : Nat
  deriving DecidableEq, Repr

/-- What a home transaction is waiting for (R87, R90, R92). -/
inductive TxnPhase where
  /-- The end of the transaction on the line that it has to evict. -/
  | room
  /-- The replies to a BackInv of another line, to free a directory entry. -/
  | evict (line : Nat)
  /-- The replies to a BackInv of its own line: the home recalls it (R98, R394 step 2). -/
  | recall
  /-- The replies to its snoops. -/
  | snoops
  /-- The requester's closing Ack DONE. -/
  | done
  deriving DecidableEq, Repr

/-- A transaction at a home (R90 to R94, R97): the request and the tick of its arrival (R116), who has still to reply, whether
the replies to its snoops are all in, the data that came back, whether the owner has forwarded its copy and whether that was
clean, the lines that it holds of which a WriteBack has arrived meanwhile, and whether one is waited for. -/
structure HomeTxn where
  msg : CohMsg
  since : Nat
  phase : TxnPhase
  waits : List Nat
  snooped : Bool
  data : Option (Line × Byte)
  forwarded : Bool
  fwdClean : Bool
  wbSeen : List Nat
  wbWait : Bool
  deriving DecidableEq, Repr

/-- A valid leaf in a TLB (R38, R43): `vpn` the virtual page number at 4 KiB, `span` the pages it covers as a
power of two. -/
structure TlbEntry where
  asid : Nat
  vpn : Nat
  span : Nat
  ppn : Nat
  level : Nat
  r : Bool
  w : Bool
  x : Bool
  glob : Bool
  d : Bool
  nc : Bool
  io : Bool
  deriving DecidableEq, Repr

/-- A non-leaf PTE in a walk cache (R43): the table that covers `pre` (the virtual page number shifted right by
9 × level bits). -/
structure WalkEntry where
  asid : Nat
  level : Nat
  pre : Nat
  ppn : Nat
  deriving DecidableEq, Repr

/-- How a walk failed (R38, R42): TYPE and LEVEL of the record, and for TYPE 6 the home that is offline (R99). -/
structure WalkFault where
  ftype : Nat
  level : Nat
  home : Nat
  deriving DecidableEq, Repr

/-- A requester that waits for a page: its number, its PC (0 for a job), the access kind of R39. -/
structure Waiter where
  who : Nat
  pc : Dword
  access : Nat
  deriving DecidableEq, Repr

/-- A miss-table entry (R43, R44): the context as the requester knows it, the page, and those who wait for it. Once a walk has
ended in a fault the entry is none of the table any more: it keeps the fault until its requester takes it. -/
structure Miss where
  ctx : Ctx
  vpn : Nat
  waits : List Waiter
  res : Option WalkFault
  deriving DecidableEq, Repr

/-- A fault record (R47). -/
structure FaultRec where
  slot : Nat
  tick : Nat
  asid : Nat
  core : Nat
  unit : Nat
  seq : Nat
  side : Nat
  access : Nat
  ftype : Nat
  level : Nat
  place : Dword
  va : Dword
  deriving DecidableEq, Repr

/-- A context's fault queue on a die (R48, R49). -/
structure FaultQueue where
  head : Nat
  tail : Nat
  phase : Bool
  lastMsi : Option Nat
  deriving DecidableEq, Repr

/-- A pending shootdown command (R55). -/
structure InvCmd where
  kind : Nat
  asid : Nat
  va : Dword
  seq : Nat
  deriving DecidableEq, Repr

/-- A region-table entry (R122). -/
structure Region where
  idx : Nat
  base : Nat
  len : Nat
  latch : Nat
  scope : Nat
  deriving DecidableEq, Repr

/-- What a core knows of a context's region table (R124, R125): the cached entries, whether some valid entry is
not cached, whether the bindings are unknown. -/
structure RegionUnit where
  ctx : Nat
  slots : List Region
  more : Bool
  unknown : Bool
  deriving DecidableEq, Repr

/-- Where an access goes: a physical address, or an offset in a workgroup's scratch. -/
inductive Place where
  | pa (a : Nat)
  | scratch (wg off : Nat)
  deriving DecidableEq, Repr

/-- What an access does. Atomics carry the operation of R268 less 0x10. -/
inductive AccKind where
  | load | store | nibble
  | atomic (op : Nat)
  | clean | drop | pref
  /-- Results that are known as it issues (R377): their data are written when it completes. -/
  | given
  deriving DecidableEq, Repr

/-- One part of an access, single-copy atomic (R140, R141): its lane (a family lane, or 0 for a scalar access), the
byte offset of the part in the lane's extent, its virtual address, its place with its page's PBMT NC (R40), its bytes (store
data, or operand then compare value), the upper nibble for STN4, and how far it has come: performed, or waiting for the home with a
transaction number. -/
structure LaneAcc where
  lane : Nat
  off : Nat
  va : Dword
  at_ : Place
  nc : Bool
  data : List Byte
  high : Bool
  done : Bool
  txn : Option Nat
  deriving DecidableEq, Repr

/-- Where an access's result goes. -/
inductive AccDest where
  | none
  /-- Vector registers from `reg` up, `n` of them, of each lane. -/
  | vec (reg n : Nat)
  /-- Scalar registers from `reg` up, `n` of them, of the warps that count as its issuer. -/
  | scal (reg n : Nat)
  /-- The instruction that its issuer is stalled at. -/
  | stall
  deriving DecidableEq, Repr

/-- An access in flight (R75 to R78, R125, R128): the warps that count as its issuer, the family lanes that issued it, its
workgroup and core, the bytes of each part, scope and hint, whether its chunks are performed in ascending address (STW, R267),
requester class, where its result goes, the region latches that its store-buffer entries may belong to with their
scopes, WILD, its parts, and the PC. -/
structure Access where
  owners : List Nat
  lanes : LaneMask
  wg : Nat
  core : Nat
  ctx : Nat
  asid : Nat
  kind : AccKind
  size : Nat
  scope : Nat
  hint : Nat
  block : Bool
  cls : Nat
  dest : AccDest
  tags : List (Nat × Nat)
  wild : Bool
  parts : List LaneAcc
  pc : Dword
  /-- ACCESS and SIDE of a fault record that it may write (R47). -/
  code : Nat
  side : Nat
  deriving DecidableEq, Repr

/-- Where a sector with an error lies (R100, R414). -/
inductive BadAt where
  | l1 (core : Nat)
  | l2 (die : Nat)
  | cellar (die : Nat)
  /-- The data of an Attic line. -/
  | attic (die : Nat)
  /-- A line of a die's tag area: Attic tags or home directory. -/
  | tag (die : Nat)
  /-- A workgroup's vector registers: `line` is 1 024 × (family lane div 32) + register, `sector` is (family lane mod 32)
  div 4. -/
  | vreg (wg : Nat)
  /-- A warp's scalar registers: `line` is the register div 32, `sector` is (register mod 32) div 4. -/
  | sreg (warp : Nat)
  /-- A core's scratch ways: `line` is 512 × way + set (R59). -/
  | scratch (core : Nat)
  /-- A core's matrix array: `line` is its column. -/
  | array (core : Nat)
  /-- A die's L2 TLB: `line` is the set, `sector` the entry in it, the newest first. -/
  | tlb (die : Nat)
  /-- The records of a die's Pantry: `line` is the record's place, `sector` one of its payload of 128 bytes. -/
  | pantry (die : Nat)
  /-- A core's deque: `line` is the item's place, the oldest first. -/
  | deque (core : Nat)
  /-- Data of memory on its way to a die: what it holds goes with the line into the die's L2. -/
  | fill (die : Nat)
  | dram
  deriving DecidableEq, Repr

/-- A sector of 16 bytes with an error (R100): one bit, which is corrected when it is read, or more. -/
structure BadSector where
  at_ : BadAt
  line : Nat
  sector : Nat
  corr : Bool
  deriving DecidableEq, Repr

/-- A growth of a carve-out in progress (R63 to R65): the target. -/
structure Resize where
  target : Nat
  deriving DecidableEq, Repr

end Sys2Proof.Machine
end

