-- ==== Sys2Proof/Machine/UnitState.lean ====
section
/-! DEFINITION. The state of the units beside the cores: Cellar schedulers (spec 05), the Pantry, deques and graph
engines (spec 14), frame jobs, blend queues and display heads (spec 15, 17), frame lock, power, resets and life cycle
(spec 16, 17). -/

namespace Sys2Proof.Machine

/-- A Cellar miss that waits for its channel group (R112, R113): its class, line, whether it writes, whether the line that it takes
the place of is dirty and must be written first, the tick of its arrival, and whether that write has been done. -/
structure CellarMiss where
  cls : Nat
  line : Nat
  write : Bool
  victim : Bool
  tick : Nat
  paid : Bool
  deriving DecidableEq, Repr

/-- A channel group's scheduler (R112, R113): waiting misses in arrival order, the tokens of each class's rate and floor
bucket in sixteenths of a byte with the tick of that count, and the class served last in each latency class. -/
structure ChanGroup where
  misses : List CellarMiss
  rate : FMap (Nat × Nat)
  floor : FMap (Nat × Nat)
  last : FMap Nat
  deriving DecidableEq, Repr

/-- A Pantry record (R339): for class 0 the launch record in `fields`, with its context, submitter's priority limit and
whether the host submitted it. `sealNo` is the order of its seal, none while it is open. -/
structure PantryRec where
  cls : Nat
  key : Nat
  fields : List Word
  folds : Nat
  nfield : Nat
  opentick : Nat
  stamp : Nat
  sealNo : Option Nat
  ctx : Nat
  prio : Nat
  host : Bool
  purpose : LaunchFor
  /-- Whether it has been counted as held for another context's deque (R415). -/
  counted : Bool
  deriving DecidableEq, Repr

/-- A slot ring (R345): where the next lift begins its search, and the slots in use. -/
structure SlotRing where
  next : Nat
  used : List Nat
  deriving DecidableEq, Repr

/-- A die's Pantry (R339 to R345): records in arrival order, the arbiter's stamp, the slot rings by class, class
descriptors as written (8 words each). -/
structure Pantry where
  recs : List PantryRec
  stamp : Nat
  rings : FMap SlotRing
  desc : FMap Dword
  deriving DecidableEq, Repr

/-- What an enqueue ends with: codes in a vector register of its lanes or in a scalar register of its warp, or the
completion of a graph node. -/
inductive EnqDest where
  | lanes (reg : Nat)
  | scal (reg : Nat)
  | node (graph node gen : Nat)
  deriving DecidableEq, Repr

/-- The lanes of one key of an enqueue (R342): family lanes with their values, their codes so far, and the home die;
`arrived` tells whether its message has reached the home. -/
structure EnqGroup where
  home : Nat
  key : Nat
  lanes : List (Nat × List Word)
  codes : List (Nat × Nat)
  arrived : Bool
  deriving DecidableEq, Repr

/-- An enqueue under way (R342, R352). -/
structure Enq where
  warp : Nat
  wg : Nat
  die : Nat
  cls : Nat
  field : Nat
  wide : Bool
  nb : Bool
  groups : List EnqGroup
  dest : EnqDest
  /-- PantryCode messages still to arrive. -/
  waits : List Nat
  deriving DecidableEq, Repr

/-- A core's deque (R337): the context of its items, oldest first. -/
structure Deque where
  ctx : Nat
  items : List (List Word)
  deriving DecidableEq, Repr

/-- A record that a PLIFT has lifted into a slot and not read yet (R353): the warp, its PC, the class and the slot. -/
structure Lift where
  warp : Nat
  pc : Dword
  cls : Nat
  slot : Nat
  deriving DecidableEq, Repr

/-- A run of a graph (R348): generation, start, the frame that it is for, the nodes that are ready, issued, complete and
late, whether its roots have been found, and the notify nodes that have been issued. -/
structure Run where
  gen : Nat
  start : Nat
  frame : Nat
  ready : List Nat
  issued : List Nat
  finished : List Nat
  late : List Nat
  rooted : Bool
  notify : List Nat
  deriving DecidableEq, Repr

/-- A replay that is held (R348): the tick at which it arrived, and for a FRAMED graph the tick and the frame of the edge that it
names once that has fired; whether it has had to wait for one of its engine's entries (R350). -/
structure Replay where
  arrived : Nat
  framed : Bool
  edge : Option (Nat × Nat)
  waited : Bool
  deriving DecidableEq, Repr

/-- A graph that its home die's engine tracks (R347 to R350). -/
structure Graph where
  home : Nat
  ctx : Ctx
  table : Dword
  run : Option Run
  held : Option Replay
  /-- The fault for which the engine waits, the sequence number of its last one, and the node at which it stands (R347). -/
  park : Option Park
  seq : Nat
  at_ : Nat
  /-- A run that ends early, and whose slip entry has still to be written: node and frame. -/
  ending : Option (Nat × Nat)
  deriving DecidableEq, Repr

/-- A completion latch that the part updates with no issuing warp (R332): which counter counts it when it is skipped. -/
inductive LatchOf where
  | launch | graph | frame
  deriving DecidableEq, Repr
structure LatchUpd where
  die : Nat
  ctx : Ctx
  va : Dword
  value : Nat
  of_ : LatchOf
  park : Option Park
  seq : Nat
  deriving DecidableEq, Repr

/-- How far a frame job has come (R359): waiting to start, rasterising records, its launch running, ended with a status
word. -/
inductive FrameStage where
  | fresh
  | raster (next : Nat)
  | launched (launch : Nat)
  | ended (status : Nat)
  deriving DecidableEq, Repr

/-- The running frame job of a die (R359 to R368). -/
structure FrameJob where
  desc : List Byte
  ctx : Ctx
  stage : FrameStage
  /-- Type 2: the open pixels (R364). -/
  open_ : List Nat
  /-- The fragments in packing order, one entry for each lane (R366); none for a lane past the last. -/
  lanes : List (Option Frag)
  park : Option Park
  seq : Nat
  deriving DecidableEq, Repr

/-- A fragment in a blend queue (R368, R369). -/
structure BlendFrag where
  launch : Nat
  px : Nat
  py : Nat
  pa : Nat
  fmt : Nat
  mode : Nat
  colour : List Word
  deriving DecidableEq, Repr

/-- A display head (R376, R408, R409): whether it runs, the tick at which it was enabled, the frame that its last check was
for with the outcome, the frame presented last, whether it shows black or a substitute, the lines in its FIFO, the pixel
lines scanned out since the vblank, the tick of the last vblank, whether it has raised urgency, TIMING in effect; the period that its
pixel clock follows, and the pixel times from the vblank to a tick from which that clock has run; and the picture of the substitute, for each pixel the pixel of the last presented image whose colour it has (R376). -/
structure Head where
  on : Bool
  since : Nat
  check : Option (Nat × Option Nat)
  shown : Option Nat
  black : Bool
  subst : Bool
  fill : Nat
  line : Nat
  vblank : Option Nat
  urgent : Bool
  timing : Nat
  span : Nat
  base : Nat
  pixels : Nat
  picture : List Nat
  deriving DecidableEq, Repr

/-- What a die holds beside cores, caches and translation. -/
structure DieUnit where
  groups : FMap ChanGroup
  /-- The heads whose urgency this die knows to be raised, and the raises counted (R115). -/
  urgency : BitVec 9
  raises : Nat
  pantry : Pantry
  /-- Frame jobs that wait, and the one that runs. -/
  waiting : List (List Byte)
  frame : Option FrameJob
  blend0 : List BlendFrag
  blend1 : List BlendFrag
  head : Head
  /-- `%frame`'s misses and lock as this die's FLSTAT shows them (R406). -/
  missed : Nat
  locked : Bool
  lastEdge : Option Nat
  /-- The error log ring by index, and how many of its entries the host has not taken yet (R414). -/
  errlog : FMap (List Byte)
  errHeld : Nat
  /-- The measurement log M and its number of entries (R412). -/
  measure : List Byte
  measured : Nat
  /-- Whether the die waits in recovery (R411). -/
  recovery : Bool
  /-- The last interval of 64 ticks whose fills have been sampled (R116). -/
  sampled : Nat
  /-- The step of the clock that the die has been told of, in MHz (R413). -/
  step : Option Nat
  /-- The pose motion of the newest Skim job: context slot and address (R376). -/
  motion : Option (Nat × Dword)
  /-- The line that a job of the engines has requested last, by 2 × job, and 1 more for writes (R116, R432). -/
  lines : FMap Nat
  deriving DecidableEq, Repr

def Pantry.reset : Pantry := ⟨[], 0, [], []⟩
def Head.reset : Head := ⟨false, 0, none, none, true, false, 0, 0, none, false, 0, 0, 0, 0, []⟩
def DieUnit.reset : DieUnit where
  groups := []
  urgency := 0
  raises := 0
  pantry := Pantry.reset
  waiting := []
  frame := none
  blend0 := []
  blend1 := []
  head := Head.reset
  missed := 0
  locked := false
  lastEdge := none
  errlog := []
  errHeld := 0
  measure := List.replicate 48 0
  measured := 0
  recovery := false
  sampled := 0
  step := none
  motion := none
  lines := []

/-- A frame-lock edge under way to a die (R405): its frame number, the tick at which it fires, and whether its message has
reached the die. -/
structure EdgeFire where
  die : Nat
  frame : Nat
  tick : Nat
  here : Bool
  deriving DecidableEq, Repr

/-- A message of an edge on an external port (R405): the port, the frame number, the lead that it carries, and the tick at which it
went out. -/
structure EdgeOut where
  port : Nat
  frame : Nat
  lead : Nat
  tick : Nat
  deriving DecidableEq, Repr

/-- The module's frame lock (R405, R406): the tick of the next edge that it generates with its period, the follower's
timer, and how many edges it has received in a row. -/
structure FrameLock where
  /-- The period in force and the tick of the next generated edge. -/
  period : Option Nat
  nextEdge : Option Nat
  /-- The tick of the last edge, the number of edges received, the period measured from the last two. -/
  lastEdge : Option Nat
  received : Nat
  measured : Option Nat
  /-- Whether the last edge was fired from the timer, whether its miss is already counted. -/
  timed : Bool
  counted : Bool
  row : Nat
  /-- Edges that are to fire on the dies. -/
  fires : List EdgeFire
  /-- The frame at which an admitted module begins to present; none when it is not waiting (R410). -/
  admission : Option Nat
  /-- The messages that have gone out on the ports of OUTMASK. -/
  sent : List EdgeOut
  deriving DecidableEq, Repr

def FrameLock.reset : FrameLock := ⟨none, none, none, 0, none, false, false, 0, [], none, []⟩

/-- The module's clock (R413): MHz, the step that waits for an edge, the number of steps, the dies that have not been told of it yet,
and the tick at which the last one was. -/
structure Power where
  mhz : Nat
  pending : Option Nat
  steps : Nat
  waits : List Nat
  armed : Option Nat
  deriving DecidableEq, Repr

/-- A warm reset under way (R393, R394): the command and the next step, 1 to 10. -/
structure WarmReset where
  cmd : Dword
  die : Nat
  kill : Bool
  wipe : Bool
  step : Nat
  deriving DecidableEq, Repr

/-- The life-cycle states (R411). -/
inductive LifeState where
  | manufacture | secured | returned
  deriving DecidableEq, Repr

/-- Where an interrupt comes from (R401): a fault queue by its context slot, a notify node of a graph (R358), the error interrupt,
the machine check, frame lock, power steps. -/
inductive MsiSource where
  | faultQueue (slot : Nat)
  | graph
  | error | machineCheck | frameLock | power
  deriving DecidableEq, Repr

/-- The number of a source of interrupts in what the driver sets. -/
def MsiSource.code : MsiSource → Nat
  | .faultQueue _ => 0
  | .graph => 1
  | .error => 2
  | .machineCheck => 3
  | .frameLock => 4
  | .power => 5

/-- An interrupt raised toward the host (R48, R401): its source, vector and tick, whether it went out as MSI-X to a PCIe
host, and else the hart whose IMSIC took it. -/
structure Msi where
  source : MsiSource
  vector : Nat
  tick : Nat
  msix : Bool
  hart : Nat
  deriving DecidableEq, Repr

/-- The vectors that the driver sets and no register of the map holds (R401; log 9), and the harts that take the interrupts, by source;
hart 0 where none is set. -/
structure Vectors where
  error : Nat
  machineCheck : Nat
  frameLock : Nat
  power : Nat
  harts : FMap Nat
  deriving DecidableEq, Repr

/-- The next hops with all links up: a row for each die, the entries by destination (R19). -/
def fullRoutes : List (List Nat) :=
  [[0, 1, 1, 1, 1, 5, 1, 1, 1], [0, 1, 2, 2, 2, 5, 6, 2, 2], [1, 1, 2, 3, 3, 1, 6, 7, 3],
   [2, 2, 2, 3, 4, 2, 2, 7, 8], [3, 3, 3, 3, 4, 3, 3, 3, 8], [0, 1, 1, 1, 1, 5, 6, 6, 6],
   [1, 1, 2, 2, 2, 5, 6, 7, 7], [2, 2, 2, 3, 3, 6, 6, 7, 8], [3, 3, 3, 3, 4, 7, 7, 7, 8]]

/-- What the whole module holds. -/
structure Module where
  /-- The die with the management role (R399). -/
  mgmt : Nat
  /-- Whether die 4's port works as root (R402, PORTMODE). -/
  root : Bool
  vectors : Vectors
  /-- The dies' route tables: a row for each die, the next hop by destination (R19). -/
  routes : List (List Nat)
  /-- Links lost (R20), lower die first; links that a warm reset has taken down (R394 step 5); dies that have fenced
  themselves (R398). -/
  lost : List (Nat × Nat)
  down : List (Nat × Nat)
  fenced : List Nat
  /-- Pending shootdown commands (R55). -/
  inv : List InvCmd
  fl : FrameLock
  power : Power
  warm : Option WarmReset
  life : LifeState
  /-- A machine check has stopped the dies (R104). -/
  stopped : Bool
  /-- Whether firmware has finished the boot, so that launches are accepted (R411). -/
  booted : Bool
  /-- STEER entries that a die's absence has rewritten, with their value before (R341, R394). -/
  steered : FMap (List Nat)
  /-- The firmware image (R411). -/
  image : List Byte
  deriving DecidableEq, Repr

def Module.reset : Module where
  mgmt := 4
  root := Config.portRoot
  vectors := ⟨0, 0, 0, 0, []⟩
  routes := fullRoutes
  lost := []
  down := []
  fenced := []
  inv := []
  fl := FrameLock.reset
  power := ⟨1800, none, 0, [], none⟩
  warm := none
  life := .manufacture
  stopped := false
  booted := true
  steered := []
  image := []

end Sys2Proof.Machine
end

