-- ==== Sys2Proof/Machine/State.lean ====
section
/-! DEFINITION. The state of the machine, why a step can stop, and the state after reset. -/

namespace Sys2Proof.Machine

/-- Why the machine stops with a fault. Each is the model's own, and safe: it ends a run that the hardware would
not be in. -/
inductive Fault where
  /-- `exec` of an instruction that has a word, with no warp chosen that has a running path: raised by every
  such instruction; `step` never does this. Safe. -/
  | noRunningWarp
  deriving DecidableEq, Repr

/-- Why an instruction has no meaning. -/
inductive Refusal where
  /-- An instruction that the model does not give a meaning yet. Safe. -/
  | notModelled (mnemonic : String)
  deriving DecidableEq, Repr

/-- A core (R57, R58, R125): its L1 lines by set × 16 + way with the replacement trees by set, its carve-out, its
micro-TLB (most recent first), its region-match unit. -/
structure Core where
  l1 : FMap L1Line
  tree : FMap Nat
  carve : Nat
  resize : Option Resize
  utlb : List TlbEntry
  rmu : List RegionUnit
  /-- The lines that the instruction cache holds (R33, R71); their value is that of the L2's line. -/
  icache : List Nat
  deriving DecidableEq, Repr

/-- A core after reset: every structure empty (R411: every reset zeroes all SRAM). -/
def Core.reset : Core where
  l1 := []
  tree := []
  carve := 0
  resize := none
  utlb := []
  rmu := []
  icache := []

/-- A die (R43, R48, R79, R82, R90): its L2 lines by (slice × 512 + set) × 16 + way, the Cellar's by (slice × 1 024 +
set) × 16 + way, translation hardware, fault queues by context slot, and its side of the coherence protocol. -/
structure Die where
  l2 : FMap L2Line
  tree : FMap Nat
  cellar : FMap CellarLine
  tlb : List TlbEntry
  walkc : List WalkEntry
  miss : List Miss
  fqs : FMap FaultQueue
  fheld : List FaultRec
  stale : Nat
  reqs : List OpenReq
  /-- Lines whose WriteBack has been sent and not acknowledged (R93), with its transaction number. -/
  wbs : List (Nat × Nat)
  txns : List HomeTxn
  /-- Requests that wait for a busy line (R90), with the ticks at which they arrived. -/
  queue : List (CohMsg × Nat)
  txnNo : Nat
  deriving DecidableEq, Repr

/-- A die after reset. -/
def Die.reset : Die where
  l2 := []
  tree := []
  cellar := []
  tlb := []
  walkc := []
  miss := []
  fqs := []
  fheld := []
  stale := 0
  reqs := []
  wbs := []
  txns := []
  queue := []
  txnNo := 0

/-- What a turn of the schedule does: a warp issues, or an event happens. -/
inductive Act where
  | warp (id : Nat)
  | event (i : Instr)
  deriving DecidableEq, Repr

/-- A turn of the schedule: the ticks and clocks that pass before it, and what it does (log 1). -/
structure Turn where
  ticks : Nat
  clocks : Nat
  act : Act
  deriving DecidableEq, Repr

/-- The state of the machine. -/
structure State where
  tick : Nat
  clock : Nat
  /-- What happens next, in order: the model's own (log 1). -/
  schedule : List Turn
  /-- The number of turns taken without a schedule: the model's own (log 1). -/
  turnNo : Nat
  /-- Die registers that hold a value other than their reset value, by die × 2^32 + offset (R415). -/
  regs : FMap Nat
  attic : Config.AtticSize
  /-- Offline dies (R99). -/
  offline : List Nat
  cores : FMap Core
  dies : FMap Die
  net : List CohMsg
  /-- Control-class messages in flight (R333). -/
  ctl : List CtlMsg
  accs : FMap Access
  /-- Jobs of the engine queues, by number in order of issue (R309). -/
  jobs : FMap Job
  /-- Matrix arrays by core (R301). -/
  arrays : FMap MatArray
  /-- The arrays of saved workgroups that own one, by workgroup (R391). -/
  savedArrays : FMap MatArray
  /-- Open matches of collectives, and how many each die has issued for a context and GROUP (R326). -/
  colls : List Coll
  collNo : List ((Nat × Nat) × Nat × Nat)
  /-- ACQs that wait (R120). -/
  acqs : List AcqWait
  /-- The units beside the cores, by die. -/
  units : FMap DieUnit
  /-- What the whole module holds. -/
  mdl : Module
  /-- Enqueues under way (R342), deques by core (R337), lifted records that are not read yet (R353). -/
  enqs : FMap Enq
  deques : FMap Deque
  lifts : List Lift
  /-- Graphs that are tracked (R350), completion latches still to be updated (R332). -/
  graphs : FMap Graph
  upds : FMap LatchUpd
  /-- Interrupts raised toward the host (R48, R401). -/
  msis : List Msi
  /-- The host cores that the operating system has taken offline, by hart ID (R393, R401; log 9). -/
  parkedHarts : List Nat
  /-- What the last read by a host core or a peer returned (R146): the model's own. -/
  hostData : List Byte
  /-- Whether the last access by a host core or a peer took an access fault (R25): the model's own. -/
  hostFault : Bool
  /-- The warp that `exec` acts on. -/
  cur : Option Nat
  freshCount : Nat
  nextUid : Nat
  warps : FMap Warp
  wgs : FMap Workgroup
  launches : FMap Launch
  mem : FMap Byte
  /-- Sectors of 16 bytes that hold an error (R100 to R102). -/
  bad : List BadSector
  frames : FMap Word
  deriving DecidableEq, Repr

/-- The machine right after reset. -/
def State.reset : State where
  tick := 0
  clock := 0
  schedule := []
  turnNo := 0
  regs := []
  attic := .eighth
  offline := []
  cores := []
  dies := []
  net := []
  ctl := []
  accs := []
  jobs := []
  arrays := []
  savedArrays := []
  colls := []
  collNo := []
  acqs := []
  units := []
  mdl := Module.reset
  enqs := []
  deques := []
  lifts := []
  graphs := []
  upds := []
  msis := []
  parkedHarts := []
  hostData := []
  hostFault := false
  cur := none
  freshCount := 0
  nextUid := 1
  warps := []
  wgs := []
  launches := []
  mem := []
  bad := []
  frames := []

end Sys2Proof.Machine
end

