-- ==== Sys2Proof/Machine/Phys.lean ====
section
/-! DEFINITION. Physical memory (spec 01, 04): the map of R23, bytes and lines, the geometry of the caches, the
Attic's tags and the home directory as they lie in memory. -/

namespace Sys2Proof.Machine

/-- A die and a core of the state, and their updates. -/
def State.die (s : State) (d : Nat) : Die := storeGet Die.reset s.dies d
def State.setDie (s : State) (d : Nat) (x : Die) : State := { s with dies := storeSet Die.reset s.dies d x }
def State.core (s : State) (c : Nat) : Core := storeGet Core.reset s.cores c
def State.setCore (s : State) (c : Nat) (x : Core) : State := { s with cores := storeSet Core.reset s.cores c x }

/-- What lies at a physical address (R23, R27). -/
inductive PaKind where
  | dram (die off : Nat)
  | attic (die off : Nat)
  | external
  | register (die off : Nat)
  | hole
  deriving DecidableEq, Repr

/-- The first offset of the Attic reservation, of its tag area, and S (R27, R83). -/
def atticBase : Config.AtticSize → Nat
  | .sixteenth => 0x8700000000
  | .eighth => 0x7E00000000
  | .quarter => 0x6C00000000
def atticTag : Config.AtticSize → Nat
  | .sixteenth => 0x8F00000000
  | .eighth => 0x8E00000000
  | .quarter => 0x8C00000000
def atticS : Config.AtticSize → Nat
  | .sixteenth => 24
  | .eighth => 25
  | .quarter => 26

/-- Whether the external window is populated (R23, R402): die 4's port works as root, and it is lost with die 4 (R399). -/
def State.window (s : State) : Bool := s.mdl.root && !s.offline.contains 4

/-- The physical map (R23); `window` tells whether the external window is populated. -/
def paKind (sz : Config.AtticSize) (window : Bool) (pa : Nat) : PaKind :=
  if pa < 0x90000000000 then
    let die := pa / 2 ^ 40
    let off := pa % 2 ^ 40
    if off < atticBase sz then .dram die off
    else if off < 0x9000000000 then .attic die off
    else .hole
  else if 0x100000000000 ≤ pa ∧ pa < 0x200000000000 then
    if window then .external else .hole
  else if 0xF00000000000 ≤ pa ∧ pa < 0xF00900000000 then
    .register ((pa - 0xF00000000000) / 2 ^ 32) (pa % 2 ^ 32)
  else .hole

/-- Whether the SIMT, graphics, matrix and copy sides may access an address (R25). -/
def paOpen (sz : Config.AtticSize) (window : Bool) (pa : Nat) : Bool :=
  match paKind sz window pa with
  | .dram _ _ => true
  | .external => true
  | _ => false

/-- Whether an address lies in a die's memory, so that its line has a home (R24). -/
def paHomed (pa : Nat) : Bool := decide (pa < 0x90000000000)

/-- The home die of a line (R24, R88). -/
def homeOf (line : Nat) : Nat := line / 2 ^ 33

/-- A byte of memory; an unlisted byte reads 0 (R411, log 6). -/
def State.byte (s : State) (pa : Nat) : Byte := storeGet 0 s.mem pa

/-- A write of one byte of memory. -/
def State.putByte (s : State) (pa : Nat) (b : Byte) : State := { s with mem := storeSet 0 s.mem pa b }

/-- A write of consecutive bytes of memory. -/
def putBytes (m : FMap Byte) (pa : Nat) : List Byte → FMap Byte
  | [] => m
  | b :: bs => putBytes (storeSet 0 m pa b) (pa + 1) bs

/-- The bytes of memory from `pa`, `n` of them, as a number: one pass over the listed bytes. -/
def memNat (m : FMap Byte) (pa n : Nat) : Nat :=
  match m with
  | [] => 0
  | (k, b) :: r =>
    if pa + n ≤ k then 0
    else if k < pa then memNat r pa n
    else b.toNat * 2 ^ (8 * (k - pa)) + memNat r pa n

/-- A line of memory. -/
def memLine (m : FMap Byte) (line : Nat) : Line := BitVec.ofNat 1024 (memNat m (line * 128) 128)

/-- The bytes of a line. -/
def lineBytes (d : Line) : List Byte := leBytes 128 d.toNat

/-- A line of memory replaced. -/
def putLine (m : FMap Byte) (line : Nat) (d : Line) : FMap Byte := putBytes m (line * 128) (lineBytes d)

/-- A line of memory with the nibbles of a mask replaced. -/
def mergeMem (m : FMap Byte) (line : Nat) (d : Line) (mask : NibMask) : FMap Byte :=
  if mask = 0 then m else putLine m line (lineMerge (memLine m line) d mask)

/-- The slice and set of a line in an L2 (R72, R79), as one number. -/
def l2Slot (x : Nat) : Nat :=
  let f (i : Nat) : Nat := x / 2 ^ (5 * i) % 32
  let a := f 0 ^^^ f 1 ^^^ f 2 ^^^ f 3 ^^^ f 4 ^^^ f 5 ^^^ f 6 ^^^ f 7
  let slice := 5 * a + (x / 32) % 5
  slice * 512 + (x / 32 / 5) % 512

/-- The set of a line in an L1 (R58). -/
def l1Set (x : Nat) : Nat := x % 512

/-- Channel and group of an offset in a die's memory (R22). -/
def chanOf (off : Nat) : Nat := off / 256 % 36
def groupOf (off : Nat) : Nat := chanOf off / 6

/-- The slice and set of a line in the Cellar (R82): the slice is the line's channel. -/
def cellarSlot (x : Nat) : Nat :=
  let off := x * 128 % 2 ^ 40
  let chaddr := off / 256 / 36 * 256 + off % 256
  chanOf off * 1024 + chaddr / 128 % 1024

/-- The first of two ways of a set that meets a test: position and value. -/
def waysFind {α : Type} (m : FMap α) (slot : Nat) (p : α → Bool) : Nat → Nat → Option (Nat × α)
  | 0, _ => none
  | k + 1, w =>
    match mapFind m (slot * 16 + w) with
    | some v => if p v then some (slot * 16 + w, v) else waysFind m slot p k (w + 1)
    | none => waysFind m slot p k (w + 1)

/-- A line in a die's L2: its key and value. -/
def Die.l2Find (d : Die) (x : Nat) : Option (Nat × L2Line) :=
  waysFind d.l2 (l2Slot x) (fun l => l.line == x && decide (l.st ≠ .i)) 16 0

/-- A line in a core's L1. -/
def Core.l1Find (c : Core) (x : Nat) : Option (Nat × L1Line) :=
  waysFind c.l1 (l1Set x) (fun l => l.line == x && decide (l.st ≠ .i)) (16 - c.carve) 0

/-- The MOESI state of an Attic STATE code (R84). -/
def atticState (c : Nat) : Moesi :=
  if c = 1 then .s else if c = 2 then .e else if c = 3 then .o else if c = 4 then .m else .i
def atticCode : Moesi → Nat
  | .i => 0 | .s => 1 | .e => 2 | .o => 3 | .m => 4

/-- An Attic tag entry (R84). -/
structure AtticTag where
  st : Moesi
  dirty : Byte
  age : Nat
  line : Nat
  deriving DecidableEq, Repr

/-- A tag entry from its 8 bytes: none with V = 0. -/
def atticTagOf (e : Nat) : Option AtticTag :=
  if bitOf e 63 then
    some ⟨atticState (bitsOf e 62 60), BitVec.ofNat 8 (bitsOf e 59 52), bitsOf e 51 48, bitsOf e 40 0⟩
  else none
def AtticTag.word (t : AtticTag) : Nat :=
  2 ^ 63 + atticCode t.st * 2 ^ 60 + t.dirty.toNat * 2 ^ 52 + t.age * 2 ^ 48 + t.line

/-- The Attic set of a line (R83). -/
def atticSet (S x : Nat) : Nat := (x ^^^ (x / 2 ^ S) ^^^ (x / 2 ^ (2 * S))) % 2 ^ S

/-- The physical line numbers of an Attic set's tags on die `d`, and of the data of way `w`. -/
def atticTagLine (sz : Config.AtticSize) (d x : Nat) : Nat :=
  (d * 2 ^ 40 + atticTag sz) / 128 + atticSet (atticS sz) x
def atticDataLine (sz : Config.AtticSize) (d x w : Nat) : Nat :=
  (d * 2 ^ 40 + atticBase sz) / 128 + atticSet (atticS sz) x * 16 + w

/-- Entry `w` of a line of 16 entries. -/
def entryOf (l : Line) (w : Nat) : Nat := (l.extractLsb' (64 * w) 64).toNat
def putEntry (l : Line) (w e : Nat) : Line := lineMerge l (linePlace (8 * w) e) (nibBytes (8 * w) 8)

/-- The way of a line in an Attic set. -/
def State.atticFind (s : State) (d x : Nat) : Option (Nat × AtticTag) :=
  let l := memLine s.mem (atticTagLine s.attic d x)
  if l = 0 then none
  else
    (List.range 16).findSome? fun w =>
      match atticTagOf (entryOf l w) with
      | some t => if t.line = x then some (w, t) else none
      | none => none

/-- Write a tag entry of an Attic set (0 for an invalid one). -/
def State.atticPut (s : State) (d x w e : Nat) : State :=
  let t := atticTagLine s.attic d x
  { s with mem := putLine s.mem t (putEntry (memLine s.mem t) w e) }

/-- The directory states of R86. -/
inductive DirSt where
  | s | em | o
  deriving DecidableEq, Repr

/-- A home directory entry (R86); `line` is y = off[39:7]. -/
structure DirEntry where
  st : DirSt
  owner : Nat
  pres : BitVec 9
  age : Nat
  line : Nat
  deriving DecidableEq, Repr

def dirEntryOf (e : Nat) : Option DirEntry :=
  if bitOf e 63 then
    let c := bitsOf e 62 61
    some ⟨if c = 1 then .em else if c = 2 then .o else .s, bitsOf e 60 57,
      BitVec.ofNat 9 (bitsOf e 56 48), bitsOf e 47 44, bitsOf e 32 0⟩
  else none
def DirEntry.word (t : DirEntry) : Nat :=
  2 ^ 63 + (match t.st with | .s => 0 | .em => 1 | .o => 2) * 2 ^ 61 + t.owner * 2 ^ 57 +
    t.pres.toNat * 2 ^ 48 + t.age * 2 ^ 44 + t.line

/-- The physical line that holds the directory set of a line (R86). -/
def dirLine (sz : Config.AtticSize) (x : Nat) : Nat :=
  let S := atticS sz
  let y := x % 2 ^ 33
  (homeOf x * 2 ^ 40 + atticTag sz + 2 ^ (S + 7)) / 128 + (y ^^^ (y / 2 ^ S)) % 2 ^ S

/-- The directory entry of a line with its way; none is the state NONE. -/
def State.dirFind (s : State) (x : Nat) : Option (Nat × DirEntry) :=
  let l := memLine s.mem (dirLine s.attic x)
  if l = 0 then none
  else
    (List.range 16).findSome? fun w =>
      match dirEntryOf (entryOf l w) with
      | some t => if t.line = x % 2 ^ 33 then some (w, t) else none
      | none => none

/-- Write an entry of the directory set of a line (0 for NONE). -/
def State.dirPut (s : State) (x w e : Nat) : State :=
  let t := dirLine s.attic x
  { s with mem := putLine s.mem t (putEntry (memLine s.mem t) w e) }

/-- The lowest way whose entry has V = 0, else the way with the largest AGE, the lowest on a tie (R85). -/
def pickWay (l : Line) (age : Nat → Nat) : Nat :=
  match (List.range 16).find? fun w => !bitOf (entryOf l w) 63 with
  | some w => w
  | none =>
    (List.range 16).foldl (fun best w => if age (entryOf l best) < age (entryOf l w) then w else best) 0

/-- The AGE of every other valid entry rises by 1, saturating at 15 (R85); `lo` is the field's lowest bit. -/
def ageSet (l : Line) (w lo : Nat) : Line :=
  (List.range 16).foldl (fun acc i =>
    let e := entryOf acc i
    if i ≠ w ∧ bitOf e 63 ∧ bitsOf e (lo + 3) lo < 15 then putEntry acc i (e + 2 ^ lo) else acc) l

/-- Whether a transaction is open on a line at its home, or a request or a WriteBack of it is on its way (R90). -/
def State.lineBusy (s : State) (x : Nat) : Bool :=
  (s.die (homeOf x)).txns.any (fun t => t.msg.line == x) || s.net.any (fun m => m.line == x) ||
  (s.die (homeOf x)).queue.any (fun m => m.1.line == x)

/-- Whether an address lies in a line that is on its way between dies. -/
def State.paBusy (s : State) (pa : Nat) : Bool := paHomed pa && s.lineBusy (pa / 128)

/-- The data of a die's L2 line with the dirty nibbles of the owning L1 (R71, R93). -/
def State.l2Data (s : State) (l : L2Line) : Line :=
  match l.owner with
  | none => l.data
  | some c =>
    match (s.core c).l1Find l.line with
    | some (_, k) => lineMerge l.data k.data k.mask
    | none => l.data

/-- A die's copy of a line that answers for its data: M, O or E in L2 or the Attic. -/
def State.ownerCopy (s : State) (d x : Nat) : Option Line :=
  match (s.die d).l2Find x with
  | some (_, l) => if l.st = .s then none else some (s.l2Data l)
  | none =>
    if d = homeOf x then none
    else
      match s.atticFind d x with
      | some (w, t) => if t.st = .s then none else some (memLine s.mem (atticDataLine s.attic d x w))
      | none => none

/-- The coherent value of a line: its owner's, otherwise memory's (R80, R92, R129). An owner that is offline counts as cleared
(R98, R99). -/
def State.viewLine (s : State) (x : Nat) : Line :=
  let remote := match s.dirFind x with
    | some (_, e) => if e.st = .s ∨ s.offline.contains e.owner then none else s.ownerCopy e.owner x
    | none => none
  match remote with
  | some d => d
  | none => (s.ownerCopy (homeOf x) x).getD (memLine s.mem x)

/-- `n` bytes from `pa` as the coherent value, for the part's own reads (R42); they lie in one line. -/
def State.viewNat (s : State) (pa n : Nat) : Nat :=
  if paHomed pa then ((s.viewLine (pa / 128)).toNat / 2 ^ (8 * (pa % 128))) % 2 ^ (8 * n)
  else memNat s.mem pa n

/-- A core gives up its copies of a line, in its L1 and in its instruction cache. -/
def Core.drop (c : Core) (x : Nat) : Core :=
  { c with l1 := (match c.l1Find x with
      | some (k, _) => mapDel c.l1 k
      | none => c.l1)
           icache := c.icache.filter fun y => y != x }

/-- Drop a line from every L1 and instruction cache of a die. -/
def dropL1 (cores : FMap Core) (d x : Nat) : FMap Core :=
  (cores.map fun e => if coreDie e.1 = d then (e.1, e.2.drop x) else e).filter fun e => decide (e.2 ≠ Core.reset)

/-- Drop a line from a die: its L1s, its L2, its Attic. -/
def State.dropDie (s : State) (d x : Nat) : State :=
  let s := { s with cores := dropL1 s.cores d x }
  let dd := s.die d
  let s := match dd.l2Find x with
    | some (k, _) => s.setDie d { dd with l2 := mapDel dd.l2 k }
    | none => s
  if d = homeOf x then s
  else match s.atticFind d x with
    | some (w, _) => s.atticPut d x w 0
    | none => s

/-- Bytes read by an agent of the part at a physical address, a line at a time. -/
def State.readBytes (s : State) : Nat → Nat → Nat → List Byte
  | 0, _, _ => []
  | fuel + 1, pa, n =>
    if n = 0 then []
    else
      let m := min n (128 - pa % 128)
      leBytes m (s.viewNat pa m) ++ s.readBytes fuel (pa + m) (n - m)

/-- Whether a die holds a line in an L1, in L2 or in its Attic. -/
def State.dieHolds (s : State) (d x : Nat) : Bool :=
  ((s.die d).l2Find x).isSome || (homeOf x != d && (s.atticFind d x).isSome)

end Sys2Proof.Machine
end

