-- ==== Sys2Proof/Machine/Regs.lean ====
section
/-! DEFINITION. The registers of a die's register block that hold a value (spec 17 R415): reset values, reads, writes. -/

namespace Sys2Proof.Machine

/-- CLSCFG from its fields (R108): LAT, QUOTA, RATE, FLOOR, BURST. -/
def clsWord (lat quota rate floor burst : Nat) : Nat :=
  lat * 2 ^ 62 + quota * 2 ^ 57 + rate * 2 ^ 48 + floor * 2 ^ 39 + burst * 2 ^ 32

/-- The reset values of CLSCFG (R108). -/
def clsReset (c : Nat) : Nat :=
  match c with
  | 0 => clsWord 0 2 32 0 64
  | 1 => clsWord 0 2 48 0 32
  | 2 => clsWord 1 2 64 16 16
  | 3 => clsWord 2 3 256 32 64
  | 4 => clsWord 3 4 256 32 64
  | 5 => clsWord 2 2 256 16 32
  | 6 => clsWord 1 0 64 8 8
  | 7 => clsWord 2 0 128 16 32
  | 8 => clsWord 1 1 64 8 8
  | _ => clsWord 2 0 256 0 64

/-- STEER word `w` at reset: entry h is h mod 9 (R415). -/
def steerReset (w : Nat) : Nat := (List.range 16).foldl (fun a i => a + (16 * w + i) % 9 * 2 ^ (4 * i)) 0

/-- The reset value of a register: WDOG (R389), CLSCFG (R108), URGCFG (R115), STEER (R415), DSLEAD (R408), MINLAT of the
monitors (R117, log 5); the others 0. -/
def regReset (off : Nat) : Nat :=
  if off = 0x80100 then 100000
  else if 0x40000 ≤ off ∧ off < 0x40080 then clsReset ((off - 0x40000) / 8)
  else if off = 0x40900 then 0x1FF * 2 ^ 32 + 2048 * 2 ^ 12 + 1024
  else if 0x10800 ≤ off ∧ off < 0x10900 then steerReset ((off - 0x10800) / 8)
  else if off = 0xA0030 then 500000
  else if 0x42000 ≤ off ∧ off < 0x44000 ∧ off % 0x100 = 0 then 0xFFFFFFFF
  else 0

/-- A register's value, and its update. -/
def State.reg (s : State) (die off : Nat) : Nat := storeGet (regReset off) s.regs (die * 2 ^ 32 + off)
def State.setReg (s : State) (die off v : Nat) : State :=
  { s with regs := storeSet (regReset off) s.regs (die * 2 ^ 32 + off) v }

/-- A register that the die with the management role serves (R399, R415). -/
def State.mgmtReg (s : State) (off : Nat) : Nat := s.reg s.mdl.mgmt off

/-- A die's units. -/
def State.unit (s : State) (d : Nat) : DieUnit := storeGet DieUnit.reset s.units d
def State.setUnit (s : State) (d : Nat) (x : DieUnit) : State := { s with units := storeSet DieUnit.reset s.units d x }

/-- Whether a die has no verified firmware (R411): it waits in recovery, or the module has not booted. -/
def State.resting (s : State) (d : Nat) : Bool := (s.unit d).recovery || !s.mdl.booted

/-- Count an event in half of a register; it saturates (R51, R415). -/
def State.count (s : State) (die off : Nat) (high : Bool) : State :=
  let v := s.reg die off
  let h := v / 2 ^ 32
  let l := v % 2 ^ 32
  let up (x : Nat) : Nat := min (x + 1) (2 ^ 32 - 1)
  s.setReg die off (if high then up h * 2 ^ 32 + l else h * 2 ^ 32 + up l)

/-- Requester class of a context's SIMT and bulk requests on a die (R105, R106). -/
def State.simtCls (s : State) (die slot : Nat) : Nat :=
  let c := s.reg die (0x40100 + 8 * slot) % 16
  if 9 ≤ c then c else 3
def State.bulkCls (s : State) (die slot : Nat) : Nat :=
  let c := s.reg die (0x40100 + 8 * slot) / 16 % 16
  if 9 ≤ c then c else 4

end Sys2Proof.Machine
end

