-- ==== Sys2Proof/Machine/Cellar.lean ====
section
/-! DEFINITION. The Cellar and its regulators (spec 05): class configuration, quotas, token buckets, the monitors. The
Cellar holds no value of its own: memory's is the value of its lines. -/

namespace Sys2Proof.Machine

/-! Class configuration (R108) -/

def State.clsLat (s : State) (die c : Nat) : Nat := bitsOf (s.reg die (0x40000 + 8 * c)) 63 62
def State.clsQuota (s : State) (die c : Nat) : Nat := bitsOf (s.reg die (0x40000 + 8 * c)) 61 57
def State.clsRate (s : State) (die c : Nat) : Nat := bitsOf (s.reg die (0x40000 + 8 * c)) 56 48
def State.clsFloor (s : State) (die c : Nat) : Nat := bitsOf (s.reg die (0x40000 + 8 * c)) 47 39
def State.clsBurst (s : State) (die c : Nat) : Nat := bitsOf (s.reg die (0x40000 + 8 * c)) 38 32

/-! Monitors (R116, R117) -/

/-- Add to a field of a register block word: bits from `lo`, `n` wide; it saturates. -/
def State.addField (s : State) (die off lo n k : Nat) : State :=
  let v := s.reg die off
  let f := v / 2 ^ lo % 2 ^ n
  s.setReg die off (v + (min (f + k) (2 ^ n - 1) - f) * 2 ^ lo)

/-- The bin of a latency, of a fill. -/
def latBin (n : Nat) : Nat := if n < 16 then 0 else min 15 (n.log2 - 3)
def fillBin (fill capacity : Nat) : Nat := min 15 (16 * fill / capacity)

/-- Whether a die's monitors count. -/
def State.counting (s : State) (die : Nat) : Bool := bitOf (s.reg die 0x41000) 0

/-- Count 1 in bin `i` of the histogram at an offset. -/
def State.countBin (s : State) (die off i : Nat) : State := s.addField die (off + 8 * (i / 2)) (32 * (i % 2)) 32 1

/-- Bytes are charged to a class (R112). -/
def State.countBytes (s : State) (die c bytes : Nat) : State :=
  if s.counting die then s.addField die (0x42000 + 0x100 * c + 0x10) 0 64 bytes else s

/-- A latency in its 32 bits; the smallest and the largest latency with one more. -/
def latCap (lat : Nat) : Nat := min lat (2 ^ 32 - 1)
def latRange (v lat : Nat) : Nat := min (v % 2 ^ 32) (latCap lat) + max (v / 2 ^ 32) (latCap lat) * 2 ^ 32

/-- A request of a class has been measured, and `bytes` have been charged for it. -/
def State.measure (s : State) (die c lat bytes : Nat) : State :=
  if s.counting die then
    let base := 0x42000 + 0x100 * c
    let s := s.setReg die base (latRange (s.reg die base) lat)
    ((s.addField die (base + 8) 0 64 1).addField die (base + 0x10) 0 64 bytes).countBin die (base + 0x40) (latBin (latCap lat))
  else s

/-! The Cellar (R82, R110, R111) -/

/-- The lines of a set, with their ways. -/
def Die.cellarSet (d : Die) (slot : Nat) : List (Nat × CellarLine) :=
  (List.range 16).filterMap fun w => (mapFind d.cellar (slot * 16 + w)).map fun l => (w, l)

/-- The least recently used line of a list. -/
def cellarLru : List (Nat × CellarLine) → Option Nat
  | [] => none
  | e :: r => some (r.foldl (fun (b : Nat × CellarLine) x => if x.2.used < b.2.used then x else b) e).1

/-- The way that class `c` allocates in a set (R110). -/
def cellarVictim (quota : Nat → Nat) (set : List (Nat × CellarLine)) (c : Nat) : Nat :=
  let count (k : Nat) : Nat := (set.filter fun e => e.2.cls == k).length
  if quota c ≤ count c then (cellarLru (set.filter fun e => e.2.cls == c)).getD 0
  else
    match (List.range 16).find? fun w => !set.any fun e => e.1 == w with
    | some w => w
    | none =>
      match cellarLru (set.filter fun e => decide (quota e.2.cls < count e.2.cls)) with
      | some w => w
      | none => (cellarLru set).getD 0

/-- A group's scheduler with nothing in it. -/
def ChanGroup.empty : ChanGroup := ⟨[], [], [], []⟩
def State.group (s : State) (die g : Nat) : ChanGroup := storeGet ChanGroup.empty (s.unit die).groups g
def State.setGroup (s : State) (die g : Nat) (x : ChanGroup) : State :=
  let u := s.unit die
  s.setUnit die { u with groups := storeSet ChanGroup.empty u.groups g x }

/-- A request's latency (R116): what it has waited, and the service, whose length no rule gives (log 2). -/
def State.latency (s : State) (since x c : Nat) : Nat := s.tick - since + Config.serviceTicks s.tick x c

/-- A request of class `c` for a line, which arrived in the group's request queue at tick `since`, reaches its home's memory
(R82, R110 to R112): it hits in the Cellar, or waits in its channel group. -/
def State.cellarReqAt (s : State) (since x c : Nat) (write : Bool) : State :=
  let die := homeOf x
  if 9 ≤ die then s
  else
    let slot := cellarSlot x
    let d := s.die die
    let set := d.cellarSet slot
    let now := set.foldl (fun m e => max m e.2.used) 0 + 1
    let wait (s : State) (victim : Bool) : State :=
      let g := groupOf (x * 128 % 2 ^ 40)
      let q := s.group die g
      s.setGroup die g { q with misses := q.misses ++ [⟨c, x, write, victim, since, false⟩] }
    match set.find? fun e => e.2.line == x with
    | some (w, l) =>
      (s.setDie die { d with cellar := mapPut d.cellar (slot * 16 + w) { l with used := now, dirty := l.dirty || write } }).measure
        die c (s.latency since x c) 0
    | none =>
      if s.clsQuota die c = 0 then wait s false
      else
        let w := cellarVictim (s.clsQuota die) set c
        let victim := (set.find? fun e => e.1 == w).any fun e => e.2.dirty
        wait (s.setDie die { d with cellar := mapPut d.cellar (slot * 16 + w) ⟨x, c, write, now⟩ }) victim

/-- A request that arrives now. -/
def State.cellarReq (s : State) (x c : Nat) (write : Bool) : State := s.cellarReqAt s.tick x c write

/-- An access to a line of a tag area, Attic tags or home directory: class 5 (R84, R105; for the directory log 85). -/
def State.tagTouch (s : State) (line : Nat) (write : Bool) : State := s.cellarReq line 5 write

/-! Token buckets (R112, R113) -/

/-- What a bucket holds, in sixteenths of a byte: 9 × its rate at each of two fabric clocks to the tick. -/
def bucketNow (rate burst now : Nat) (b : Nat × Nat) : Nat :=
  if rate = 256 then burst * 2048 else min (burst * 2048) (b.1 + 18 * rate * (now - b.2))

/-- The rate and floor buckets of a class in a group. -/
def State.rateTokens (s : State) (die g c : Nat) : Nat :=
  bucketNow (s.clsRate die c) (s.clsBurst die c) s.tick (storeGet (0, 0) (s.group die g).rate c)
def State.floorTokens (s : State) (die g c : Nat) : Nat :=
  bucketNow (s.clsFloor die c) (s.clsBurst die c) s.tick (storeGet (0, 0) (s.group die g).floor c)

/-- Whether a die's regulators hold urgency raised (R115). -/
def State.urgentOn (s : State) (die : Nat) : Bool :=
  (s.unit die).urgency &&& BitVec.ofNat 9 (s.reg die 0x40900 / 2 ^ 32) != 0

/-- The next class of a list after `last`, in turn. -/
def nextClass (ok : Nat → Bool) (last : Nat) : Option Nat := ((List.range 16).map fun i => (last + 1 + i) % 16).find? ok

/-- The tiers of R113 in order: number, latency class, whether it is tier 2. -/
def cellarTiers : List (Nat × Nat × Bool) :=
  [(0, 0, false), (1, 0, true), (1, 1, true), (1, 2, true), (1, 3, true), (2, 1, false), (2, 2, false), (2, 3, false)]

/-- The class that a group serves next, with its tier and latency class (R113). DESIGN CHOICE (log 84): after reset each round
begins with class 0. -/
def State.cellarPick (s : State) (die g : Nat) : Option (Nat × Nat × Bool) :=
  let q := s.group die g
  cellarTiers.findSome? fun t =>
    let ok (c : Nat) : Bool :=
      s.clsLat die c == t.2.1 && q.misses.any (fun m => m.cls == c) &&
        decide (2048 ≤ if t.2.2 then s.floorTokens die g c else s.rateTokens die g c) &&
        !(t.1 == 2 && t.2.1 == 3 && s.urgentOn die)
    (nextClass ok (storeGet 15 q.last (4 * t.1 + t.2.1))).map fun c => (c, 4 * t.1 + t.2.1, t.2.2)

/-- CELLAR_MISS_SCHEDULE (R112, R113): the oldest miss of the class goes to its channel; its buckets are charged. The write of a
dirty victim is a step of its own before it, charged like it, so that no bucket is charged more than it holds, and a rate bucket that holds less than
a service of tier 2 charges is left empty (log 84). -/
def State.cellarServe (s : State) (die g : Nat) : State :=
  match s.cellarPick die g with
  | none => s
  | some (c, key, floored) =>
    let q := s.group die g
    match listIndex (fun m : CellarMiss => m.cls == c) q.misses with
    | none => s
    | some i =>
      match q.misses[i]? with
      | none => s
      | some m =>
        let charge := 2048
        let r := s.rateTokens die g c
        let f := s.floorTokens die g c
        let q := { q with
          misses := if m.victim && !m.paid then listModify (fun m => { m with paid := true }) q.misses i
            else listRemove q.misses i
          rate := storeSet (0, 0) q.rate c (r - charge, s.tick)
          floor := storeSet (0, 0) q.floor c (if floored || decide (2048 ≤ f) then f - charge else f, s.tick)
          last := storeSet 15 q.last key c }
        let s := s.setGroup die g q
        if m.victim && !m.paid then s.countBytes die c 128 else s.measure die c (s.latency m.tick m.line c) 128

end Sys2Proof.Machine
end

