-- ==== Sys2Proof/Machine/Errors.lean ====
section
/-! DEFINITION. Interrupts toward the host (spec 17 R401), the error log (17 R414, 04 R103), machine checks (04 R104), what an
error does to a copy of a line that nothing consumes (04 R100, R102). -/

namespace Sys2Proof.Machine

/-! Interrupts and the error log -/

/-- Raise an interrupt with a vector toward the host (R401): to the host cores' IMSICs, or as MSI-X when die 4's port works as
an endpoint. -/
def State.msi (s : State) (k : MsiSource) (v : Nat) : State :=
  { s with msis := s.msis ++ [⟨k, v, s.tick, !s.mdl.root, storeGet 0 s.mdl.vectors.harts k.code⟩] }

/-- The vector of a source (R401): a fault queue's is its context's FQVEC, a graph node's its own; these are given where they are
raised. -/
def Vectors.of (v : Vectors) : MsiSource → Nat
  | .faultQueue _ | .graph => 0
  | .error => v.error
  | .machineCheck => v.machineCheck
  | .frameLock => v.frameLock
  | .power => v.power

/-- Raise the interrupt of a source. -/
def State.interrupt (s : State) (k : MsiSource) : State := s.msi k (s.mdl.vectors.of k)

/-- What an error log entry says (R103, R414). -/
structure ErrorEntry where
  structure_ : Nat
  die : Nat
  sector : Nat
  lost : Bool
  uncorr : Bool
  line : Nat
  deriving DecidableEq, Repr

/-- The 32 bytes of an entry (R414). -/
def ErrorEntry.bytes (e : ErrorEntry) (tick : Nat) : List Byte :=
  leBytes 32 (e.line * 128 % 2 ^ 48 + (if e.uncorr then 2 ^ 175 else 0) + (if e.lost then 2 ^ 176 else 0) +
    e.sector % 8 * 2 ^ 177 + e.die % 16 * 2 ^ 180 + e.structure_ % 256 * 2 ^ 184 + tick % 2 ^ 64 * 2 ^ 192)

/-- A store to ERRHEAD (R414): the host has taken the entries before it. -/
def State.errorsTaken (s : State) (die head : Nat) : State :=
  let u := s.unit die
  s.setUnit die { u with errHeld := min u.errHeld ((s.reg die 0xB2000 + 256 - head) % 256) }

/-- Put an entry into a die's ring of 256, or count it (R414). -/
def State.putError (s : State) (die : Nat) (bs : List Byte) : State :=
  let u := s.unit die
  if 256 ≤ u.errHeld then s.setReg die 0xB2010 (s.reg die 0xB2010 + 1)
  else
    let tail := s.reg die 0xB2000
    (s.setUnit die { u with errlog := mapPut u.errlog tail bs, errHeld := u.errHeld + 1 }).setReg die 0xB2000 ((tail + 1) % 256)

/-- Log an error on its die, tell the die with the management role (R405), raise the error vector for an uncorrectable or
lost one (R414). -/
def State.logError (s : State) (e : ErrorEntry) : State :=
  let bs := e.bytes s.tick
  let s := s.putError e.die bs
  let s := if e.die = s.mdl.mgmt then s else { s with ctl := s.ctl ++ [⟨e.die, s.mdl.mgmt, .errorNote bs⟩] }
  if e.uncorr || e.lost then s.interrupt .error else s

/-- A machine check (R104, R414, R415): all nine dies stop. Cause 1 is an Attic tag line, 2 a home directory line, 3 a message
with a reserved code, which is `where_` then. -/
def State.machineCheck (s : State) (cause die where_ : Nat) : State :=
  let s : State := { s with mdl := { s.mdl with stopped := true } }
  let s := s.setReg s.mdl.mgmt 0x10508 (cause + die * 2 ^ 8 + where_ * 2 ^ 16)
  let s := if cause = 3 then s.interrupt .error
    else s.logError { structure_ := 5, die := die, sector := 0, lost := false, uncorr := true, line := where_ / 128 }
  s.interrupt .machineCheck

/-! Sectors with errors -/

/-- STRUCT of a place (R414). -/
def BadAt.code : BadAt → Nat
  | .l1 _ => 1
  | .l2 _ => 2
  | .cellar _ => 3
  | .attic _ => 4
  | .tag _ => 5
  | .vreg _ | .sreg _ => 6
  | .scratch _ => 7
  | .dram | .fill _ => 8
  | .array _ | .tlb _ | .pantry _ | .deque _ => 9

/-- The die of a workgroup, of a warp. -/
def State.wgDie (s : State) (wg : Nat) : Nat := ((mapFind s.wgs wg).map fun g => g.die).getD 0
def State.warpDie (s : State) (w : Nat) : Nat := ((mapFind s.warps w).map fun x => s.wgDie x.wg).getD 0

/-- The die of a place. -/
def State.badDie (s : State) (a : BadAt) (line : Nat) : Nat :=
  match a with
  | .l1 c | .scratch c | .array c | .deque c => coreDie c
  | .l2 d | .cellar d | .attic d | .tag d | .tlb d | .pantry d | .fill d => d
  | .vreg wg => s.wgDie wg
  | .sreg w => s.warpDie w
  | .dram => homeOf line

/-- The line that an entry names (R103): what holds no line of memory has no physical address, and its entry has 0 there (log
73). -/
def BadAt.logLine (a : BadAt) (line : Nat) : Nat :=
  match a with
  | .vreg _ | .sreg _ | .scratch _ | .array _ | .tlb _ | .pantry _ | .deque _ => 0
  | _ => line

/-- Log a sector. -/
def State.badEntry (s : State) (a : BadAt) (line sector : Nat) (lost uncorr : Bool) : State :=
  s.logError { structure_ := a.code, die := s.badDie a line, sector := sector, lost := lost, uncorr := uncorr, line := a.logLine line }

/-- The sectors of a copy with an uncorrectable error. -/
def State.badMask (s : State) (a : BadAt) (x : Nat) : Byte :=
  (s.bad.filter fun b => decide (b.at_ = a) && b.line == x && !b.corr).foldl
    (fun m b => m ||| BitVec.ofNat 8 (2 ^ (b.sector % 8))) 0

/-- A copy is new, or gone: what failed before no longer does. -/
def State.badClear (s : State) (a : BadAt) (x : Nat) : State :=
  if s.bad.isEmpty then s else { s with bad := s.bad.filter fun b => !(decide (b.at_ = a) && b.line == x) }

/-- Log the failing sectors of a copy: those that were dirty are lost (R101 to R103). -/
def State.badLog (s : State) (a : BadAt) (x : Nat) (mask dirty : Byte) : State :=
  (List.range 8).foldl (fun s i => if mask.getLsbD i then s.badEntry a x i (dirty.getLsbD i) true else s) s

/-- Reading a copy corrects its single-bit errors, and writes them back corrected (R100); they are logged (R414). -/
def State.badCorrect (s : State) (a : BadAt) (x : Nat) : State :=
  if s.bad.isEmpty then s
  else
    let hit (b : BadSector) : Bool := decide (b.at_ = a) && b.line == x && b.corr
    let fixed : State := { s with bad := s.bad.filter fun b => !hit b }
    (s.bad.filter hit).foldl (fun s b => s.badEntry a x b.sector false false) fixed

/-- Copies of failing sectors are made with the data (R101; log 38): the place that they are read from keeps them. -/
def State.badCopy (s : State) (a b : BadAt) (x : Nat) (mask : Byte) : State :=
  if s.bad.isEmpty then s
  else
    let hit (e : BadSector) : Bool := decide (e.at_ = a) && e.line == x && !e.corr && mask.getLsbD (e.sector % 8)
    { s with bad := s.bad ++ (s.bad.filter hit).map fun e => { e with at_ := b } }

/-- Errors of a copy's data go with it to another place (R84, R101). -/
def State.badMove (s : State) (a b : BadAt) (x : Nat) : State :=
  if s.bad.isEmpty then s
  else { s with bad := s.bad.map fun e => if e.at_ = a ∧ e.line = x then { e with at_ := b } else e }

/-- Sectors of a copy that are written whole no longer fail (R100). -/
def State.badOver (s : State) (a : BadAt) (x : Nat) (mask : Byte) : State :=
  if s.bad.isEmpty then s
  else { s with bad := s.bad.filter fun e => !(decide (e.at_ = a) && e.line == x && mask.getLsbD (e.sector % 8)) }

/-- Some sectors of an entry of a table in SRAM are read (R100): errors of one bit are corrected; a sector with more is lost, is
logged, and holds another value from then on: the state, and which sectors these are. -/
def State.sramRead (s : State) (a : BadAt) (line : Nat) (mask : Byte) (dirty : Bool) : State × Byte :=
  if s.bad.isEmpty then (s, 0)
  else
    let mine (b : BadSector) : Bool := decide (b.at_ = a) && b.line == line && mask.getLsbD (b.sector % 8)
    let m := s.badMask a line &&& mask
    let gone : State := { s with bad := s.bad.filter fun b => !mine b }
    let s := ((s.bad.filter mine).filter fun b => b.corr).foldl (fun s b => s.badEntry a line b.sector false false) gone
    (s.badLog a line m (if dirty then m else 0), m)

/-- The entries of such a table get other places; none for one that leaves it. -/
def State.badRenumber (s : State) (a : BadAt) (f : Nat → Nat → Option (Nat × Nat)) : State :=
  if s.bad.isEmpty then s
  else { s with bad := s.bad.filterMap fun b =>
      if b.at_ = a then (f b.line b.sector).map fun p => { b with line := p.1, sector := p.2 } else some b }

/-- Place `i` of a list is taken out. -/
def State.badRemove (s : State) (a : BadAt) (i : Nat) : State :=
  s.badRenumber a fun l n => if l = i then none else some (if i < l then l - 1 else l, n)

/-- The sectors that a mask of nibbles covers whole. -/
def sectorsFull (m : NibMask) : Byte :=
  (List.range 8).foldl (fun b i => if m.extractLsb' (32 * i) 32 = BitVec.allOnes 32 then b ||| BitVec.ofNat 8 (2 ^ i) else b) 0

/-- Write nibbles of a line of memory. A sector that is written whole no longer fails (R100). -/
def State.memWrite (s : State) (x : Nat) (d : Line) (mask : NibMask) : State :=
  let s : State := { s with mem := mergeMem s.mem x d mask }
  if s.bad.isEmpty then s
  else { s with bad := s.bad.filter fun b => !(b.line == x && (sectorsFull mask).getLsbD (b.sector % 8) &&
      (decide (b.at_ = .dram) || decide (b.at_ = .cellar (homeOf x)))) }

/-- An L1 copy of a line of a die whose dirty sectors are about to move to L2 (R102): the failing ones are lost and revert
to memory's value. -/
def State.l1Lose (s : State) (c k1 k2 : Nat) : State :=
  match mapFind (s.core c).l1 k1 with
  | none => s
  | some l1 =>
    let x := l1.line
    let s := s.badCorrect (.l1 c) x
    let m := s.badMask (.l1 c) x &&& l1.dirty
    if m = 0 then s
    else
      let d := coreDie c
      let s := (s.badLog (.l1 c) x m l1.dirty).badClear (.l1 c) x
      let k := s.core c
      let l1' : L1Line := { l1 with mask := l1.mask &&& ~~~nibSectors m, dirty := l1.dirty &&& ~~~m }
      let s := s.setCore c { k with l1 := mapPut k.l1 k1 l1' }
      let dd := s.die d
      match mapFind dd.l2 k2 with
      | none => s
      | some l2 =>
        let l2' : L2Line := { l2 with data := lineMerge l2.data (memLine s.mem x) (nibSectors m), dirty := l2.dirty &&& ~~~m }
        s.setDie d { dd with l2 := mapPut dd.l2 k2 l2' }

/-- A die's L2 line whose data is about to leave it with no consuming instruction (R102): failing sectors revert to memory's
value, and the dirty ones among them are lost. -/
def State.l2Heal (s : State) (d k : Nat) : State :=
  match mapFind (s.die d).l2 k with
  | none => s
  | some l =>
    let s := s.badCorrect (.l2 d) l.line
    let m := s.badMask (.l2 d) l.line
    if m = 0 then s
    else
      let s := (s.badLog (.l2 d) l.line m l.dirty).badClear (.l2 d) l.line
      let l' : L2Line := { l with data := lineMerge l.data (memLine s.mem l.line) (nibSectors m), dirty := l.dirty &&& ~~~m }
      s.setDie d { s.die d with l2 := mapPut (s.die d).l2 k l' }

/-- The same for a line in a die's Attic, whose data and tag are written then (R84, R105). -/
def State.atticHeal (s : State) (d x : Nat) : State :=
  match s.atticFind d x with
  | none => s
  | some (w, t) =>
    let s := s.badCorrect (.attic d) x
    let m := s.badMask (.attic d) x
    if m = 0 then s
    else
      let s := (s.badLog (.attic d) x m t.dirty).badClear (.attic d) x
      let dl := atticDataLine s.attic d x w
      let s := (s.tagTouch (atticTagLine s.attic d x) true).cellarReq dl 5 true
      let s : State := { s with mem := mergeMem s.mem dl (memLine s.mem x) (nibSectors m) }
      s.atticPut d x w ({ t with dirty := t.dirty &&& ~~~m } : AtticTag).word

/-- The cores of a die that have state, host cores among them. -/
def State.coresOf (s : State) (d : Nat) : List Nat := (s.cores.filter fun e => coreDie e.1 == d).map (·.1)

/-- Every copy of a line on a die. -/
def State.healDie (s : State) (d x : Nat) : State :=
  if s.bad.isEmpty then s
  else
    let s := match (s.die d).l2Find x with
      | some (k2, _) =>
        ((s.coresOf d).foldl (fun s c => match (s.core c).l1Find x with
          | some (k1, _) => s.l1Lose c k1 k2
          | none => s) s).l2Heal d k2
      | none => s
    if homeOf x = d then s else s.atticHeal d x

end Sys2Proof.Machine
end

