-- ==== Sys2Proof/Machine/Caches.lean ====
section
/-! DEFINITION. What L1s and the L2 of a die do with a line (spec 03 R58 to R71, 04 R79 to R85, 11 R263):
replacement, eviction, moves to and from the Attic, fills, ownership within the die. -/

namespace Sys2Proof.Machine

/-- Follow a 16-way tree from node `i`, whose ways are `lo` to `lo + 2^k - 1`, to a way that `ok` admits: the side the
tree points at, the other where that side has none. -/
def plruWalk (t : Nat) (ok : Nat → Bool) : Nat → Nat → Nat → Option Nat
  | 0, _, lo => if ok lo then some lo else none
  | k + 1, i, lo =>
    let l := plruWalk t ok k (2 * i) lo
    let r := plruWalk t ok k (2 * i + 1) (lo + 2 ^ k)
    if bitOf t i then r.or l else l.or r

/-- The victim way of a set (R58, R79). -/
def plruPick (t : Nat) (ok : Nat → Bool) : Option Nat := plruWalk t ok 4 1 0

/-- Set or clear bit `i`. -/
def putBit (t i : Nat) (b : Bool) : Nat :=
  if bitOf t i then (if b then t else t - 2 ^ i) else if b then t + 2 ^ i else t

/-- Point the tree away from way `w` (most recent), or towards it (least recent). -/
def plruTouch (t w : Nat) (recent : Bool) : Nat :=
  (List.range 4).foldl (fun t k =>
    let node := 2 ^ k + w / 2 ^ (4 - k)
    let right := bitOf w (3 - k)
    putBit t node (right != recent)) t

/-- Write or remove an L1 line, an L2 line. -/
def State.l1Put (s : State) (c k : Nat) (l : L1Line) : State :=
  s.setCore c { s.core c with l1 := mapPut (s.core c).l1 k l }
def State.l1Del (s : State) (c k : Nat) : State :=
  s.setCore c { s.core c with l1 := mapDel (s.core c).l1 k }
def State.l2Put (s : State) (d k : Nat) (l : L2Line) : State :=
  s.setDie d { s.die d with l2 := mapPut (s.die d).l2 k l }
def State.l2Del (s : State) (d k : Nat) : State :=
  s.setDie d { s.die d with l2 := mapDel (s.die d).l2 k }

/-- Mark a way of an L1 set or of an L2 set as most or least recently used. -/
def State.l1Touch (s : State) (c x w : Nat) (recent : Bool) : State :=
  let k := s.core c
  s.setCore c { k with tree := storeSet 0 k.tree (l1Set x) (plruTouch (storeGet 0 k.tree (l1Set x)) w recent) }
def State.l2Touch (s : State) (d x w : Nat) (recent : Bool) : State :=
  let k := s.die d
  s.setDie d { k with tree := storeSet 0 k.tree (l2Slot x) (plruTouch (storeGet 0 k.tree (l2Slot x)) w recent) }

/-- The marks that a hint gives a new line (R263, R81): the streaming access that brings it in, keep, no-attic. -/
structure Hints where
  stream : Option Nat
  keep : Bool
  noAttic : Bool
  deriving DecidableEq, Repr

/-- The marks of hint `h` of access `uid` (R263). -/
def hintsOf (h uid : Nat) : Hints := ⟨if h = 1 then some uid else none, h == 2, h == 4⟩

/-- No mark. -/
def Hints.plain : Hints := ⟨none, false, false⟩

/-- Whether a line is one that this streaming access itself brought in: its use does not make it recent (R263). -/
def Hints.own (h : Hints) (cold : Option Nat) : Bool := h.stream.isSome && decide (cold = h.stream)

/-- An L1 line, as it is now, has been used (R58): it is the most recently used of its set. -/
def State.l1Use (s : State) (c k : Nat) (l : L1Line) (h : Hints) : State × L1Line :=
  if h.own l.cold then (s.l1Put c k l, l)
  else
    let l := { l with cold := none }
    ((s.l1Put c k l).l1Touch c l.line (k % 16) true, l)

/-- An L2 line has been used (R79): it is the most recently used of its set. -/
def State.l2Use (s : State) (d k : Nat) (h : Hints) : State :=
  match mapFind (s.die d).l2 k with
  | none => s
  | some l => if h.own l.cold then s else (s.l2Put d k { l with cold := none }).l2Touch d l.line (k % 16) true

/-- Merge an L1's dirty sectors into its L2 line under the nibble mask (R69, R79). An L1's O copy under a clean line has been
forwarded already, and its sectors are the line's own (R70). -/
def L2Line.merge (l : L2Line) (k : L1Line) : L2Line :=
  { l with data := lineMerge l.data k.data k.mask
           dirty := if l.st = .m ∨ l.st = .o then l.dirty ||| sectorsOf k.mask else l.dirty }

/-- Mark a core's hardware cluster, or a host core, as one that may hold a copy (R71, R96). -/
def L2Line.share (l : L2Line) (c : Nat) : L2Line :=
  if c < 864 then { l with sharers := l.sharers ||| BitVec.ofNat 12 (2 ^ (c % 96 / 8)) }
  else { l with hosts := l.hosts ||| BitVec.ofNat 8 (2 ^ (c % 8)) }

/-- No copy is left in the die's L1s but core `keep`'s. -/
def L2Line.shareOnly (l : L2Line) (keep : Option Nat) : L2Line :=
  let l : L2Line := { l with sharers := 0, hosts := 0, owner := l.owner.filter fun o => keep == some o }
  match keep with
  | some c => l.share c
  | none => l

/-- What becomes of the L1 copies whose dirty sectors are collected: they are invalidated; they answer a Shared snoop (R70);
they stay as clean copies (R270). -/
inductive Collect where
  | take | share | clean
  deriving DecidableEq, Repr

/-- The copy that an L1 keeps. -/
def Collect.left (h : Collect) (l : L1Line) : Option L1Line :=
  match h with
  | .take => none
  | .share => some { l with st := if l.st = .m ∨ l.st = .o then .o else .s }
  | .clean => some { l with st := .s, mask := 0, dirty := 0 }

/-- One L1's part in a collection. -/
def State.collectOne (s : State) (d x k2 : Nat) (h : Collect) (c : Nat) : State :=
  let s := match (s.core c).l1Find x with
    | some (k1, _) => s.l1Lose c k1 k2
    | none => s
  match (s.core c).l1Find x, mapFind (s.die d).l2 k2 with
  | some (k1, l1), some l2 =>
    let s := if l1.mask = 0 then s else (s.l2Put d k2 (l2.merge l1)).badOver (.l2 d) x (sectorsFull l1.mask)
    match h.left l1 with
    | none => s.l1Del c k1
    | some l => s.l1Put c k1 l
  | _, _ => s

/-- The instruction caches of a die give up a line (R33, R71). -/
def State.icDrop (s : State) (d x : Nat) : State :=
  (s.coresOf d).foldl (fun s c =>
    let k := s.core c
    if k.icache.contains x then s.setCore c { k with icache := k.icache.filter fun y => y != x } else s) s

/-- Collect the dirty sectors of every L1 of a die but core `keep`'s into the L2 line at `k2` (R70, R71, R93). An owner that
answers a Shared snoop from M or O stays the owner. Copies that are invalidated are those of the instruction caches too, `keep`'s
own among them (R33). -/
def State.collectL1 (s : State) (d x k2 : Nat) (h : Collect) (keep : Option Nat) : State :=
  let s := (s.coresOf d).foldl (fun s c => if keep = some c then s else s.collectOne d x k2 h c) s
  let s := if h = .take then s.icDrop d x else s
  match mapFind (s.die d).l2 k2 with
  | some l2 =>
    s.l2Put d k2 (match h with
      | .take => l2.shareOnly keep
      | .share => { l2 with owner := l2.owner.filter fun o => (s.core o).l1Find x |>.any fun l => decide (l.2.st = .o) }
      | .clean => { l2 with owner := none })
  | none => s

/-- Drop every L1 copy of a line on a die, dirty sectors and all (R270). -/
def State.discardL1 (s : State) (d x : Nat) : State := { s with cores := dropL1 s.cores d x }

/-- Give up an L1 line: dirty sectors go to L2 (R70). -/
def State.l1Evict (s : State) (c k : Nat) : State :=
  let s := match mapFind (s.core c).l1 k with
    | some l1 =>
      match (s.die (coreDie c)).l2Find l1.line with
      | some (k2, _) => s.l1Lose c k k2
      | none => s
    | none => s
  match mapFind (s.core c).l1 k with
  | none => s
  | some l1 =>
    let d := coreDie c
    let s := match (s.die d).l2Find l1.line with
      | some (k2, l2) =>
        let l2 := if l1.mask = 0 then l2 else l2.merge l1
        (s.l2Put d k2 (if l2.owner = some c then { l2 with owner := none } else l2)).badOver (.l2 d) l1.line (sectorsFull l1.mask)
      | none => s
    s.l1Del c k

/-- The way for a new line of an L1 set: the lowest free one, else the victim, which is evicted. Ways that a resize
surrenders take no fill (R63). -/
def State.l1Alloc (s : State) (c x : Nat) : State × Nat :=
  let s := s.badClear (.l1 c) x
  let k := s.core c
  let set := l1Set x
  let n := 16 - (match k.resize with | some r => max k.carve r.target | none => k.carve)
  match (List.range n).find? fun w => (mapFind k.l1 (set * 16 + w)).isNone with
  | some w => (s, w)
  | none =>
    let w := (plruPick (storeGet 0 k.tree set) fun w => decide (w < n)).getD 0
    (s.l1Evict c (set * 16 + w), w)

/-- Send a message. -/
def State.send (s : State) (m : CohMsg) : State := { s with net := s.net ++ [m] }

/-- A fresh transaction number of a die (R88). -/
def State.newTxn (s : State) (d : Nat) : State × Nat :=
  let k := s.die d
  (s.setDie d { k with txnNo := (k.txnNo + 1) % 65536 }, k.txnNo)

/-- A message with its line and no data. -/
def msgOf (code : CohCode) (src dst req cd cls txn line : Nat) : CohMsg :=
  ⟨code, src, dst, req, cd, cls, 0, txn, line, 0, 0⟩

/-- Send a dirty line home (R81, R85, R94). -/
def State.sendWb (s : State) (d x cls : Nat) (data : Line) (dirty : Byte) : State :=
  let (s, t) := s.newTxn d
  let s := s.setDie d { s.die d with wbs := (s.die d).wbs ++ [(x, t)] }
  s.send { msgOf .writeBack d (homeOf x) d 0 cls t x with data := data, smask := dirty }

/-- A line of a tag area is read: Attic tags (cause 1 of a machine check) or home directory (cause 2). An uncorrectable error in
it is a machine check (R104). -/
def State.tagRead (s : State) (d tl cause : Nat) : State :=
  let s := (s.tagTouch tl false).badCorrect (.tag d) tl
  if s.badMask (.tag d) tl = 0 ∨ s.mdl.stopped then s else s.machineCheck cause d (tl * 128)

/-- Put a line that L2 evicts into the Attic (R81, R84, R85). -/
def State.atticFill (s : State) (d : Nat) (l : L2Line) : State :=
  let x := l.line
  let s := s.badClear (.attic d) x
  let tl := atticTagLine s.attic d x
  let s := s.tagRead d tl 1
  let tags := memLine s.mem tl
  let w := pickWay tags fun e => bitsOf e 51 48
  let s := match atticTagOf (entryOf tags w) with
    | some v =>
      let s := s.badCorrect (.attic d) v.line
      let m := s.badMask (.attic d) v.line
      let s := (s.badLog (.attic d) v.line m v.dirty).badClear (.attic d) v.line
      if v.st = Moesi.m ∨ v.st = Moesi.o then
        (s.cellarReq (atticDataLine s.attic d x w) 5 false).sendWb d v.line 5 (memLine s.mem (atticDataLine s.attic d x w)) (v.dirty &&& ~~~m)
      else s
    | none => s
  let t : AtticTag := { st := l.st, dirty := l.dirty, age := 0, line := x }
  let tags := ageSet (putEntry tags w t.word) w 48
  let s := (s.tagTouch tl true).cellarReq (atticDataLine s.attic d x w) 5 true
  { s with mem := putLine (putLine s.mem tl tags) (atticDataLine s.attic d x w) l.data }

/-- Evict a line from a die's L2 (R81). -/
def State.l2Evict (s : State) (d k : Nat) : State :=
  match mapFind (s.die d).l2 k with
  | none => s
  | some l0 =>
    let s := (s.collectL1 d l0.line k .take none).badCorrect (.l2 d) l0.line
    match mapFind (s.die d).l2 k with
    | none => s
    | some l =>
      let m := s.badMask (.l2 d) l.line
      let s := ((s.l2Del d k).badLog (.l2 d) l.line m l.dirty).badClear (.l2 d) l.line
      if homeOf l.line = d then
        let dirty := if l.st = Moesi.m then l.dirty &&& ~~~m else 0
        let s := if dirty = 0 then s else s.cellarReq l.line l.cls true
        s.memWrite l.line l.data (nibSectors dirty)
      else if l.noAttic ∨ m ≠ 0 then
        if l.st = Moesi.m ∨ l.st = Moesi.o then s.sendWb d l.line l.cls l.data (l.dirty &&& ~~~m) else s
      else s.atticFill d l

/-- Whether a request's result is an uncached value that its access has still to take: it needs no way (R97, R270). -/
def OpenReq.uncached (r : OpenReq) : Bool :=
  match r.code with
  | .atomic | .readNC | .writeNC => true
  | _ => r.drop

/-- Whether a line has a cacheable request of this die open: its way, if it has one, is kept for the answer. -/
def Die.pinned (k : Die) (x : Nat) : Bool := k.reqs.any fun r => r.line == x && !r.uncached

/-- Whether a request for a line may be opened: with it, the lines of its set that have requests open are no more than the
set has ways, so that every answer finds one (R17). -/
def Die.wayLeft (k : Die) (x : Nat) : Bool :=
  let lines := ((k.reqs.filter fun r => !r.uncached && r.line != x && l2Slot r.line == l2Slot x).map fun r => r.line).eraseDups
  decide (lines.length < 16)

/-- The way for a new line of an L2 set: the lowest free one, else the victim among the unmarked lines, else among all, lines
with an open request apart. -/
def Die.l2Way (k : Die) (x : Nat) : Option Nat :=
  let set := l2Slot x
  match (List.range 16).find? fun w => (mapFind k.l2 (set * 16 + w)).isNone with
  | some w => some w
  | none =>
    let free (w : Nat) : Bool := match mapFind k.l2 (set * 16 + w) with
      | some l => !k.pinned l.line
      | none => true
    let plain (w : Nat) : Bool := free w && (match mapFind k.l2 (set * 16 + w) with
      | some l => !l.keep
      | none => true)
    (plruPick (storeGet 0 k.tree set) plain).or (plruPick (storeGet 0 k.tree set) free)

/-- A ninth keep line of a set clears the mark of the least recently used one (R263). -/
def State.keepLimit (s : State) (d x w : Nat) : State :=
  let k := s.die d
  let set := l2Slot x
  let kept := (List.range 16).filter fun v => v != w && (match mapFind k.l2 (set * 16 + v) with
    | some l => l.keep
    | none => false)
  if kept.length < 8 then s
  else
    match plruPick (storeGet 0 k.tree set) fun v => kept.contains v with
    | some v =>
      match mapFind k.l2 (set * 16 + v) with
      | some l => s.l2Put d (set * 16 + v) { l with keep := false }
      | none => s
    | none => s

/-- Install a line in a die's L2, or give new data and state to the copy it has. The victim of its way is evicted. -/
def State.l2Install (s : State) (d x : Nat) (st : Moesi) (dirty : Byte) (data : Line) (h : Hints) (cls : Nat) : State :=
  match (s.die d).l2Find x with
  | some (k, l) => s.l2Put d k { l with st := st, dirty := dirty, data := data }
  | none =>
    let s := s.badClear (.l2 d) x
    let w := ((s.die d).l2Way x).getD 0
    let key := l2Slot x * 16 + w
    let s := if (mapFind (s.die d).l2 key).isSome then s.l2Evict d key else s
    let s := s.l2Put d key
      { line := x, st := st, dirty := dirty, data := data, sharers := 0, hosts := 0, owner := none
        noAttic := h.noAttic, keep := h.keep, cold := h.stream, cls := cls }
    let s := if h.keep then s.keepLimit d x w else s
    s.l2Touch d x w h.stream.isNone

/-- What looking a line up in a die's L2 comes to: it is there; it is not; it is in the Attic and every way of its set is kept
for an answer, so that it cannot move now. -/
inductive L2Look where
  | hit (key : Nat) (l : L2Line)
  | miss
  | stall
  deriving DecidableEq, Repr

/-- A die's L2 copy of a line, for an access; a line of another home found in the Attic moves into L2 first (R84). -/
def State.l2Get (s : State) (d x : Nat) (h : Hints) (cls : Nat) : State × L2Look :=
  match (s.die d).l2Find x with
  | some (k, l) => (s.l2Use d k h, .hit k l)
  | none =>
    if homeOf x = d then (s, .miss)
    else
      let s := s.tagRead d (atticTagLine s.attic d x) 1
      match s.atticFind d x with
      | none => (s, .miss)
      | some (w, t) =>
        if ((s.die d).l2Way x).isNone then (s, .stall)
        else
          let dl := atticDataLine s.attic d x w
          let s := (s.cellarReq dl 5 false).tagTouch (atticTagLine s.attic d x) true
          let s := ((s.atticPut d x w 0).l2Install d x t.st t.dirty (memLine s.mem dl) h cls).badMove (.attic d) (.l2 d) x
          match (s.die d).l2Find x with
          | some (k, l) => (s, .hit k l)
          | none => (s, .miss)

/-- Whether another core of the die is marked or owns the line. -/
def L2Line.alone (l : L2Line) : Bool := decide (l.sharers = 0) && decide (l.hosts = 0) && l.owner.isNone

/-- An owner among the die's L1s forwards and keeps a copy: M to O, E to S (R70). -/
def State.ownerShares (s : State) (l2 : L2Line) : State × L2Line :=
  match l2.owner with
  | some o =>
    match (s.core o).l1Find l2.line with
    | some (k, l) =>
      if l.st = Moesi.m ∨ l.st = Moesi.o then (s.l1Put o k { l with st := .o }, l2)
      else (s.l1Put o k { l with st := .s }, { l2 with owner := none })
    | none => (s, { l2 with owner := none })
  | none => (s, l2)

/-- The instruction cache of core `c` takes a copy of the L2 line at `k2` of its die, which tracks it as it tracks an L1's (R33,
R71). No line leaves it before it is invalidated (log 93). -/
def State.icFill (s : State) (c x k2 : Nat) : State :=
  if (s.core c).icache.contains x then s
  else
    match mapFind (s.die (coreDie c)).l2 k2 with
    | none => s
    | some l2 =>
      let (s, l2) := s.ownerShares l2
      let s := s.l2Put (coreDie c) k2 (l2.share c)
      s.setCore c { s.core c with icache := (s.core c).icache ++ [x] }

/-- Give core `c` a readable copy with the sectors valid, from the L2 line at `k2` of its die (R69, R70). -/
def State.l1Fill (s : State) (c x k2 : Nat) (sectors : Byte) (h : Hints) : State :=
  let d := coreDie c
  match mapFind (s.die d).l2 k2 with
  | none => s
  | some l2 =>
    match (s.core c).l1Find x with
    | some (k1, l1) =>
      let miss := sectors &&& ~~~l1.valid
      let new := lineMerge l1.data (s.l2Data l2) (nibSectors miss &&& ~~~l1.mask)
      let s := s.badCopy (.l2 d) (.l1 c) x miss
      (s.l1Use c k1 { l1 with data := new, valid := l1.valid ||| sectors } h).1
    | none =>
      let data := s.l2Data l2
      let (s, l2) := s.ownerShares l2
      let excl := l2.alone && (decide (l2.st = Moesi.m) || decide (l2.st = Moesi.e))
      let (s, w) := s.l1Alloc c x
      -- eviction may have merged another line only; this line's L2 entry is as read above
      let l2 := { l2.share c with owner := if excl then some c else l2.owner }
      let s := s.l2Put d k2 l2
      let s := s.l1Put c (l1Set x * 16 + w)
        { line := x, st := if excl then .e else .s, valid := sectors, dirty := 0, mask := 0, data := data, cold := h.stream }
      (s.l1Touch c x w h.stream.isNone).badCopy (.l2 d) (.l1 c) x sectors

/-- Give core `c` the line in M, from an L2 line in M or E (R70, R80). -/
def State.l1Own (s : State) (c x k2 : Nat) (h : Hints) : State :=
  let d := coreDie c
  let s := s.collectL1 d x k2 .take (some c)
  let (s, k1) := match (s.core c).l1Find x with
    | some (k1, l1) => ((s.l1Use c k1 { l1 with st := .m } h).1, k1)
    | none =>
      let (s, w) := s.l1Alloc c x
      let k1 := l1Set x * 16 + w
      ((s.l1Put c k1 { line := x, st := .m, valid := 0, dirty := 0, mask := 0, data := 0, cold := h.stream }).l1Touch c x w
        h.stream.isNone, k1)
  match mapFind (s.die d).l2 k2 with
  | some l2 =>
    s.l2Put d k2 { l2.share c with st := .m, owner := some c }
  | none => s.l1Del c k1

/-- Write bytes or nibbles into an L1 line held M (R69). -/
def L1Line.write (l : L1Line) (data : Line) (mask : NibMask) : L1Line :=
  { l with data := lineMerge l.data data mask, mask := l.mask ||| mask, dirty := l.dirty ||| sectorsOf mask }

end Sys2Proof.Machine
end

