-- ==== Sys2Proof/Machine/Routes.lean ====
section
/-! DEFINITION. The fabric (spec 01 R14 to R20): links, route tables, and the header slot of a coherence message (04 R88). -/

namespace Sys2Proof.Machine

/-- Whether a die is offline (R99). -/
def State.isOffline (s : State) (d : Nat) : Bool := s.offline.contains d

/-- The dies that run. -/
def State.live (s : State) : List Nat := (List.range 9).filter fun d => !s.isOffline d && !s.mdl.fenced.contains d

/-! Links (R14) and route tables (R19, R20) -/

/-- The fifteen links, lower die first. -/
def fabricLinks : List (Nat × Nat) :=
  [(0, 1), (1, 2), (2, 3), (3, 4), (5, 6), (6, 7), (7, 8), (0, 5), (1, 5), (1, 6), (2, 6), (2, 7), (3, 7), (3, 8), (4, 8)]

/-- The link of two dies, lower die first. -/
def linkOf (a b : Nat) : Nat × Nat := (min a b, max a b)

/-- Whether two dies have a link that is up. -/
def State.linked (s : State) (a b : Nat) : Bool :=
  fabricLinks.contains (linkOf a b) && !s.mdl.lost.contains (linkOf a b) && !s.mdl.down.contains (linkOf a b)

/-- One more hop: the distances of all dies to one, from those within fewer hops; 9 stands for no path. -/
def hopMore (joined : Nat → Nat → Bool) (dist : List Nat) : List Nat :=
  (List.range 9).map fun a =>
    (List.range 9).foldl (fun m n => if joined a n then min m (dist.getD n 9 + 1) else m) (dist.getD a 9)

/-- The hop counts to die `b` over the links that are up. -/
def hopCounts (joined : Nat → Nat → Bool) (b : Nat) : List Nat :=
  (List.range 8).foldl (fun d _ => hopMore joined d) ((List.range 9).map fun a => if a = b then 0 else 9)

/-- A die's route table over the links that are up (R19): to each die the lowest neighbour on a shortest path; its own number
where there is none. -/
def routeRow (joined : Nat → Nat → Bool) (a : Nat) : List Nat :=
  (List.range 9).map fun b =>
    let d := hopCounts joined b
    ((List.range 9).find? fun n => joined a n && decide (d.getD n 9 + 1 = d.getD a 9) && decide (d.getD a 9 < 9)).getD a

/-- The management die computes the tables over the remaining links and installs them on every live die (R20). -/
def State.installRoutes (s : State) : State :=
  let up (d : Nat) : Bool := s.live.contains d
  let rows := s.mdl.routes.zipIdx.map fun e => if up e.2 then routeRow s.linked e.2 else e.1
  { s with mdl := { s.mdl with routes := rows } }

/-- The neighbour to which a die forwards a message (R19). -/
def State.nextHop (s : State) (a b : Nat) : Nat := (s.mdl.routes.getD a []).getD b a

/-- Whether a message reaches die `b` from die `a` in `n` hops or fewer, over links that are up. -/
def State.reaches (s : State) : Nat → Nat → Nat → Bool
  | 0, a, b => a == b
  | n + 1, a, b => a == b || (s.linked a (s.nextHop a b) && s.reaches n (s.nextHop a b) b)

/-- Whether a message can go its way now; one whose next hop is a lost link is held (R20). -/
def State.routed (s : State) (a b : Nat) : Bool := s.reaches 8 a b

/-- Take the `k`-th control message when its route is up (R20) and it fits. -/
def State.takeCtl (s : State) (k : Nat) (f : CtlMsg → State → Option State) : State :=
  match s.ctl[k]? with
  | some m => if s.routed m.src m.dst then (f m { s with ctl := listRemove s.ctl k }).getD s else s
  | none => s

/-- The die that answers a request to an offline home (R99): the first live die on its path, the neighbour that it has reached,
or the requester's own die. DESIGN CHOICE (log 19): a message in flight is taken to have passed one hop. -/
def State.refuser (s : State) (a b : Nat) : Nat :=
  let n := s.nextHop a b
  if n = b ∨ s.isOffline n then a else n

/-! The header slot (R88) -/

/-- The requests of R88, WriteBack apart; the snoops. -/
def CohCode.isRequest : CohCode → Bool
  | .readShared | .readOwn | .upgrade | .atomic | .readNC | .writeNC => true
  | _ => false
def CohCode.isSnoop : CohCode → Bool
  | .snpShared | .snpInv | .backInv => true
  | _ => false

/-- MSG. -/
def CohCode.msg : CohCode → Nat
  | .readShared => 0x01
  | .readOwn => 0x02
  | .upgrade => 0x03
  | .writeBack => 0x04
  | .atomic => 0x05
  | .readNC => 0x06
  | .writeNC => 0x07
  | .snpShared => 0x08
  | .snpInv => 0x09
  | .backInv => 0x0A
  | .data => 0x10
  | .dataFwd => 0x11
  | .ack => 0x12
  | .homeOffline => 0x13

/-- Whether a message code is reserved: neither a coherence message nor one of the control class (R88, R333, R405). -/
def reservedMsg (n : Nat) : Bool :=
  decide (n = 0) || (decide (0x0B ≤ n) && decide (n < 0x10)) || (decide (0x14 ≤ n) && decide (n < 0x20)) ||
    (decide (0x29 ≤ n) && decide (n < 0x30)) || decide (0x33 ≤ n)

/-- Bits [127:0] of the header slot. The model's CODE 1 of DROP's ReadOwn is no field of the message (log 14). -/
def CohMsg.header (m : CohMsg) : Nat :=
  m.code.msg % 64 * 2 ^ 122 + m.src % 16 * 2 ^ 118 + m.dst % 16 * 2 ^ 114 + m.req % 16 * 2 ^ 110 +
    (match m.code with | .readOwn => 0 | _ => m.cd % 16) * 2 ^ 106 + m.cls % 16 * 2 ^ 102 + m.smask.toNat * 2 ^ 94 +
    m.txn % 2 ^ 16 * 2 ^ 78 + m.line % 2 ^ 41

end Sys2Proof.Machine
end

