-- ==== Sys2Proof/Machine/Coherence.lean ====
section
/-! DEFINITION. The protocol between dies (spec 04 R86 to R99): requests, transactions at the home, snoops,
responses. -/

namespace Sys2Proof.Machine

/-- Whether a code is a request that the requester waits for without caching the line: Atomic, ReadNC, WriteNC, and
DROP's ReadOwn, CODE 1 in the model (R97, R270; log 14). -/
def CohMsg.uncached (m : CohMsg) : Bool :=
  match m.code with
  | .atomic | .readNC | .writeNC => true
  | .readOwn => decide (m.cd = 1)
  | _ => false

/-- The home agent looks a line up in its directory (R86); the line of the directory comes through the Cellar. -/
def State.dirRead (s : State) (x : Nat) : State := s.tagRead (homeOf x) (dirLine s.attic x) 2

/-- The home's directory entry set to a state, replaced in place, allocated, or removed (R85, R86). -/
def State.dirSet (s : State) (x : Nat) (e : Option (DirSt × Nat × BitVec 9)) : State :=
  let tl := dirLine s.attic x
  match s.dirFind x, e with
  | none, none => s
  | some (w, _), none => (s.tagTouch tl true).dirPut x w 0
  | some (w, t), some (st, o, p) =>
    (s.tagTouch tl true).dirPut x w ({ t with st := st, owner := o, pres := p } : DirEntry).word
  | none, some (st, o, p) =>
    let l := memLine s.mem tl
    let w := pickWay l fun e => bitsOf e 47 44
    let t : DirEntry := { st := st, owner := o, pres := p, age := 0, line := x % 2 ^ 33 }
    { s.tagTouch tl true with mem := putLine s.mem tl (ageSet (putEntry l w t.word) w 44) }

/-- The directory state of a line as the home sees it: what offline dies hold counts as cleared (R98). -/
def State.dirView (s : State) (x : Nat) : Option (DirSt × Nat × BitVec 9) :=
  match s.dirFind x with
  | none => none
  | some (_, e) =>
    let p := s.offline.foldl (fun p d => p &&& ~~~BitVec.ofNat 9 (2 ^ d)) e.pres
    if p = 0 then none
    else if decide (e.st ≠ .s) && s.isOffline e.owner then some (.s, 0, p)
    else some (e.st, e.owner, p)

/-- The dies of a presence vector. -/
def presDies (p : BitVec 9) : List Nat := (List.range 9).filter fun d => p.getLsbD d
def presBit (d : Nat) : BitVec 9 := BitVec.ofNat 9 (2 ^ d)

/-- A line that the home directory must evict to take a new entry for `x`: none while its set has room (R87). -/
def State.dirVictim (s : State) (x : Nat) : Option (Nat × DirEntry) :=
  let l := memLine s.mem (dirLine s.attic x)
  let w := pickWay l fun e => bitsOf e 47 44
  (dirEntryOf (entryOf l w)).map fun e => (homeOf x * 2 ^ 33 + e.line, e)

/-- Dirty sectors of a home's L2 line go to memory, in the class recorded with the line (R107). -/
def State.lineToMem (s : State) (l : L2Line) : State :=
  if l.dirty = 0 then s else (s.cellarReq l.line l.cls true).memWrite l.line l.data (nibSectors l.dirty)

/-- The home's own copy put in S, its dirty data in memory (R92): whether there was one. -/
def State.localShare (s : State) (h x : Nat) : State × Bool :=
  match (s.die h).l2Find x with
  | none => (s, false)
  | some (k, _) =>
    let s := (s.collectL1 h x k .share none).l2Heal h k
    match mapFind (s.die h).l2 k with
    | none => (s, true)
    | some l => ((s.lineToMem l).l2Put h k { l with st := .s, dirty := 0 }, true)

/-- The home's own copy invalidated: its data and dirty sectors, or memory's (R92). -/
def State.localTake (s : State) (h x : Nat) : State × Line × Byte :=
  match (s.die h).l2Find x with
  | none => (s, memLine s.mem x, 0)
  | some (k, _) =>
    let s := (s.collectL1 h x k .take none).l2Heal h k
    match mapFind (s.die h).l2 k with
    | none => (s, memLine s.mem x, 0)
    | some l => (s.l2Del h k, l.data, l.dirty)

/-- A die's copy of a line dropped; giving up an Attic line writes its tag (R84). -/
def State.dropHeld (s : State) (d x : Nat) : State :=
  let s := if homeOf x ≠ d ∧ ((s.die d).l2Find x).isNone ∧ (s.atticFind d x).isSome then
    s.tagTouch (atticTagLine s.attic d x) true else s
  s.dropDie d x

/-! Accesses made in one step, by units that are no cores -/

/-- A line's memory is read at its home, through the Cellar, for a request that arrived at tick `since` (R86, R105); an error of one
bit is corrected (R100). -/
def State.memReadAt (s : State) (since x c : Nat) : State :=
  ((s.cellarReqAt since x c false).badCorrect (.cellar (homeOf x)) x).badCorrect .dram x

/-- A die's copy of a line is read where it lies: in L2 with the L1 that owns it, or in the Attic (R84, R100). -/
def State.copyRead (s : State) (d x : Nat) : State :=
  match (s.die d).l2Find x with
  | some (_, l) =>
    let s := s.badCorrect (.l2 d) x
    match l.owner with
    | some c => s.badCorrect (.l1 c) x
    | none => s
  | none =>
    if homeOf x = d then s
    else
      let s := s.tagRead d (atticTagLine s.attic d x) 1
      match s.atticFind d x with
      | some (w, _) => (s.cellarReq (atticDataLine s.attic d x w) 5 false).badCorrect (.attic d) x
      | none => s

/-- The owner of a line, as the home sees it. -/
def State.dirOwner (s : State) (x : Nat) : Option Nat :=
  match s.dirView x with
  | some (st, o, _) => if st = .s then none else some o
  | none => none

/-- The home agent reads a line that no other die answers for: from its own L2, or from memory. -/
def State.ownRead (s : State) (x c : Nat) : State :=
  if ((s.die (homeOf x)).l2Find x).isSome then s.copyRead (homeOf x) x else s.memReadAt s.tick x c

/-- Its directory read, the home agent reads the copy that answers: another die's, its own L2's, or memory (R92). -/
def State.ownerRead (s : State) (x c : Nat) : State :=
  match s.dirOwner x with
  | some o =>
    let s := s.copyRead o x
    if (s.ownerCopy o x).isSome then s else s.ownRead x c
  | none => s.ownRead x c

/-- The home agent reads a line (R86). -/
def State.homeRead (s : State) (x c : Nat) : State := (s.dirRead x).ownerRead x c

/-- What a write at the home does to the copies elsewhere, as accesses: the entry of the directory and the Attic tags of the dies
that hold the line are rewritten (R84, R86). -/
def State.copiesTouch (s : State) (x : Nat) : State :=
  let s := if (s.dirFind x).isSome then s.tagTouch (dirLine s.attic x) true else s
  (List.range 9).foldl (fun s d =>
    if d ≠ homeOf x ∧ ((s.die d).l2Find x).isNone ∧ (s.atticFind d x).isSome then
      (s.tagRead d (atticTagLine s.attic d x) 1).tagTouch (atticTagLine s.attic d x) true
    else s) s

/-- A unit of die `d` reads a line that its die holds: an Attic line moves into L2 first (R84). -/
def State.dieRead (s : State) (d x c : Nat) : State :=
  match s.l2Get d x .plain c with
  | (s, .hit _ _) => s.copyRead d x
  | (s, _) => s.copyRead d x

/-- One access of class `c` to a line, made in one step by a unit that is no core (R42, R96, R105): a read by a unit of die `die` of
a line that the die holds is served there; any other one is made at the line's home, where a write also reaches every copy. -/
def State.homeTouch (s : State) (die : Option Nat) (pa c : Nat) (write : Bool) : State :=
  if paHomed pa then
    let x := pa / 128
    match die.filter fun d => !write && s.dieHolds d x with
    | some d => s.dieRead d x c
    | none =>
      let s := s.homeRead x c
      if write then (s.copiesTouch x).cellarReq x c true else s
  else s

/-- A write by an agent that is no core, as one step at the line's home (R42, R146): the line's value with the
bytes replaced goes to memory, every copy is dropped and the directory state becomes NONE. The requests that this takes are
`homeTouch`'s. -/
def State.homeWrite (s : State) (x : Nat) (new : Line) (mask : NibMask) : State :=
  let s := if s.bad.isEmpty then s else (List.range 9).foldl (fun s d => s.healDie d x) s
  let v := lineMerge (s.viewLine x) new mask
  let s := (List.range 9).foldl (fun s d => s.dropDie d x) s
  let s := match s.dirFind x with
    | some (w, _) => s.dirPut x w 0
    | none => s
  { s with mem := putLine s.mem x v
           bad := s.bad.filter fun b => !(b.line == x && (sectorsFull mask).getLsbD (b.sector % 8) && decide (b.at_ = .dram)) }

/-- A write of bytes that lie in one line, by such an agent. -/
def State.sysWrite (s : State) (pa : Nat) (bs : List Byte) : State :=
  if paHomed pa then
    s.homeWrite (pa / 128) (linePlace (pa % 128) (leNat bs)) (nibBytes (pa % 128) bs.length)
  else { s with mem := putBytes s.mem pa bs }

/-- Bytes written by an agent of the part at a physical address, a line at a time. -/
def State.writeBytes : Nat → State → Nat → List Byte → State
  | 0, s, _, _ => s
  | fuel + 1, s, pa, bs =>
    if bs = [] then s
    else
      let m := min bs.length (128 - pa % 128)
      State.writeBytes fuel (s.sysWrite pa (bs.take m)) (pa + m) (bs.drop m)

/-! Transactions of a home -/

/-- Uncorrectable sectors of a line's memory go with its data to die `d` (log 38). -/
def State.badFill (s : State) (x d : Nat) : State :=
  (s.badCopy .dram (.fill d) x 0xFF).badCopy (.cellar (homeOf x)) (.fill d) x 0xFF

/-- Replace, add or remove a transaction of a home by its line. -/
def State.txnPut (s : State) (h : Nat) (t : HomeTxn) : State :=
  let k := s.die h
  s.setDie h { k with txns := t :: k.txns.filter fun u => u.msg.line != t.msg.line }
def State.txnDel (s : State) (h x : Nat) : State :=
  let k := s.die h
  s.setDie h { k with txns := k.txns.filter fun u => u.msg.line != x }

/-- Whether a transaction holds a line: its own, or the victim that it evicts (R87, R90). -/
def HomeTxn.holds (t : HomeTxn) (x : Nat) : Bool :=
  t.msg.line == x || (match t.phase with | .evict v => v == x | _ => false)

/-- Whether a line is busy at its home (R90). -/
def State.homeBusy (s : State) (h x : Nat) : Bool := (s.die h).txns.any fun t => t.holds x

/-- Install what a die's cacheable request has brought (R91). On GRANT the copy that the die holds becomes M and takes over the
line's dirty data (R92): an O copy has its own dirty sectors; an S copy, whose message names no sector (R88), has all of them
dirty (log 85). The home's own copy is as memory. -/
def State.reqInstall (s : State) (d : Nat) (r : OpenReq) : State :=
  match r.got with
  | some (data, dirty) =>
    (s.l2Install d r.line r.grant (if r.code = .readShared then 0 else dirty) data ⟨r.stream, r.keep, r.noAttic⟩ r.cls).badMove
      (.fill d) (.l2 d) r.line
  | none =>
    match (s.die d).l2Find r.line with
    | some (k, l) => s.l2Put d k { l with st := .m, dirty := if l.st = .o ∨ homeOf r.line = d then l.dirty else 0xFF }
    | none => s

/-- A die's open request by its number. -/
def Die.reqAt (k : Die) (t : Nat) : Option OpenReq := k.reqs.find? fun r => r.txn == t
def State.reqPut (s : State) (d : Nat) (r : OpenReq) : State :=
  let k := s.die d
  s.setDie d { k with reqs := k.reqs.map fun u => if u.txn = r.txn then r else u }
def State.reqDel (s : State) (d t : Nat) : State :=
  let k := s.die d
  s.setDie d { k with reqs := k.reqs.filter fun u => u.txn != t }

/-- A latch update on VALUE and WAITERS (R120): a change of VALUE clears WAITERS. -/
def latchNew (old value : Nat) : Nat := if value = old % 2 ^ 32 then old else value

/-- The operation of a VM or scalar atomic on the element (R268, R269): `op` is OP less 0x10, `n` the element's bits,
`c` the compare value. 12 and 13 are the model's numbers for a latch's set and add (R131). -/
def atomicOp (op n old b c : Nat) : Nat :=
  match op with
  | 0 => (old + b) % 2 ^ n
  | 1 => (fadd fmtF32 ⟨.rne, false, false, false, 0⟩ old b).1
  | 2 => if signedOf n b < signedOf n old then b else old
  | 3 => if signedOf n old < signedOf n b then b else old
  | 4 => old &&& b
  | 5 => old ||| b
  | 6 => old ^^^ b
  | 7 => b
  | 8 => if old = c then b else old
  | 9 => if b ≤ old then 0 else old + 1
  | 10 => if old = 0 ∨ b < old then b else old - 1
  | 12 => latchNew old (b % 2 ^ 32)
  | 13 => latchNew old ((old + b) % 2 ^ 32)
  | _ =>
    let one (o b : Nat) : Nat := (fadd fmtBf16 ⟨.rne, false, false, false, 0⟩ o b).1
    if n = 16 then one old b
    else one (old % 65536) (b % 65536) + 65536 * one (old / 65536) (b / 65536)

/-- The data slot of an Atomic message (R97). -/
def atomicSlot (op size off operand compare : Nat) : Line :=
  BitVec.ofNat 1024 (0x10 + op + size * 2 ^ 8 + off * 2 ^ 64 + operand * 2 ^ 128 + compare * 2 ^ 256)

/-- An atomic on bytes of a line: the new line and the old value. -/
def atomicLine (d : Line) (op bytes off operand compare : Nat) : Line × Nat :=
  let old := d.toNat / 2 ^ (8 * off) % 2 ^ (8 * bytes)
  let new := atomicOp op (8 * bytes) old (operand % 2 ^ (8 * bytes)) (compare % 2 ^ (8 * bytes))
  (lineMerge d (linePlace off new) (nibBytes off bytes), old)

/-- The home brings a line to module ownership in its L2 (R97): the data is what the owner has forwarded, with the sectors that were
dirty there; else its own copy's, or memory's. -/
def State.ownAtHome (s : State) (h x cls : Nat) (came : Option (Line × Byte)) : State :=
  match (s.die h).l2Find x with
  | some (k, _) =>
    let s := ((s.collectL1 h x k .take none).l2Heal h k).l2Use h k .plain
    match mapFind (s.die h).l2 k, came with
    | some l, some (d, dirty) => s.l2Put h k { l with st := .m, data := d, dirty := dirty }
    | some l, none => s.l2Put h k { l with st := .m }
    | none, _ => s
  | none =>
    match came with
    | some (d, dirty) => s.l2Install h x .m dirty d .plain cls
    | none => ((s.badFill x h).l2Install h x .m 0 (memLine s.mem x) .plain cls).badMove (.fill h) (.l2 h) x

/-- An atomic of class `cls` in the home's L2 slice, where the line has module ownership (R97, R107): the state and the old
value. -/
def State.atomicAtHome (s : State) (h x : Nat) (op bytes off operand compare cls : Nat) (came : Option (Line × Byte)) : State × Nat :=
  let s := s.ownAtHome h x cls came
  match (s.die h).l2Find x with
  | some (k, l) =>
    let (d, old) := atomicLine l.data op bytes off operand compare
    (s.l2Put h k { l with data := d, dirty := l.dirty ||| sectorsOf (nibBytes off bytes) }, old)
  | none => (s, 0)

/-- Whether the home's L2 has the line of an atomic, or a way for it; else the atomic waits for one (R97). -/
def State.atomicRoom (s : State) (h : Nat) (m : CohMsg) : Bool :=
  !(m.code == .atomic) || ((s.die h).l2Find m.line).isSome || ((s.die h).l2Way m.line).isSome

/-- An Atomic message performed at the home (R97), on the data that its owner has forwarded, if any: the data of its reply. -/
def State.atomicMsg (s : State) (h : Nat) (m : CohMsg) (came : Option (Line × Byte)) : State × Line :=
  let v := m.data.toNat
  let size := v / 2 ^ 8 % 2 ^ 8
  let bytes := 2 ^ size
  let (s, old) := s.atomicAtHome h m.line (v % 256 - 0x10) bytes (v / 2 ^ 64 % 128) (v / 2 ^ 128 % 2 ^ 128)
    (v / 2 ^ 256 % 2 ^ 128) m.cls came
  (s, BitVec.ofNat 1024 old)

/-- The value of a line at its home when no other die answers for it. -/
def State.homeValue (s : State) (h x : Nat) : Line := (s.ownerCopy h x).getD (memLine s.mem x)

/-- A masked write at the home: every copy there is dropped, memory takes the bytes (R97). -/
def State.writeNcAtHome (s : State) (h x : Nat) (data : Line) (mask : NibMask) : State :=
  let (s, v, dirty) := s.localTake h x
  s.memWrite x (lineMerge v data mask) (nibSectors dirty ||| mask)

/-- What Data, DataFwd or a final Ack does to a request (R88, R89, R91). -/
def OpenReq.answer (r : OpenReq) (code : CohCode) (cd : Nat) (data : Line) (smask : Byte) : OpenReq :=
  let grant := if cd = 0 then Moesi.s else if cd = 1 then Moesi.e else Moesi.m
  match code with
  | .data => { r with got := some (data, smask), grant := grant, final := true }
  | .dataFwd => { r with got := some (data, smask), grant := grant }
  | _ => { r with granted := decide (cd = 1), final := true }

/-- The home's answer to a requester: a message, or, to its own die, the request completed in place. -/
def State.reply (s : State) (h : Nat) (m : CohMsg) (code : CohCode) (cd : Nat) (data : Line) (smask : Byte) : State :=
  if m.src = h then
    match (s.die h).reqAt m.txn with
    | none => s
    | some r =>
      s.reqPut h (r.answer code cd data smask)
  else s.send { msgOf code h m.src m.req cd m.cls m.txn m.line with data := data, smask := smask }

/-- The directory state after a requester takes the line alone; the home itself is never entered (R92). -/
def aloneEntry (h r : Nat) : Option (DirSt × Nat × BitVec 9) :=
  if r = h then none else some (.em, r, presBit r)

/-- The data that came back to a home for a request that is over goes to memory, in the transaction's class (R99, R107). -/
def State.keepData (s : State) (x : Nat) (t : HomeTxn) : State :=
  match t.data with
  | some (d, k) => if k = 0 then s else (s.cellarReq x t.msg.cls true).memWrite x d (nibSectors k)
  | none => s

/-- A request served with ownership of the line: by the data that its owner has forwarded, or by memory or the home's own copy
(R92, R94). -/
def State.serveOwn (s : State) (h : Nat) (t : HomeTxn) : State :=
  let m := t.msg
  let x := m.line
  let r := m.src
  if t.forwarded then ((if r = h then s else (s.localTake h x).1).dirSet x (aloneEntry h r)).reply h m .ack 0 0 0
  else
    let s := if r = h ∨ ((s.die h).l2Find x).isNone then s.badFill x r else s
    let (s, data, dirty) := if r = h then (s, memLine s.mem x, (0 : Byte)) else s.localTake h x
    (s.dirSet x (aloneEntry h r)).reply h m .data 2 data dirty

/-- Serve a request that no snoop delays, or whose snoop replies are all in (R92, R94, R97): the answer and the directory
state. -/
def State.homeFinish (s : State) (h : Nat) (t : HomeTxn) : State :=
  let m := t.msg
  let x := m.line
  let r := m.src
  let add (p : BitVec 9) : BitVec 9 := if r = h then p else p ||| presBit r
  let dir := s.dirView x
  let held := (match dir with
    | some (_, _, p) => p.getLsbD r
    | none => false) && !t.wbSeen.contains x
  let s := match m.code with
    | .readShared =>
      if t.forwarded then
        let e := match dir with
          | some (.o, o, p) => (DirSt.o, o, add p)
          | some (.em, o, _) => if t.fwdClean then (DirSt.s, 0, add (presBit o)) else (DirSt.o, o, add (presBit o))
          | some (.s, _, p) => (DirSt.s, 0, add p)
          | none => (DirSt.s, 0, add 0)
        (s.dirSet x (if e.2.2 = 0 then none else some e)).reply h m .ack 0 0 0
      else
        match dir with
        | some (.s, _, p) => ((s.badFill x r).dirSet x (some (.s, 0, add p))).reply h m .data 0 (memLine s.mem x) 0
        | some (.o, o, p) =>
          ((s.badFill x r).dirSet x (some (.s, 0, add (p &&& ~~~presBit o)))).reply h m .data 0 (memLine s.mem x) 0
        | _ =>
          let (s, had) := if r = h then (s, false) else s.localShare h x
          let s := if had then s else s.badFill x r
          let e := if had then some (DirSt.s, 0, presBit r) else aloneEntry h r
          (s.dirSet x e).reply h m .data (if had then 0 else 1) (memLine s.mem x) 0
    | .readOwn =>
      if m.cd = 1 then ((s.dirSet x none).dropDie h x).reply h m .ack 0 0 0 else s.serveOwn h t
    | .upgrade =>
      if held && !t.forwarded then ((s.localTake h x).1.dirSet x (aloneEntry h r)).reply h m .ack 1 0 0
      else s.serveOwn h t
    | .atomic =>
      let (s, old) := (s.dirSet x none).atomicMsg h m t.data
      s.reply h m .data 0 old 0
    | .readNC =>
      let s := match dir with
        | some (.em, o, _) =>
          if t.forwarded then s.dirSet x (some (if t.fwdClean then (.s, 0, presBit o) else (.o, o, presBit o)))
          else s.dirSet x none
        | some (.o, o, p) => if t.forwarded then s else s.dirSet x (some (.s, 0, p &&& ~~~presBit o))
        | _ => s
      s.reply h m .data 0 ((t.data.map Prod.fst).getD (s.homeValue h x)) 0
    | .writeNC =>
      -- one write of memory: the bytes over the owner's data
      let s := s.cellarReqAt t.since x m.cls true
      let s := match t.data with
        | some (d, k) => s.memWrite x d (nibSectors k)
        | none => s
      ((s.dirSet x none).writeNcAtHome h x m.data m.mask).reply h m .ack 0 0 0
    | _ => s
  s.txnPut h { t with phase := .done, waits := [] }

/-- The snoops that a request needs (R92, R97): code, die, CODE. DESIGN CHOICE (log 85): the table of R92 has no row for a
request of the die that the directory itself names as EM owner, which has dropped its clean copy; no snoop is sent, and the
line is served from memory. -/
def snoopsOf (m : CohMsg) (h : Nat) (dir : Option (DirSt × Nat × BitVec 9)) : List (CohCode × Nat × Nat) :=
  let r := m.src
  match dir with
  | none => []
  | some (st, o, p) =>
    let others (c : Nat) : List (CohCode × Nat × Nat) :=
      (presDies p).filterMap fun d => if d = r then none else
        some (.snpInv, d, if st = DirSt.s then c else if d = o then 0 else 1)
    match m.code with
    | .readShared => if st = DirSt.s ∨ o = r then [] else [(.snpShared, o, 0)]
    | .readNC => if st = DirSt.s then [] else [(.snpShared, o, 0)]
    | .readOwn =>
      if m.cd = 1 then (presDies p).filterMap fun d => if d = r then none else some (.snpInv, d, 1)
      else others 0
    | .upgrade => if p.getLsbD r && r != h then (presDies p).filterMap fun d => if d = r then none else some (.snpInv, d, 1)
                  else others 0
    | .atomic | .writeNC => (presDies p).map fun d => (.snpInv, d, 0)
    | _ => []

/-- Whether a request will need a new directory entry (R87). -/
def needsEntry (m : CohMsg) (h : Nat) : Bool :=
  m.src != h && (match m.code with | .readShared | .upgrade => true | .readOwn => decide (m.cd = 0) | _ => false)

/-- Send the snoops of a request and wait for their replies; with none, serve it (R92). The data of an atomic or
uncached access is forwarded to the home (R97). -/
def State.homeServe (s : State) (h : Nat) (t : HomeTxn) : State :=
  let m := t.msg
  let sn := snoopsOf m h (s.dirView m.line)
  if sn.isEmpty then s.homeFinish h { t with snooped := true }
  else
    let req := match m.code with | .atomic | .readNC | .writeNC => h | _ => m.src
    sn.foldl (fun s e => s.send (msgOf e.1 h e.2.1 req e.2.2 m.cls m.txn m.line))
      (s.txnPut h { t with phase := .snoops, waits := sn.map (·.2.1) })

/-- Whether a transaction needs a way of its directory set that a line has still to give up (R87): the line and its entry. -/
def State.dirNeeds (s : State) (h : Nat) (m : CohMsg) : Option (Nat × DirEntry) :=
  if needsEntry m h && (s.dirFind m.line).isNone then s.dirVictim m.line else none

/-- Go on with a transaction once its directory set has a way for it (R87): with the set full, the victim is evicted first,
and one that is itself busy is waited for; an atomic waits for a way of the home's L2 (R97). -/
def State.homeAccept (s : State) (h : Nat) (t : HomeTxn) : State :=
  let m := t.msg
  -- a request of a die that has gone offline meanwhile ends; data that has come back for it is memory's (R99)
  let on (s : State) : State :=
    if s.isOffline m.src && m.src != h then (s.keepData m.line t).txnDel h m.line
    else if !s.atomicRoom h m then s.txnPut h { t with phase := .room, waits := [] }
    else if t.snooped then s.homeFinish h t else s.homeServe h t
  match s.dirNeeds h m with
  | none => on s
  | some (v, e) =>
    if ((s.die h).txns.filter fun u => u.msg.line != m.line).any fun u => u.holds v then s.txnPut h { t with phase := .room, waits := [] }
    else
      let ds := (presDies e.pres).filter fun d => !s.isOffline d
      if ds.isEmpty then on (s.dirSet v none)
      else
        let seen := t.wbSeen.filter fun y => y != v
        ds.foldl (fun s d => s.send (msgOf .backInv h d h 0 m.cls m.txn v))
          (s.txnPut h { t with phase := .evict v, waits := ds, wbSeen := seen })

/-- Whether a request has all that ends it (R91): the home's final message, with the data, or with the grant that needs none. -/
def OpenReq.ready (r : OpenReq) : Bool :=
  if r.uncached then r.final
  else match r.code with
    | .readShared => r.got.isSome
    | _ => r.final && (r.got.isSome || r.granted)

/-- A transaction of the home's own die ends without a message: its data, when forwarded, must have come (R91). -/
def State.selfDone (s : State) (h x : Nat) : State :=
  match (s.die h).txns.find? fun t => t.msg.line == x with
  | none => s
  | some t =>
    if t.msg.src = h ∧ t.phase = .done then
      match (s.die h).reqAt t.msg.txn with
      | none => s.txnDel h x
      | some r =>
        if r.final && r.ready then
          if r.uncached then s.txnDel h x
          else ((if r.inst then s else s.reqInstall h r).txnDel h x).reqDel h r.txn
        else s
    else s

/-- Whether a die's home agents are in recall, so that new requests wait (R394 step 2). -/
def State.recalling (s : State) (h : Nat) : Bool :=
  match s.mdl.warm with
  | some r => r.die == h && decide (2 ≤ r.step) && decide (r.step ≤ 4)
  | none => false

/-- The home agent takes up a request (R86, R90): from then on its line is busy. The directory lookup and the read of the line's
data, from the home's L2 or through the Cellar, start together. -/
def State.homeTake (s : State) (h : Nat) (m : CohMsg) (since : Nat) : State :=
  let s := s.dirRead m.line
  let s := if ((s.die h).l2Find m.line).isNone then s.memReadAt since m.line m.cls else s
  (s.homeAccept h ⟨m, since, .snoops, [], false, none, false, false, [], false⟩).selfDone h m.line

/-- The next queued request of a die's home whose line is idle (R90). -/
def nextQueued (s : State) (h : Nat) : Option Nat :=
  listIndex (fun m : CohMsg × Nat => !s.homeBusy h m.1.line) (s.die h).queue

/-- A transaction that waited for a busy victim, or for a way of the L2, and need not wait any longer (R87, R97). -/
def State.roomNow (s : State) (h : Nat) : Option HomeTxn :=
  (s.die h).txns.find? fun t => decide (t.phase = .room) && s.atomicRoom h t.msg && (match s.dirNeeds h t.msg with
    | none => true
    | some (v, _) => !((s.die h).txns.filter fun u => u.msg.line != t.msg.line).any fun u => u.holds v)

/-- Go on with what waited for a line: transactions that wait for a victim, then the queued requests whose lines are idle, in
order of arrival (R87, R90). -/
def State.homeDrain : Nat → State → Nat → State
  | 0, s, _ => s
  | fuel + 1, s, h =>
    match s.roomNow h with
    | some t => State.homeDrain fuel ((s.homeAccept h t).selfDone h t.msg.line) h
    | none =>
      match (if s.recalling h then none else nextQueued s h) with
      | none => s
      | some i =>
        match (s.die h).queue[i]? with
        | none => s
        | some (m, since) =>
          let s := s.setDie h { s.die h with queue := listRemove (s.die h).queue i }
          State.homeDrain fuel (s.homeTake h m since) h

/-- As much of it as can be done. -/
def State.homeDrained (s : State) (h : Nat) : State :=
  State.homeDrain ((s.die h).queue.length + (s.die h).txns.length + 1) s h

/-- A request arrives at its home (R90). -/
def State.homeArrive (s : State) (h : Nat) (m : CohMsg) : State :=
  if s.recalling h || s.homeBusy h m.line || (s.die h).queue.any (fun q => q.1.line == m.line) then
    s.setDie h { s.die h with queue := (s.die h).queue ++ [(m, s.tick)] }
  else s.homeTake h m s.tick

/-- Whether the request queue of a line's slice has room (R90): 1 024 requests for each channel group. -/
def State.queueRoom (s : State) (h x : Nat) : Bool :=
  let grp := groupOf (x * 128 % 2 ^ 40)
  decide (((s.die h).queue.filter fun q => groupOf (q.1.line * 128 % 2 ^ 40) == grp).length < 1024)

/-- Close a line's transaction and start what waited for it (R90, R91). -/
def State.homeClose (s : State) (h x : Nat) : State := (s.txnDel h x).homeDrained h

/-- Whether a request needs the data that is forwarded to the home itself (R97). -/
def CohMsg.dataHome (m : CohMsg) : Bool :=
  match m.code with
  | .atomic | .readNC | .writeNC => true
  | _ => false

/-- Go on with a transaction when its replies are in (R92, R94). -/
def State.homeGo (s : State) (h : Nat) (t : HomeTxn) : State :=
  if !t.waits.isEmpty || t.wbWait then s.txnPut h t
  else
    match t.phase with
    | .evict v => ((s.dirSet v none).homeAccept h t |>.selfDone h t.msg.line).homeDrained h
    | .recall => (s.dirSet t.msg.line none).homeClose h t.msg.line
    | .snoops =>
      if t.msg.dataHome && t.forwarded && t.data.isNone then s.txnPut h t
      else ((s.homeAccept h { t with snooped := true }).selfDone h t.msg.line).homeDrained h
    | .room | .done => s.txnPut h t

/-- Open a request of a die: to its home by a message, or, at the home itself, in place (R91, R95). -/
def State.openReq (s : State) (d : Nat) (m : CohMsg) (h : Hints) : State × Nat :=
  let (s, t) := s.newTxn d
  let m := { m with txn := t }
  let r : OpenReq :=
    { txn := t, line := m.line, code := m.code, drop := (m.uncached && m.code == .readOwn), got := none, inst := false,
      final := false, grant := .i, granted := false, noAttic := h.noAttic, keep := h.keep, stream := h.stream, cls := m.cls }
  let s := (s.setDie d { s.die d with reqs := (s.die d).reqs ++ [r] }).badClear (.fill d) m.line
  if homeOf m.line = d then (s.homeArrive d m, t) else (s.send m, t)

/-- A holder's copy for a snoop: state, dirty sectors and data, its L1s collected first (R70, R93). Looking in the Attic reads its
tags, and its data when they are asked for (R84, R105). -/
def State.snoopCopy (s : State) (d x : Nat) (h : Collect) (data : Bool) : State × Option (Moesi × Byte × Line) :=
  match (s.die d).l2Find x with
  | some (k, _) =>
    let s := (s.collectL1 d x k h none).badCorrect (.l2 d) x
    (s, (mapFind (s.die d).l2 k).map fun l => (l.st, l.dirty, l.data))
  | none =>
    if homeOf x = d then (s, none)
    else
      let s := s.tagRead d (atticTagLine s.attic d x) 1
      match s.atticFind d x with
      | some (w, t) =>
        let dl := atticDataLine s.attic d x w
        let s := if data then (s.cellarReq dl 5 false).badCorrect (.attic d) x else s
        (s, some (t.st, t.dirty, memLine s.mem dl))
      | none => (s, none)

/-- Change the state of a holder's copy, in L2 or in the Attic. -/
def State.snoopState (s : State) (d x : Nat) (st : Moesi) : State :=
  match (s.die d).l2Find x with
  | some (k, l) => s.l2Put d k { l with st := st }
  | none =>
    match s.atticFind d x with
    | some (w, t) => (s.tagTouch (atticTagLine s.attic d x) true).atticPut d x w ({ t with st := st } : AtticTag).word
    | none => s

/-- Whether a dirty sector of a line in one of the die's L1s fails: it is lost as the L1s are collected (R102). -/
def State.l1Lost (s : State) (d x : Nat) : Bool :=
  !s.bad.isEmpty && (s.coresOf d).any fun c => match (s.core c).l1Find x with
    | some (_, l) => decide (s.badMask (.l1 c) x &&& l.dirty ≠ 0)
    | none => false

/-- A snoop arrives at a die (R93). -/
def State.snoop (s : State) (m : CohMsg) : State :=
  let d := m.dst
  let h := m.src
  let x := m.line
  let ack (s : State) (c : Nat) : State := s.send (msgOf .ack d h m.req c m.cls m.txn x)
  let fwd (s : State) (data : Line) (dirty : Byte) (g : Nat) : State :=
    s.send { msgOf .dataFwd d m.req m.req g m.cls m.txn x with data := data, smask := dirty }
  if (s.die d).wbs.any fun w => w.1 == x then ack s 6
  else
    let lost := s.l1Lost d x
    let (s, c) := s.snoopCopy d x (if m.code = .snpShared then .share else .take) !(m.code == .snpInv && m.cd == 1)
    match c with
    | none => ack s 2
    | some (st, dirty, data) =>
      let place : BadAt := if ((s.die d).l2Find x).isSome then .l2 d else .attic d
      let bad := s.badMask place x
      if (bad ≠ 0 ∨ lost) ∧ (st = .m ∨ st = .o ∨ st = .e) ∧ !(m.code = .snpInv ∧ m.cd = 1) then
        -- R102
        (((s.badLog place x bad dirty).badClear place x).dropHeld d x).send
          { msgOf .data d h m.req 0 m.cls m.txn x with data := data, smask := dirty &&& ~~~bad }
      else
      match m.code with
      | .snpShared =>
        match st with
        | .m | .o => ack (fwd (s.snoopState d x .o) data dirty 0) 4
        | .e => ack (fwd (s.snoopState d x .s) data 0 0) 5
        | _ => ack s 2
      | .snpInv =>
        if m.cd = 1 ∨ st = .s then ack (s.dropHeld d x) 3
        else ack (fwd (s.dropHeld d x) data dirty 2) (if st = .e then 5 else 4)
      | _ =>
        if st = .m ∨ st = .o then
          (s.dropHeld d x).send { msgOf .data d h m.req 0 m.cls m.txn x with data := data, smask := dirty }
        else ack (s.dropHeld d x) 3

/-- A transaction of a home that waits for a reply of die `d` on line `x`. -/
def Die.txnWaiting (k : Die) (d x : Nat) : Option HomeTxn :=
  k.txns.find? fun t => t.waits.contains d && (match t.phase with | .evict v => v == x | _ => t.msg.line == x)

/-- The owner of a line has written it back (R94): what its entry says then. -/
def State.dirWritten (s : State) (x owner : Nat) : State :=
  match s.dirFind x with
  | some (_, e) =>
    let p := e.pres &&& ~~~presBit owner
    if e.owner = owner ∧ e.st = DirSt.em then s.dirSet x none
    else if e.owner = owner ∧ e.st = DirSt.o then s.dirSet x (if p = 0 then none else some (.s, 0, p))
    else s
  | none => s

/-- The transaction that holds a line learns that a WriteBack of it has come (R94). -/
def State.wbSeenBy (s : State) (h x : Nat) : State :=
  match (s.die h).txns.find? fun t => t.holds x with
  | some t => s.homeGo h { t with wbSeen := x :: t.wbSeen.filter (fun y => y != x), wbWait := false }
  | none => s

/-- A WriteBack arrives (R94): memory takes the sectors, the entry is updated, the sender is told. -/
def State.writeBackArrive (s : State) (m : CohMsg) : State :=
  let h := m.dst
  let x := m.line
  let s := if m.smask = 0 then s else (s.cellarReq x m.cls true).memWrite x m.data (nibSectors m.smask)
  (((s.dirRead x).dirWritten x m.src).send (msgOf .ack h m.src m.src 0 m.cls m.txn x)).wbSeenBy h x

/-- A snoop reply arrives at the home (R89, R92, R94): dirty data for a BackInv goes to memory; a WriteBack in flight
is waited for. -/
def State.replyArrive (s : State) (m : CohMsg) (t : HomeTxn) : State :=
  let h := m.dst
  let t := { t with waits := t.waits.filter (· != m.src) }
  match m.code with
  | .data =>
    (if m.smask = 0 then s else (s.cellarReq m.line m.cls true).memWrite m.line m.data (nibSectors m.smask)).homeGo h t
  | _ =>
    if m.cd = 4 then s.homeGo h { t with forwarded := true }
    else if m.cd = 5 then s.homeGo h { t with forwarded := true, fwdClean := true }
    else if m.cd = 6 then s.homeGo h { t with wbWait := !t.wbSeen.contains m.line }
    else s.homeGo h t

/-- Go on with a die's request after an answer (R91): a readable copy is installed as its data comes; the closing Ack
DONE is sent when the home's final message is there. -/
def State.reqGo (s : State) (d : Nat) (r : OpenReq) : State :=
  let h := homeOf r.line
  -- a way of the die's L2 is free for an atomic that waits for one
  let close (s : State) : State :=
    if h = d then s.homeClose d r.line else (s.send (msgOf .ack d h d 0 r.cls r.txn r.line)).homeDrained d
  if r.uncached then
    let s := s.reqPut d r
    if r.final then close s else s
  else if r.inst then if r.final then close (s.reqDel d r.txn) else s.reqPut d r
  else if !r.ready then s.reqPut d r
  else if r.final then close ((s.reqInstall d r).reqDel d r.txn)
  else (s.reqInstall d r).reqPut d { r with inst := true }

/-- Data and DataFwd arrive (R91, R93, R97): a reply that the home waits for, the data of a snoop that the home asked
for itself, or the answer to a request of the die. -/
def State.dataArrive (s : State) (m : CohMsg) : Option State :=
  let k := s.die m.dst
  match k.txnWaiting m.src m.line with
  | some t =>
    if m.code = .data then some (s.replyArrive m t)
    else
      match t.msg.code with
      | .atomic | .readNC | .writeNC => some (s.homeGo m.dst { t with data := some (m.data, m.smask) })
      | _ => (k.reqAt m.txn).map fun r => s.reqGo m.dst (r.answer m.code m.cd m.data m.smask)
  | none =>
    match k.txns.find? fun t => t.msg.line == m.line && t.forwarded && t.data.isNone &&
        (match t.msg.code with | .atomic | .readNC | .writeNC => true | _ => false) with
    | some t => if m.code = .dataFwd then some (s.homeGo m.dst { t with data := some (m.data, m.smask) }) else none
    | none => (k.reqAt m.txn).map fun r => s.reqGo m.dst (r.answer m.code m.cd m.data m.smask)

/-- An Ack arrives (R89): a snoop reply, the acknowledgement of a WriteBack, the requester's closing Ack, or the final
message of a request. -/
def State.ackArrive (s : State) (m : CohMsg) : Option State :=
  let d := m.dst
  let k := s.die d
  if 2 ≤ m.cd then
    match k.txnWaiting m.src m.line with
    | some t => some (s.replyArrive m t)
    | none => some s
  else if m.cd = 0 ∧ k.wbs.contains (m.line, m.txn) ∧ m.src = homeOf m.line then
    some (s.setDie d { k with wbs := k.wbs.filter (· != (m.line, m.txn)) })
  else if m.cd = 0 ∧ d = homeOf m.line ∧ k.txns.any fun t =>
      t.msg.line == m.line && t.msg.src == m.src && decide (t.phase = .done) then
    some (s.homeClose d m.line)
  else (k.reqAt m.txn).map fun r => s.reqGo d (r.answer .ack m.cd 0 m.smask)

/-- A coherence message arrives, HomeOffline apart (R88); none when it is not taken: a request while its slice's queue is full
(R90), which the links hold. A request to an offline home is answered by HomeOffline (R99). -/
def State.deliver (s : State) (m : CohMsg) : Option State :=
  match m.code with
  | .readShared | .readOwn | .upgrade | .atomic | .readNC | .writeNC =>
    if s.isOffline m.dst then
      some (s.send (msgOf .homeOffline (s.refuser m.src m.dst) m.src m.req 0 m.cls m.txn m.line))
    else if s.queueRoom m.dst m.line then some (s.homeArrive m.dst m)
    else none
  | .writeBack => if s.isOffline m.dst then none else some (s.writeBackArrive m)
  | .snpShared | .snpInv | .backInv => if s.isOffline m.dst then none else some (s.snoop m)
  | .data | .dataFwd => if s.isOffline m.dst then some s else s.dataArrive m
  | .ack => if s.isOffline m.dst then some s else s.ackArrive m
  | .homeOffline => none

/-- Whether a message in flight goes its way now (R19, R20): its route is up, or a die on it answers for an offline home. -/
def State.passes (s : State) (m : CohMsg) : Bool := s.isOffline m.dst || s.routed m.src m.dst

/-- Deliver the `k`-th message in flight, when it has this code. -/
def State.deliverAt (s : State) (code : CohCode) (k : Nat) : State :=
  match s.net[k]? with
  | none => s
  | some m =>
    if m.code = code ∧ s.passes m = true then (State.deliver { s with net := listRemove s.net k } m).getD s else s

end Sys2Proof.Machine
end

