-- ==== Sys2Proof/Machine/Poison.lean ====
section
/-! DEFINITION. Uncorrectable errors in data that is consumed (spec 04 R101). -/

namespace Sys2Proof.Machine

/-- A die's copy of a line is gone: what the directory says of it. -/
def State.dirLeave (s : State) (d x : Nat) : State :=
  if d = homeOf x then s
  else
    match s.dirView x with
    | none => s
    | some (st, o, p) =>
      let p' := p &&& ~~~presBit d
      if st = DirSt.em ∨ p' = 0 then s.dirSet x none
      else if st = DirSt.o ∧ o = d then s.dirSet x (some (.s, 0, p'))
      else s.dirSet x (some (st, o, p'))

/-- Whether core `c` holds a sector of a line in its L1. -/
def State.l1Has (s : State) (c x sector : Nat) : Bool :=
  match (s.core c).l1Find x with
  | some (_, l) => l.valid.getLsbD sector
  | none => false

/-- Whether a line of a die's home is read from memory there, for core `c`'s die: neither that die nor another one answers for it,
nor the home's own L2. -/
def State.fromMemory (s : State) (d x : Nat) : Bool :=
  !s.dieHolds d x && (match s.dirView x with
    | some (st, o, _) => decide (st = DirSt.s) || (s.ownerCopy o x).isNone
    | none => true) && (d == homeOf x || ((s.die (homeOf x)).l2Find x).isNone)

/-- Whether a read by core `c` would meet the failing sector `b` (R101): in its own L1; in the L1 of its die's owner, which
forwards it; in its die's L2; in the Attic; in its home's L2; in the home's Cellar or memory when no die answers for the
line. -/
def State.meetsBad (s : State) (c : Nat) (b : BadSector) : Bool :=
  let d := coreDie c
  let x := b.line
  let inL2 := ((s.die d).l2Find x).isSome
  let mine := s.l1Has c x b.sector
  match b.at_ with
  | .l1 k =>
    if k = c then mine
    else coreDie k == d && !mine && (match (s.die d).l2Find x, (s.core k).l1Find x with
      | some (_, l), some (_, l1) => decide (l.owner = some k) && l1.dirty.getLsbD (b.sector % 8)
      | _, _ => false)
  | .l2 e =>
    if e = d then inL2 && !mine
    else e == homeOf x && !s.dieHolds d x && ((s.die e).l2Find x).isSome
  | .attic e => e == d && !inL2 && (s.atticFind d x).isSome
  | .cellar e => e == homeOf x && s.fromMemory d x
  | .dram => s.fromMemory d x && (s.badMask (.cellar (homeOf x)) x).getLsbD (b.sector % 8) == false
  | _ => false

/-- Whether a sector lies in the `n` bytes at `pa`. -/
def BadSector.within (b : BadSector) (pa n : Nat) : Bool :=
  decide (pa / 16 ≤ b.line * 8 + b.sector % 8) && decide (b.line * 8 + b.sector % 8 ≤ (pa + n - 1) / 16)

/-- The first failing sector that a read of `n` bytes at `pa` by core `c` meets. -/
def State.badRead (s : State) (c pa n : Nat) : Option BadSector :=
  if s.bad.isEmpty || !paHomed pa then none
  else s.bad.find? fun b => b.within pa n && s.meetsBad c b

/-- Whether some sector in the `n` bytes at `pa` fails while its line is on its way between dies: what reads it will meet is not
known yet. -/
def State.badSoon (s : State) (c pa n : Nat) : Bool :=
  s.bad.any fun b => b.within pa n && (s.lineBusy b.line || (s.die (coreDie c)).pinned b.line) &&
    (match b.at_ with
     | .l1 _ | .l2 _ | .cellar _ | .attic _ | .dram => true
     | _ => false)

/-- Write the good dirty sectors of a die's copy back, in the class of the line (R107), and drop it. -/
def State.badDrop (s : State) (d x cls : Nat) (mask dirty : Byte) (data : Line) (owner : Bool) : State :=
  let good := dirty &&& ~~~mask
  let s := if owner && decide (good ≠ 0) then (s.cellarReq x cls true).memWrite x data (nibSectors good) else s
  (s.dropHeld d x).dirLeave d x

/-- Bytes that an error has taken, and that no other copy backs: free values (log 2). -/
def lostBytes (tick where_ n : Nat) : List Byte := (List.range n).map fun i => Config.lostByte tick where_ i

/-- What the part does about a failing sector that has been consumed (R100, R101): one wrong bit is corrected, and written back
corrected. Otherwise a clean copy is invalidated; of a dirty copy the good dirty sectors are written back and the failing one is
lost; a failing DRAM read caches nothing. What no other copy backs holds a free value then. -/
def State.badFix (s : State) (b : BadSector) : State :=
  let x := b.line
  let i := b.sector % 8
  let bit : Byte := BitVec.ofNat 8 (2 ^ i)
  if b.corr then s.badCorrect b.at_ x
  else
  match b.at_ with
  | .l1 c =>
    match (s.core c).l1Find x with
    | some (k, l) => ((if l.dirty &&& bit = 0 then s.badLog b.at_ x bit 0 else s).l1Evict c k).badClear b.at_ x
    | none => s.badClear b.at_ x
  | .l2 d =>
    match (s.die d).l2Find x with
    | some (k, _) =>
      let s := s.collectL1 d x k .take none
      match mapFind (s.die d).l2 k with
      | some l =>
        let m := s.badMask b.at_ x
        ((s.badLog b.at_ x m l.dirty).badClear b.at_ x).badDrop d x l.cls m l.dirty l.data (decide (l.st = .m) || decide (l.st = .o))
      | none => s
    | none => s.badClear b.at_ x
  | .attic d =>
    match s.atticFind d x with
    | some (w, t) =>
      let m := s.badMask b.at_ x
      ((s.badLog b.at_ x m t.dirty).badClear b.at_ x).badDrop d x 5 m t.dirty (memLine s.mem (atticDataLine s.attic d x w))
        (decide (t.st = .m) || decide (t.st = .o))
    | none => s.badClear b.at_ x
  | .cellar d =>
    match (s.die d).cellarSet (cellarSlot x) |>.find? fun e => e.2.line == x with
    | some (w, l) =>
      let m := s.badMask b.at_ x
      let s := (s.badLog b.at_ x m (if l.dirty then m else 0)).badClear b.at_ x
      let s := s.setDie d { s.die d with cellar := mapDel (s.die d).cellar (cellarSlot x * 16 + w) }
      if l.dirty then s.memWrite x (linePlace 0 (leNat (lostBytes s.tick x 128))) (nibSectors m) else s
    | none => s.badClear b.at_ x
  | .dram => s.badLog b.at_ x bit 0
  | _ => (s.badEntry b.at_ x i true true).badClear b.at_ x

/-- What reading a list of addresses, `n` bytes each, by core `c` meets: the first address that touches a sector with an
uncorrectable error, and the state after; errors of one bit before it are corrected. -/
inductive Consumed where
  | clean (s : State)
  | fails (va : Dword) (s : State)
  /-- Which copy answers is not settled yet. -/
  | later
  deriving DecidableEq, Repr

def State.consumeOne : Nat → State → Nat → Nat → Dword → Nat → Consumed
  | 0, s, _, _, _, _ => .clean s
  | fuel + 1, s, c, n, va, pa =>
    if s.badSoon c pa n then .later
    else
      match s.badRead c pa n with
      | none => .clean s
      | some b => if b.corr then State.consumeOne fuel (s.badFix b) c n va pa else .fails va (s.badFix b)
def State.consume (s : State) (c n : Nat) : List (Dword × Nat) → Consumed
  | [] => .clean s
  | (va, pa) :: r =>
    if s.bad.isEmpty then .clean s
    else if !paHomed pa then s.consume c n r
    else
      match State.consumeOne (s.bad.length + 1) s c n va pa with
      | .clean s => s.consume c n r
      | o => o

/-! Scratch and registers -/

/-- Where a window offset of a workgroup's scratch lies (R59): way, set, byte of the line, bank. -/
structure ScratchAt where
  way : Nat
  set : Nat
  byte : Nat
  bank : Nat
  deriving DecidableEq, Repr

def scratchAt (gran o : Nat) : ScratchAt :=
  let k := gran + o / 4096
  ⟨15 - k / 16, k % 16 * 32 + o / 128 % 32, o % 128, o / 4 % 64⟩

/-- A workgroup's granules of a core's scratch ways are written as a whole, cleared or restored (R67): what failed there before no
longer does. -/
def State.scratchNew (s : State) (core gran grans : Nat) : State :=
  if s.bad.isEmpty then s
  else
    let granule (line : Nat) : Nat := (15 - line / 512) * 16 + line % 512 / 32
    { s with bad := s.bad.filter fun b =>
        !(decide (b.at_ = .scratch core) && decide (gran ≤ granule b.line) && decide (granule b.line < gran + grans)) }

/-- The first failing sector of a core's scratch ways that `n` bytes at an offset of a workgroup's window touch. -/
def State.badScratch (s : State) (wg o n : Nat) : Option BadSector :=
  if s.bad.isEmpty then none
  else
    match mapFind s.wgs wg with
    | none => none
    | some g =>
      s.bad.find? fun b => decide (b.at_ = .scratch g.core) && (List.range n).any fun i =>
        let p := scratchAt g.gran (o + i)
        b.line == 512 * p.way + p.set && b.sector == p.byte / 16

/-- A failing sector of scratch has been consumed: its 16 bytes, whose offsets in the window are those of the sector around
`o`, hold free values. -/
def State.scratchFix (s : State) (wg o n : Nat) (b : BadSector) : State :=
  let s := s.badFix b
  if b.corr then s
  else
    match mapFind s.wgs wg with
    | none => s
    | some g =>
      let hit := (List.range n).find? fun i =>
        let p := scratchAt g.gran (o + i)
        b.line == 512 * p.way + p.set && b.sector == p.byte / 16
      let start := (o + hit.getD 0) / 16 * 16
      let put (m : FMap Byte) (e : Byte × Nat) : FMap Byte := storeSet 0 m (start + e.2) e.1
      let new := (lostBytes s.tick b.line 16).zipIdx.foldl put g.scratch
      { s with wgs := mapPut s.wgs wg { g with scratch := new } }

/-- Reading scratch at an offset, and at a list of offsets, `n` bytes each. -/
def State.scratchOne : Nat → State → Nat → Nat → Nat → Consumed
  | 0, s, _, _, _ => .clean s
  | fuel + 1, s, wg, n, o =>
    match s.badScratch wg o n with
    | none => .clean s
    | some b =>
      if b.corr then State.scratchOne fuel (s.scratchFix wg o n b) wg n o
      else .fails (BitVec.ofNat 64 o) (s.scratchFix wg o n b)
def State.consumeScratch (s : State) (wg n : Nat) : List Nat → Consumed
  | [] => .clean s
  | o :: r =>
    match State.scratchOne (s.bad.length + 1) s wg n o with
    | .clean s => s.consumeScratch wg n r
    | x => x

end Sys2Proof.Machine
end

