-- ==== Sys2Proof/Machine/Access.lean ====
section
/-! DEFINITION. How the parts of an access are performed (spec 03 R57 to R78, 06 R126 to R141, 11 R263 to R273):
program order and forwarding within a warp, L1 and L2, uncached accesses at the home, scratch. -/

namespace Sys2Proof.Machine

/-- The first byte and the number of bytes that a part touches: a whole line for CLEAN, DROP and PREF. -/
def Access.range (a : Access) (p : LaneAcc) : Place × Nat :=
  match a.kind, p.at_ with
  | .clean, .pa x | .drop, .pa x | .pref, .pa x => (.pa (x / 128 * 128), 128)
  | _, q => (q, a.size)

/-- Whether two ranges share a byte. -/
def Place.meets (p : Place) (n : Nat) (q : Place) (m : Nat) : Bool :=
  match p, q with
  | .pa a, .pa b => decide (a < b + m) && decide (b < a + n)
  | .scratch w a, .scratch v b => w == v && decide (a < b + m) && decide (b < a + n)
  | _, _ => false

def AccKind.isLoad : AccKind → Bool
  | .load | .given => true
  | _ => false
def AccKind.isStore : AccKind → Bool
  | .store | .nibble => true
  | _ => false
def AccKind.isPref : AccKind → Bool
  | .pref => true
  | _ => false

/-- The accesses older than `uid` whose issuers count as this access's issuer (R128), oldest first. -/
def State.older (s : State) (uid : Nat) (a : Access) : List Access :=
  (s.accs.filter fun e => decide (e.1 < uid) && !e.2.kind.isPref && e.2.owners.any fun o => a.owners.contains o).map (·.2)

/-- The parts of an access that have not been performed and touch a range. -/
def Access.pending (a : Access) (q : Place) (n : Nat) : List LaneAcc :=
  a.parts.filter fun p => !p.done && (let r := a.range p; r.1.meets r.2 q n)

/-- Whether an older access of the same issuer must come first (R128): a load passes over the stores that it can
forward from. -/
def State.mustWait (s : State) (uid : Nat) (a : Access) (p : LaneAcc) : Bool :=
  if a.kind.isPref then false
  else
    let r := a.range p
    (s.older uid a).any fun b =>
      !(a.kind.isLoad && b.kind.isStore) && !(b.pending r.1 r.2).isEmpty

/-- Whether a lower part of the same access must come first: lanes that write one byte, chunks of an STW in ascending
address (R128, R141, R267, R268). -/
def Access.mustWait (a : Access) (i : Nat) (p : LaneAcc) : Bool :=
  if a.kind.isLoad || a.kind.isPref then false
  else
    let r := a.range p
    (a.parts.take i).any (fun q => !q.done && (let t := a.range q; t.1.meets t.2 r.1 r.2)) ||
    (a.block && a.parts.any fun q => !q.done && decide (q.va.toNat / 32 < p.va.toNat / 32))

/-- The bytes that a load takes from its issuer's pending stores: for each byte of the range its low and high nibble,
where a store covers it; later stores and higher lanes come last (R128, R139). -/
def State.forward (s : State) (uid : Nat) (a : Access) (p : LaneAcc) : List (Option (BitVec 4) × Option (BitVec 4)) :=
  let start := match p.at_ with | .pa x => x | .scratch _ o => o
  (List.range a.size).map fun i =>
    (s.older uid a).foldl (fun acc b =>
      if !b.kind.isStore then acc
      else
        b.parts.foldl (fun acc q =>
          let hit := match p.at_, q.at_ with
            | .pa _, .pa y => decide (y ≤ start + i) && decide (start + i < y + b.size)
            | .scratch w _, .scratch v y => w == v && decide (y ≤ start + i) && decide (start + i < y + b.size)
            | _, _ => false
          if q.done || !hit then acc
          else
            let base := match q.at_ with | .pa y => y | .scratch _ y => y
            let v := q.data.getD (start + i - base) 0
            match b.kind with
            | .nibble => if q.high then (acc.1, some (v.extractLsb' 0 4)) else (some (v.extractLsb' 0 4), acc.2)
            | _ => (some (v.extractLsb' 0 4), some (v.extractLsb' 4 4))) acc) (none, none)

/-- Whether every nibble is forwarded; the bytes with forwarded nibbles put in. -/
def fwdAll (l : List (Option (BitVec 4) × Option (BitVec 4))) : Bool := l.all fun e => e.1.isSome && e.2.isSome
def fwdMerge : List (Option (BitVec 4) × Option (BitVec 4)) → List Byte → List Byte
  | [], bs => bs
  | _, [] => []
  | (lo, hi) :: r, b :: bs => (hi.getD (b.extractLsb' 4 4) ++ lo.getD (b.extractLsb' 0 4)) :: fwdMerge r bs

/-- The sectors of `n` bytes from byte `i` of a line. -/
def sectorMask (i n : Nat) : Byte :=
  (List.range 8).foldl (fun m k =>
    if i < 16 * k + 16 ∧ 16 * k < i + n then m ||| BitVec.ofNat 8 (2 ^ k) else m) 0

/-- Bytes of a line. -/
def lineSlice (d : Line) (i n : Nat) : List Byte := leBytes n (d.toNat / 2 ^ (8 * i))

/-- Whether a die may open a request for a line: its L2 set has a way for the answer (R17), and at its own home the slice's queue
has room (R90). -/
def State.mayOpen (s : State) (d x : Nat) : Bool :=
  (s.die d).wayLeft x && (homeOf x != d || s.queueRoom d x) && !s.isOffline (homeOf x)

/-- Whether a line is held well enough: for a write with module ownership (R80, R95). -/
def L2Line.serves (l : L2Line) (write : Bool) : Bool := !write || decide (l.st = .m) || decide (l.st = .e)

/-- The key of a line that a die holds well enough, with no request open. -/
def Die.l2Ready (k : Die) (x : Nat) (write : Bool) : Option Nat :=
  match k.l2Find x with
  | some (k2, l) => if l.serves write && !k.pinned x then some k2 else none
  | none => none

/-- Ask for a line in a die's L2: readable, or with module ownership (R80, R95). The key of the L2 line when it is
there; otherwise a request is open, or cannot be opened yet. -/
def State.l2Want (s : State) (d x : Nat) (write : Bool) (h : Hints) (cls : Nat) : State × Option Nat :=
  let k := s.die d
  if k.wbs.any (fun w => w.1 == x) || k.reqs.any (fun r => r.line == x && r.drop) then (s, none)
  else
    let s := if k.pinned x && homeOf x == d then s.selfDone d x else s
    let ask (s : State) (code : CohCode) : State × Option Nat :=
      if (s.die d).pinned x || !s.mayOpen d x then (s, none)
      else
        let (s, _) := s.openReq d (msgOf code d (homeOf x) d 0 cls 0 x) h
        (s, (s.die d).l2Ready x write)
    match s.l2Get d x h cls with
    | (s, .hit k2 l) => if l.serves write then (s, some k2) else ask s .upgrade
    | (s, .miss) => ask s (if write then .readOwn else .readShared)
    | (s, .stall) => (s, none)

/-- Bytes of a line in an L1. -/
def State.l1Slice (s : State) (c x i n : Nat) : Option (List Byte) := ((s.core c).l1Find x).map fun e => lineSlice e.2.data i n

/-- Read bytes of a line through core `c`'s L1 (R70). A hit makes the line the most recently used of its set (R58); what a miss
brings in stands where its hint puts it (R263). -/
def State.l1Read (s : State) (c x i n : Nat) (h : Hints) (cls : Nat) : State × Option (List Byte) :=
  let sec := sectorMask i n
  let fill (s : State) (k2 : Nat) : State × Option (List Byte) :=
    let s := s.l1Fill c x k2 sec h
    (s, s.l1Slice c x i n)
  match (s.core c).l1Find x with
  | some (k1, l) =>
    if sec &&& ~~~l.valid = 0 then ((s.l1Use c k1 l h).1, some (lineSlice l.data i n))
    else
      match (s.die (coreDie c)).l2Find x with
      | some (k2, _) => fill (s.l2Use (coreDie c) k2 h) k2
      | none => (s, none)
  | none =>
    match s.l2Want (coreDie c) x false h cls with
    | (s, some k2) => fill s k2
    | (s, none) => (s, none)

/-- Write nibbles of a line in core `c`'s L1, held M (R70, R126). -/
def State.l1Write (s : State) (c x : Nat) (data : Line) (mask : NibMask) (h : Hints) (cls : Nat) : State × Bool :=
  let put (s : State) : State × Bool :=
    match (s.core c).l1Find x with
    | some (k1, l) => ((s.l1Put c k1 (l.write data mask)).badOver (.l1 c) x (sectorsFull mask), true)
    | none => (s, false)
  match (s.core c).l1Find x with
  | some (k1, l) =>
    if l.st = Moesi.m then put (s.l1Use c k1 l h).1
    else
      match s.l2Want (coreDie c) x true h cls with
      | (s, some k2) => put (s.l1Own c x k2 h)
      | (s, none) => (s, false)
  | none =>
    match s.l2Want (coreDie c) x true h cls with
    | (s, some k2) => put (s.l1Own c x k2 h)
    | (s, none) => (s, false)

/-- A new value of a workgroup's scratch. -/
def putScratch (m : FMap Byte) (o : Nat) : List Byte → FMap Byte
  | [] => m
  | b :: bs => putScratch (storeSet 0 m o b) (o + 1) bs
def getScratch (m : FMap Byte) (o n : Nat) : List Byte := (List.range n).map fun i => storeGet 0 m (o + i)

/-- A byte with one nibble replaced (R266). -/
def putNibble (b : Byte) (high : Bool) (v : Byte) : Byte :=
  if high then v.extractLsb' 0 4 ++ b.extractLsb' 0 4 else b.extractLsb' 4 4 ++ v.extractLsb' 0 4

/-- The nibbles and the data that a store part writes within its line. -/
def Access.lineData (a : Access) (p : LaneAcc) (i : Nat) : Line × NibMask :=
  match a.kind with
  | .nibble =>
    let v := (p.data.headD 0).toNat % 16
    if p.high then (linePlace i (v * 16), BitVec.ofNat 256 (2 ^ (2 * i + 1)))
    else (linePlace i v, BitVec.ofNat 256 (2 ^ (2 * i)))
  | _ => (linePlace i (leNat p.data), nibBytes i a.size)

/-- What a part came to: still waiting, with its transaction if it has one open, or performed with the bytes that it
returns. -/
inductive PartRes where
  | wait (txn : Option Nat)
  | done (bs : List Byte)
  deriving DecidableEq, Repr

/-- A part that is performed at its line's home (R97, R263, R138, R270): send the request, or take its answer. -/
def State.atHome (s : State) (d : Nat) (a : Access) (p : LaneAcc) (m : CohMsg) (i : Nat) : State × PartRes :=
  let take (s : State) (t : Nat) : State × PartRes :=
    let s := if homeOf m.line = d then s.selfDone d m.line else s
    match (s.die d).reqAt t with
    | none => (s, .wait (some t))
    | some r =>
      if r.final then
        let data := (r.got.map Prod.fst).getD 0
        (s.reqDel d t, .done (match m.code with
          | .readNC => lineSlice data i a.size
          | .atomic => lineSlice data 0 a.size
          | _ => []))
      else (s, .wait (some t))
  match p.txn with
  | some t => take s t
  | none =>
    if (s.die d).wbs.any (fun w => w.1 == m.line) || s.isOffline (homeOf m.line) ||
        (homeOf m.line == d && !s.queueRoom d m.line) || (s.die d).reqs.any (fun r => r.line == m.line && (r.drop || !r.uncached)) then (s, .wait none)
    else
      let (s, t) := s.openReq d m .plain
      take s t

/-- Operand and compare value of an atomic part (R268): for CAS the compare value comes first. -/
def Access.atomArgs (a : Access) (p : LaneAcc) (op : Nat) : Nat × Nat :=
  if op = 8 then (leNat (p.data.drop a.size), leNat (p.data.take a.size)) else (leNat p.data, 0)

/-- Size code of an access (R193). -/
def sizeLog (n : Nat) : Nat := n.log2

/-- Perform a part at a physical address (R70, R95 to R97, R126, R138, R270). CLEAN and DROP on a page with PBMT NC: log 86. -/
def State.performPa (s : State) (uid : Nat) (a : Access) (p : LaneAcc) (pa : Nat) : State × PartRes :=
  let d := a.core / 96
  let x := pa / 128
  let i := pa % 128
  let h := hintsOf a.hint uid
  if !paHomed pa then
    -- the external window (R23, R96): at its completion
    match a.kind with
    | .load => (s, .done (fwdMerge (s.forward uid a p) (leBytes a.size (memNat s.mem pa a.size))))
    | .store => ({ s with mem := putBytes s.mem pa p.data }, .done [])
    | .nibble => (s.putByte pa (putNibble (s.byte pa) p.high (p.data.headD 0)), .done [])
    | .atomic op =>
      let old := memNat s.mem pa a.size
      let (b, c) := a.atomArgs p op
      ({ s with mem := putBytes s.mem pa (leBytes a.size (atomicOp op (8 * a.size) old b c)) }, .done (leBytes a.size old))
    | _ => (s, .done [])
  else
    let msg (code : CohCode) : CohMsg := msgOf code d (homeOf x) d 0 a.cls 0 x
    let uncached := p.nc || p.txn.isSome ||
      (a.hint == 3 && !s.dieHolds d x && !(s.die d).pinned x)
    match a.kind with
    | .load =>
      let f := s.forward uid a p
      if fwdAll f then (s, .done (fwdMerge f (leBytes a.size 0)))
      else if uncached then
        -- an older store that gives some of its bytes is performed before the home reads the others (R128)
        if p.txn.isNone && f.any (fun e => e.1.isSome || e.2.isSome) then (s, .wait none)
        else
        match s.atHome d a p (msg .readNC) i with
        | (s, .done bs) => (s, .done (fwdMerge f bs))
        | r => r
      else
        match s.l1Read a.core x i a.size h a.cls with
        | (s, some bs) => (s, .done (fwdMerge f bs))
        | (s, none) => (s, .wait none)
    | .store | .nibble =>
      let (data, mask) := a.lineData p i
      if uncached then s.atHome d a p { msg .writeNC with data := data, mask := mask } i
      else
        match s.l1Write a.core x data mask h a.cls with
        | (s, true) => (s, .done [])
        | (s, false) => (s, .wait none)
    | .atomic op =>
      let (b, c) := a.atomArgs p op
      let inL1 := decide (a.scope ≤ 3) && !p.nc && p.txn.isNone && (match (s.core a.core).l1Find x with
        | some (_, l) => decide (l.st = .m) || decide (l.st = .e)
        | none => false)
      if inL1 then
        match s.l1Read a.core x i a.size h a.cls with
        | (s, some bs) =>
          let new := atomicOp op (8 * a.size) (leNat bs) b c
          match s.l1Write a.core x (linePlace i new) (nibBytes i a.size) h a.cls with
          | (s, true) => (s, .done bs)
          | (s, false) => (s, .wait none)
        | (s, none) => (s, .wait none)
      else
        -- the L1 line is left in I
        let s := match (s.core a.core).l1Find x with
          | some (k1, _) => if p.txn.isNone then s.l1Evict a.core k1 else s
          | none => s
        s.atHome d a p { msg .atomic with data := atomicSlot op (sizeLog a.size) i b c } i
    | .clean =>
      if p.nc then
        -- a page with PBMT NC is served at the home: an uncached write of no byte sends the module's dirty data to memory (log 86)
        if a.scope ≤ 3 then (s, .done []) else s.atHome d a p (msg .writeNC) i
      else if a.scope ≤ 3 then
        match (s.die d).l2Find x with
        | some (k2, _) => (s.collectL1 d x k2 .clean none, .done [])
        | none => (s, .done [])
      else if s.lineBusy x then (s, .wait none)
      else
        match s.l2Want d x true h a.cls with
        | (s, some k2) =>
          let s := (s.collectL1 d x k2 .clean none).l2Heal d k2
          match mapFind (s.die d).l2 k2 with
          | some l => ((s.lineToMem l).l2Put d k2 { l with st := .e, dirty := 0 }, .done [])
          | none => (s, .done [])
        | (s, none) => (s, .wait none)
    | .drop =>
      if a.scope ≤ 3 then
        if p.nc then (s, .done [])
        else
          let s := s.discardL1 d x
          match (s.die d).l2Find x with
          | some (k2, l) => (s.l2Put d k2 (l.shareOnly none), .done [])
          | none => (s, .done [])
      else
        let busy := (s.die d).pinned x
        if p.txn.isNone ∧ busy then (s, .wait none)
        else
          let s := if p.txn.isNone then s.dropHeld d x else s
          s.atHome d a p { msg .readOwn with cd := 1 } i
    | .given => (s, .done p.data)
    | .pref =>
      if uncached then (s, .done [])
      else
      match s.l1Read a.core x 0 128 h a.cls with
      | (s, some _) => (s, .done [])
      | (s, none) => (s, .wait none)

/-- Perform a part in scratch (R31, R32, R138); a member that is saved makes it wait. -/
def State.performScratch (s : State) (uid : Nat) (a : Access) (p : LaneAcc) (wg o : Nat) : State × PartRes :=
  match mapFind s.wgs wg with
  | none => (s, .done (leBytes a.size 0))
  | some g =>
    if g.phase = .saved then (s, .wait none)
    else
      let put (bs : List Byte) : State := { s with wgs := mapPut s.wgs wg { g with scratch := putScratch g.scratch o bs } }
      match a.kind with
      | .load => (s, .done (fwdMerge (s.forward uid a p) (getScratch g.scratch o a.size)))
      | .store => (put p.data, .done [])
      | .nibble => (put [putNibble (storeGet 0 g.scratch o) p.high (p.data.headD 0)], .done [])
      | .atomic op =>
        let bs := getScratch g.scratch o a.size
        let (b, c) := a.atomArgs p op
        (put (leBytes a.size (atomicOp op (8 * a.size) (leNat bs) b c)), .done bs)
      | _ => (s, .done [])

/-- Perform part `i` of an access if what must come first is done. -/
def State.performPart (s : State) (uid : Nat) (a : Access) (i : Nat) (p : LaneAcc) : State × PartRes :=
  if a.kind = .given then (s, .done p.data)
  else if s.mustWait uid a p || a.mustWait i p then (s, .wait p.txn)
  else
    match p.at_ with
    | .pa x => s.performPa uid a p x
    | .scratch w o => s.performScratch uid a p w o

/-- The registers that bytes fill: words, the last one zero-extended (R264). -/
def wordsOf : Nat → List Byte → List Word
  | 0, _ => []
  | n + 1, bs => BitVec.ofNat 32 (leNat (bs.take 4)) :: wordsOf n (bs.drop 4)

/-- Put register values of one lane, or of one warp. -/
def putRegs (m : FMap Word) (k : Nat) : List Word → FMap Word
  | [] => m
  | w :: ws => putRegs (storeSet 0 m k w) (k + 1) ws

/-- Write what a part returned to its registers (R75, R77, R78). -/
def State.putResult (s : State) (a : Access) (p : LaneAcc) (bs : List Byte) : State :=
  let ws := wordsOf ((bs.length + 3) / 4) bs
  if bs = [] then s
  else
    match a.dest with
    | .none => s
    | .vec reg _ =>
      match mapFind s.wgs a.wg with
      | some g => { s with wgs := mapPut s.wgs a.wg { g with vregs := putRegs g.vregs (p.lane * 1024 + reg + p.off / 4) ws } }
      | none => s
    | .stall =>
      { s with warps := s.warps.map fun e =>
          if a.owners.contains e.1 then
            (e.1, { e.2 with stall := e.2.stall.map fun x => { x with got := bs } }) else e }
    | .scal reg _ =>
      { s with warps := s.warps.map fun e =>
          if a.owners.contains e.1 then (e.1, { e.2 with sregs := putRegs e.2.sregs (reg + p.off / 4) ws }) else e }

/-- Whether a die holds a line with module ownership, in L2 or in its Attic (R80, R84). -/
def State.dieOwns (s : State) (d x : Nat) : Bool :=
  match (s.die d).l2Find x with
  | some (_, l) => l.serves true
  | none => homeOf x != d && (s.atticFind d x).any fun t => decide (t.2.st = .m) || decide (t.2.st = .e)

/-- Whether core `c` holds a line with ownership in its L1. -/
def State.l1Owns (s : State) (c x : Nat) : Bool :=
  match (s.core c).l1Find x with
  | some (_, l) => decide (l.st = .m) || decide (l.st = .e)
  | none => false

/-- Whether a part of an access on a line has to ask the line's home (R95, R97, R138, R270). -/
def State.asksHome (s : State) (a : Access) (p : LaneAcc) (x : Nat) : Bool :=
  let d := a.core / 96
  match a.kind with
  | .load => p.nc || !s.dieHolds d x
  | .store | .nibble => p.nc || !s.dieOwns d x
  | .atomic _ => p.nc || decide (4 ≤ a.scope) || !s.l1Owns a.core x
  | .clean => decide (4 ≤ a.scope) && (p.nc || !s.dieOwns d x)
  | .drop => decide (4 ≤ a.scope)
  | .given => false
  | .pref => !s.dieHolds d x

/-- Whether a part's request would be answered by HomeOffline (R54, R99, R397). -/
def State.partOffline (s : State) (a : Access) (p : LaneAcc) : Bool :=
  match p.at_ with
  | .pa x => !p.done && paHomed x && s.isOffline (homeOf (x / 128)) && s.asksHome a p (x / 128)
  | .scratch _ _ => false

/-- Perform the part at position `i` of the access `uid`, as far as it goes now. -/
def State.tryPart (s : State) (uid i : Nat) : State :=
  match mapFind s.accs uid with
  | none => s
  | some a =>
    match a.parts[i]? with
    | none => s
    | some p =>
      if p.done then s
      else
        match s.performPart uid a i p with
        | (s, .wait t) =>
          { s with accs := mapPut s.accs uid { a with parts := listModify (fun p => { p with txn := t }) a.parts i } }
        | (s, .done bs) =>
          let s := s.putResult a p bs
          { s with accs := mapPut s.accs uid
                    { a with parts := listModify (fun p => { p with done := true, txn := none }) a.parts i } }

/-- What reading a part's bytes meets (R101): asked as the part is about to be performed. -/
def State.partReads (s : State) (a : Access) (p : LaneAcc) : Consumed :=
  let reads := match a.kind with
    | .load | .atomic _ => true
    | _ => false
  if s.bad.isEmpty || p.done || !reads then .clean s
  else
    match p.at_ with
    | .pa x => if paHomed x then State.consumeOne (s.bad.length + 1) s a.core a.size p.va x else .clean s
    | .scratch w o => s.consumeScratch w a.size [o]

/-- Whether every part of an access is performed. -/
def Access.complete (a : Access) : Bool := a.parts.all fun p => p.done

/-- Mark an instruction complete and lower its counter in issue order (R76): the completed instructions at the front
of a counter's order leave the list. -/
def pendFront : List Ctr → List Pend → List Pend
  | _, [] => []
  | blocked, p :: r =>
    if blocked.contains p.ctr then p :: pendFront blocked r
    else if p.done then pendFront blocked r
    else p :: pendFront (p.ctr :: blocked) r
def pendDone (uid : Nat) (l : List Pend) : List Pend :=
  pendFront [] (l.map fun p => if p.uid = uid then { p with done := true } else p)

/-- The value of a counter (R76). -/
def ctrVal (l : List Pend) (c : Ctr) : Nat := (l.filter fun p => p.ctr == c).length

/-- A pending instruction of some warps completes (R76, R78); the workgroups whose counters fell are active (R389). -/
def State.pendComplete (s : State) (uid : Nat) : State :=
  let hit (w : Warp) : Bool := w.pend.any fun p => p.uid == uid
  let wgs := (s.warps.filter fun e => decide ((pendDone uid e.2.pend).length < e.2.pend.length)).map fun e => e.2.wg
  { s with
    warps := s.warps.map fun e => if hit e.2 then (e.1, { e.2 with pend := pendDone uid e.2.pend }) else e
    wgs := s.wgs.map fun e => if wgs.contains e.1 then (e.1, { e.2 with active := s.tick }) else e }

/-- An access that is complete leaves the machine and lowers its counter. -/
def State.accSettle (s : State) (uid : Nat) : State :=
  match mapFind s.accs uid with
  | none => s
  | some a => if a.complete then { s with accs := mapDel s.accs uid }.pendComplete uid else s

end Sys2Proof.Machine
end

