-- ==== Sys2Proof/Machine/Translate.lean ====
section
/-! DEFINITION. Translation (spec 02): page walks, TLBs, the miss table, fault records and their queues. -/

namespace Sys2Proof.Machine

/-- What a walk gives (R38 to R42): a leaf with the address and value of its PTE, or a fault. -/
inductive WalkRes where
  | leaf (e : TlbEntry) (pteAddr : Nat) (pte : Nat)
  | fault (f : WalkFault)
  deriving DecidableEq, Repr

/-- Whether a virtual address is canonical for the context's mode (R30). -/
def Ctx.canonical (c : Ctx) (va : Dword) : Bool :=
  if c.sv57 then decide (va.extractLsb' 57 7 = if va.getLsbD 56 then 0x7F#7 else 0#7)
  else decide (va.extractLsb' 48 16 = if va.getLsbD 47 then 0xFFFF#16 else 0#16)

/-- The virtual page number at 4 KiB of an address, within the mode's width. -/
def Ctx.vpn (c : Ctx) (va : Dword) : Nat := va.toNat % 2 ^ (if c.sv57 then 57 else 48) / 4096

/-- The permissions that an access kind of R39 lacks in a leaf: 0 read, 1 write, 2 atomic, 3 fetch. -/
def leafLacks (access : Nat) (r w x : Bool) : Bool :=
  if access = 0 then !r else if access = 1 then !w else if access = 2 then !(r && w) else !x

/-- Whether an access kind writes, so that it needs D (R41). -/
def accWrites (access : Nat) : Bool := decide (access = 1) || decide (access = 2)

/-- The defects of a leaf in the order of R38, permissions apart: TYPE 1, 4, 3. -/
def leafFault (sv57 : Bool) (level pte : Nat) : Option Nat :=
  let n := bitOf pte 63
  let ppn := bitsOf pte 53 10
  if (bitOf pte 2 && !bitOf pte 1) || decide (bitsOf pte 60 54 ≠ 0) || (n && decide (0 < level)) ||
      (n && decide (ppn % 16 ≠ 8)) || decide (bitsOf pte 62 61 = 3) || decide (4 ≤ level && sv57) then some 1
  else if ppn % 2 ^ (9 * level) ≠ 0 then some 4
  else if !bitOf pte 4 then some 3
  else none

/-- The TLB entry of a leaf. -/
def leafEntry (asid vpn level pte : Nat) : TlbEntry :=
  let span := if bitOf pte 63 then 4 else 9 * level
  let ppn := bitsOf pte 53 10
  { asid := asid, vpn := vpn / 2 ^ span * 2 ^ span, span := span
    ppn := ppn / 2 ^ span * 2 ^ span, level := level
    r := bitOf pte 1, w := bitOf pte 2, x := bitOf pte 3, glob := bitOf pte 5, d := bitOf pte 7
    nc := bitsOf pte 62 61 == 1, io := bitsOf pte 62 61 == 2 }

/-- A walk (R38, R42): what it gives, the non-leaf PTEs that it met, for the walk caches, and the addresses of all PTEs that it
read. -/
structure PageWalk where
  res : WalkRes
  cache : List WalkEntry
  reads : List Nat
  deriving DecidableEq, Repr

/-- A walk of a die from the table at `table` on `level` (R38, R42), with what it has met so far. A PTE whose home is offline is
not read (R99). -/
def walkFrom (s : State) (die : Nat) (c : Ctx) (vpn : Nat) : Nat → Nat → Nat → List WalkEntry → List Nat → PageWalk
  | 0, level, _, ws, rs => ⟨.fault ⟨1, level, 0⟩, ws, rs⟩
  | fuel + 1, level, table, ws, rs =>
    let addr := table * 4096 + 8 * (vpn / 2 ^ (9 * level) % 512)
    if !paOpen s.attic s.window addr then ⟨.fault ⟨5, level, 0⟩, ws, rs⟩
    else if paHomed addr && s.offline.contains (homeOf (addr / 128)) && !s.dieHolds die (addr / 128) then
      ⟨.fault ⟨6, level, homeOf (addr / 128)⟩, ws, rs⟩
    else
      let rs := addr :: rs
      let pte := s.viewNat addr 8
      if !bitOf pte 0 then ⟨.fault ⟨0, level, 0⟩, ws, rs⟩
      else if bitsOf pte 3 1 = 0 then
        if bitsOf pte 60 54 ≠ 0 ∨ bitOf pte 63 ∨ bitsOf pte 62 61 ≠ 0 ∨ level = 0 then ⟨.fault ⟨1, level, 0⟩, ws, rs⟩
        else
          let ppn := bitsOf pte 53 10
          walkFrom s die c vpn fuel (level - 1) ppn (⟨c.asid, level - 1, vpn / 2 ^ (9 * level), ppn⟩ :: ws) rs
      else
        match leafFault c.sv57 level pte with
        | some t => ⟨.fault ⟨t, level, 0⟩, ws, rs⟩
        | none => ⟨.leaf (leafEntry c.asid vpn level pte) addr pte, ws, rs⟩

/-- The deepest walk-cache entry that covers a page, or the root. -/
def walkStart (d : Die) (c : Ctx) (vpn : Nat) : Nat × Nat :=
  let top := if c.sv57 then 4 else 3
  let hit (l : Nat) (w : WalkEntry) : Bool :=
    w.asid == c.asid && w.level == l && w.pre == vpn / 2 ^ (9 * (l + 1))
  match (List.range top).findSome? fun l => (d.walkc.find? (hit l)).map fun w => (l, w.ppn) with
  | some a => a
  | none => (top, c.root)

/-- A walk for a page on a die. -/
def State.walk (s : State) (die : Nat) (c : Ctx) (vpn : Nat) : PageWalk :=
  let (level, table) := walkStart (s.die die) c vpn
  walkFrom s die c vpn (level + 1) level table [] []

/-- Whether a walk has to wait for a line that is on its way. -/
def PageWalk.busy (w : PageWalk) (s : State) : Bool := w.reads.any s.paBusy

/-- The reads of a walk of a die: requester class 8 (R42, R105). -/
def PageWalk.touch (w : PageWalk) (die : Nat) (s : State) : State := w.reads.foldr (fun a s => s.homeTouch (some die) a 8 false) s

/-- What setting A, and D for a write, in a leaf that is about to be used came to (R41): done, waiting for its line, or its home
is offline, since the update is performed there. -/
inductive Marked where
  | done (s : State)
  | busy
  | offline (home : Nat)
  deriving DecidableEq, Repr

def State.markLeaf (s : State) (addr pte : Nat) (write : Bool) : Marked :=
  let new := pte ||| 0x40 ||| (if write then 0x80 else 0)
  if new = pte then .done s
  else if paHomed addr && s.isOffline (homeOf (addr / 128)) then .offline (homeOf (addr / 128))
  else if s.paBusy addr then .busy
  else .done ((s.homeTouch none addr 8 true).sysWrite addr (leBytes 8 new))

/-- Whether a TLB entry covers a page of an address space (R38: G matches every ASID). -/
def TlbEntry.covers (e : TlbEntry) (asid vpn : Nat) : Bool :=
  (e.glob || e.asid == asid) && vpn / 2 ^ e.span == e.vpn / 2 ^ e.span

/-- Whether an entry can serve an access: a cached entry with D = 0 never satisfies a write (R41). -/
def TlbEntry.serves (e : TlbEntry) (access : Nat) : Bool := !accWrites access || e.d

/-- The physical address under an entry. -/
def TlbEntry.pa (e : TlbEntry) (va : Dword) : Nat :=
  let off := va.toNat % 2 ^ (12 + e.span)
  e.ppn * 4096 + off

/-- What a translation gives: a physical address with PBMT NC and the IO mark, a walk under way, or a fault. -/
inductive Tr where
  | ok (pa : Nat) (nc io : Bool)
  | walking
  | fault (f : WalkFault)
  deriving DecidableEq, Repr

/-- Judge a leaf for an access (R38, R39). -/
def TlbEntry.judge (e : TlbEntry) (access : Nat) (va : Dword) : Tr :=
  if leafLacks access e.r e.w e.x then .fault ⟨2, e.level, 0⟩ else .ok (e.pa va) e.nc e.io

/-- Add an entry to a micro-TLB: the newest first, at most 128 (R43). -/
def addUtlb (l : List TlbEntry) (e : TlbEntry) : List TlbEntry :=
  (e :: l.filter fun x => decide (x ≠ e)).take 128

/-- The result of a walk that a waiter has still to take. -/
def Miss.answers (m : Miss) (asid vpn : Nat) (w : Waiter) : Option WalkFault :=
  if m.ctx.asid = asid ∧ m.vpn = vpn ∧ m.waits.contains w then m.res else none

/-- Whether an entry stands for a page that is waited for (R43: one for each ASID and page). -/
def Miss.pends (m : Miss) (asid vpn : Nat) : Bool := m.res.isNone && m.ctx.asid == asid && m.vpn == vpn

/-- A lookup that a leaf serves takes its requester off the page's entries: it waits for that page no more. -/
def State.taken (s : State) (die asid vpn : Nat) (w : Waiter) : State :=
  let d := s.die die
  if d.miss.isEmpty then s
  else
    let off (m : Miss) : Miss :=
      if m.ctx.asid = asid ∧ m.vpn = vpn then { m with waits := m.waits.filter fun x => decide (x ≠ w) } else m
    s.setDie die { d with miss := (d.miss.map off).filter fun m => !m.waits.isEmpty }

/-- The set of a leaf in an L2 TLB (R43): 2 048 sets of 8 ways, each page size with its own index. DESIGN CHOICE (log 87): the low
bits of its page number, and the oldest entry of a full set gives way. -/
def TlbEntry.set (e : TlbEntry) : Nat := e.vpn / 2 ^ e.span % 2048

/-- The entry of a die's L2 TLB that a lookup would use is read (R100, R101): one that fails is dropped, as a clean copy is. -/
def State.tlbSound (s : State) (die : Nat) (use : TlbEntry → Bool) : State :=
  if s.bad.isEmpty then s
  else
    match (s.die die).tlb.find? use with
    | none => s
    | some e =>
      let i := (listIndex (fun x : TlbEntry => decide (x = e)) ((s.die die).tlb.filter fun x => x.set == e.set)).getD 0
      match s.sramRead (.tlb die) e.set (BitVec.ofNat 8 (2 ^ i)) false with
      | (s, 0) => s
      | (s, _) =>
        (s.setDie die { s.die die with tlb := (s.die die).tlb.filter fun x => decide (x ≠ e) }).badRenumber (.tlb die) fun l n =>
          some (l, if l = e.set ∧ i < n then n - 1 else n)

/-- Look a page up in the core's micro-TLB, then the die's L2 TLB, then the miss table, where a miss to a page that is waited for
attaches to its entry (R43, R44). -/
def State.translate (s : State) (core : Nat) (c : Ctx) (w : Waiter) (va : Dword) : State × Tr :=
  let vpn := c.vpn va
  let dn := core / 96
  let k := s.core core
  let usable (e : TlbEntry) : Bool := e.covers c.asid vpn && (e.serves w.access || leafLacks w.access e.r e.w e.x)
  match k.utlb.find? usable with
  | some e => (s.taken dn c.asid vpn w, e.judge w.access va)
  | none =>
    let s := s.tlbSound dn usable
    let d := s.die dn
    match d.tlb.find? usable with
    | some e => ((s.setCore core { k with utlb := addUtlb k.utlb e }).taken dn c.asid vpn w, e.judge w.access va)
    | none =>
      match d.miss.findSome? fun m => m.answers c.asid vpn w with
      | some f => (s, .fault f)
      | none =>
        match listIndex (fun m : Miss => m.pends c.asid vpn) d.miss with
        | some i =>
          let add (m : Miss) : Miss := if m.waits.contains w then m else { m with waits := m.waits ++ [w] }
          (s.setDie dn { d with miss := listModify add d.miss i }, .walking)
        | none =>
          if 2048 ≤ (d.miss.filter fun m => m.res.isNone).length then (s, .walking)
          else (s.setDie dn { d with miss := d.miss ++ [⟨c, vpn, [w], none⟩] }, .walking)

/-- An instruction that traps, parks or drops what it could not reach, or a job, waits for no page any more and has taken the results
of its walks (R44, R45): until then they stay with their entries. -/
def State.forgetMiss (s : State) (die who : Nat) (pc : Dword) : State :=
  let d := s.die die
  if d.miss.isEmpty then s
  else
    s.setDie die { d with miss :=
      (d.miss.map fun m => { m with waits := m.waits.filter fun w => !(w.who == who && w.pc == pc) }).filter fun m => !m.waits.isEmpty }

/-- Requesters that are saved wait for no page any more. -/
def State.forgetAll (s : State) (die : Nat) (ids : List Nat) : State :=
  let d := s.die die
  s.setDie die { d with miss :=
    (d.miss.map fun m => { m with waits := m.waits.filter fun w => !ids.contains w.who }).filter fun m => !m.waits.isEmpty }

/-! A walk ends (R41 to R44) -/

/-- The entries of a list less the last one that meets a test. -/
def dropLast {α : Type} (p : α → Bool) (l : List α) : List α :=
  match listIndex p l.reverse with
  | some i => listRemove l (l.length - 1 - i)
  | none => l

/-- Put a leaf into a die's L2 TLB, the newest first (R43). -/
def Die.addLeaf (d : Die) (e : TlbEntry) : Die :=
  let l := e :: d.tlb.filter fun x => decide (x ≠ e)
  { d with tlb := if 8 < (l.filter fun x => x.set == e.set).length then dropLast (fun x => x.set == e.set) l else l }

/-- Put non-leaf PTEs into a die's walk caches, 1 024 to a level (R43). -/
def Die.addWalks (d : Die) (ws : List WalkEntry) : Die :=
  { d with walkc := ws.foldl (fun l w =>
      let l := w :: l.filter fun x => decide (x ≠ w)
      if 1024 < (l.filter fun x => x.level == w.level).length then dropLast (fun x => x.level == w.level) l else l) d.walkc }

/-- Those who wait for a page that a leaf covers look it up now (R44), but for a write that needs D in its PTE (R41). -/
def Miss.served (m : Miss) (e : TlbEntry) : Miss :=
  if m.res.isNone && e.covers m.ctx.asid m.vpn then
    { m with waits := m.waits.filter fun w => !(e.serves w.access || leafLacks w.access e.r e.w e.x) }
  else m

/-- The pages that are waited for in a list of entries. -/
def pendingPages (l : List Miss) : Nat := (l.filter fun m => m.res.isNone).length

/-- The walk of the `k`-th miss of a die ends (R38 to R44): one of the 64 walkers has it if fewer than 64 misses are older. A fault is
not cached: those who waited take it. A leaf whose permissions all of them lack is not used, and neither cached nor marked. -/
def State.walkEnd (s : State) (die k : Nat) : State :=
  match (s.die die).miss[k]? with
  | none => s
  | some m =>
    let w := s.walk die m.ctx m.vpn
    if m.res.isSome || decide (64 ≤ pendingPages ((s.die die).miss.take k)) || w.busy s then s
    else
      let s0 := w.touch die s
      let fail (f : WalkFault) : State :=
        s0.setDie die { s0.die die with miss := listModify (fun m => { m with res := some f }) (s0.die die).miss k }
      match w.res with
      | .fault f => fail f
      | .leaf e addr pte =>
        let users := m.waits.filter fun x => !leafLacks x.access e.r e.w e.x
        let write := users.any fun x => accWrites x.access
        if users.isEmpty then fail ⟨2, e.level, 0⟩
        else
          match if e.io then .done s0 else s0.markLeaf addr pte write with
          | .busy => s
          | .offline h => fail ⟨6, e.level, h⟩
          | .done s =>
            let e := { e with d := e.d || write }
            let s := s.badRenumber (.tlb die) fun l n => if l ≠ e.set then some (l, n) else if 7 ≤ n then none else some (l, n + 1)
            let d := ((s.die die).addLeaf e).addWalks w.cache
            s.setDie die { d with miss := (d.miss.map fun m => m.served e).filter fun m => !m.waits.isEmpty }

/-! Units that are no core -/

/-- What an address of a unit that is no core translates to (R30, R38 to R42): a unit uses no TLB. -/
inductive PartTr where
  | ok (pa : Nat)
  | busy
  | violation
  | fault (ftype level home : Nat)
  deriving DecidableEq, Repr

def State.partTranslate (s : State) (die : Nat) (c : Ctx) (access : Nat) (va : Dword) : State × PartTr :=
  if !c.canonical va then (s, .violation)
  else
    let w := s.walk die c (c.vpn va)
    let s0 := w.touch die s
    if w.busy s then (s, .busy)
    else
      match w.res with
      | .fault f => (s0, .fault f.ftype f.level f.home)
      | .leaf e addr pte =>
        if leafLacks access e.r e.w e.x then (s0, .fault 2 e.level 0)
        else if e.io then (s0, .violation)
        else
          match s0.markLeaf addr pte (accWrites access) with
          | .busy => (s, .busy)
          | .offline h => (s0, .fault 6 e.level h)
          | .done s1 =>
            let pa := e.pa va
            if !paOpen s.attic s.window pa then (s1, .violation)
            else if paHomed pa ∧ s.isOffline (homeOf (pa / 128)) then (s1, .fault 6 0 (homeOf (pa / 128)))
            else if s.paBusy pa then (s, .busy)
            else (s1, .ok pa)

/-! Fault records -/

/-- The bytes of a fault record with its phase (R47). -/
def FaultRec.bytes (r : FaultRec) (phase : Bool) : List Byte :=
  leBytes 32 (r.va.toNat + r.place.toNat * 2 ^ 64 + r.level * 2 ^ 137 + r.ftype * 2 ^ 140 +
    r.access * 2 ^ 144 + r.side * 2 ^ 148 + r.seq * 2 ^ 152 + r.unit * 2 ^ 160 + r.core * 2 ^ 166 +
    r.asid * 2 ^ 176 + (r.tick % 2 ^ 63) * 2 ^ 192 + (if phase then 2 ^ 255 else 0))

/-- The state of a fault queue: empty at first, with phase 1. -/
def FaultQueue.reset : FaultQueue := ⟨0, 0, true, none⟩
def Die.fq (d : Die) (slot : Nat) : FaultQueue := storeGet FaultQueue.reset d.fqs slot
def Die.setFq (d : Die) (slot : Nat) (q : FaultQueue) : Die :=
  { d with fqs := storeSet FaultQueue.reset d.fqs slot q }

/-- The records that a context's queue holds (R36). -/
def Ctx.fqLen (c : Ctx) : Nat := 2 ^ (c.fqsize + 6)

/-- Write one record to a die's queue (R48, R49): none when the queue is full. -/
def State.writeRecord (s : State) (die : Nat) (c : Ctx) (r : FaultRec) : Option State :=
  let d := s.die die
  let q := d.fq c.slot
  let n := c.fqLen
  if (q.tail + 1) % n = q.head % n then none
  else
    let base := c.fqbase * 4096 + die * 32 * n
    let s := (s.homeTouch (some die) (base + 32 * q.tail) 8 true).sysWrite (base + 32 * q.tail) (r.bytes q.phase)
    let t := (q.tail + 1) % n
    let empty := decide (q.tail = q.head % n)
    let q' : FaultQueue :=
      { q with tail := t, phase := if t = 0 then !q.phase else q.phase
               lastMsi := if empty then some s.tick else q.lastMsi }
    let s := s.setDie die ((s.die die).setFq c.slot q')
    some (if empty then s.msi (.faultQueue c.slot) c.fqvec else s)

/-- Make a record: into the queue, or held (R49). -/
def State.putRecord (s : State) (die : Nat) (c : Ctx) (r : FaultRec) : State :=
  if (s.die die).fheld.any fun x => x.slot == c.slot then
    s.setDie die { s.die die with fheld := (s.die die).fheld ++ [r] }
  else
    match s.writeRecord die c r with
    | some s => s
    | none => s.setDie die { s.die die with fheld := (s.die die).fheld ++ [r] }

/-- Write the held records of a context in order, as far as its queue takes them (R49). -/
def State.flushHeld : Nat → State → Nat → Ctx → State
  | 0, s, _, _ => s
  | fuel + 1, s, die, c =>
    let d := s.die die
    match listIndex (fun r : FaultRec => r.slot == c.slot) d.fheld with
    | none => s
    | some i =>
      match d.fheld[i]? with
      | none => s
      | some r =>
        match s.writeRecord die c r with
        | none => s
        | some s' =>
          State.flushHeld fuel (s'.setDie die { s'.die die with fheld := listRemove (s'.die die).fheld i }) die c

/-- `%trapimm`[11:0] of a rejected fault: bits [151:140] of the record (R52). -/
def Park.rejectImm (p : Park) : Word := BitVec.ofNat 32 (p.side * 256 + p.access * 16 + p.ftype)

end Sys2Proof.Machine
end

