-- ==== Sys2Proof/Machine/Warp.lean ====
section
/-! DEFINITION. A warp's registers, masks and paths (spec 07 R158 to R170, 08 R209): what one warp alone determines. -/

namespace Sys2Proof.Machine

/-- The number of registers of a mask group (R164). -/
def Warp.g (w : Warp) : Nat := max 1 (w.width / 32)

/-- All lanes of a warp's width. -/
def Warp.all (w : Warp) : LaneMask := laneAll w.width

/-- Read and write a scalar register. -/
def Warp.sreg (w : Warp) (r : Nat) : Word := storeGet 0 w.sregs r
def Warp.setSreg (w : Warp) (r : Nat) (v : Word) : Warp := { w with sregs := storeSet 0 w.sregs r v }

/-- A pair of scalar registers, low word first (R30, R212). -/
def Warp.spair (w : Warp) (r : Nat) : Dword := pairOf (w.sreg r) (w.sreg (r + 1))
def Warp.setSpair (w : Warp) (r : Nat) (v : Dword) : Warp := (w.setSreg r (loWord v)).setSreg (r + 1) (hiWord v)

/-- A mask group; bits from the width upward are ignored (R164). -/
def Warp.group (w : Warp) (r : Nat) : LaneMask :=
  (w.sreg (r + 3) ++ w.sreg (r + 2) ++ w.sreg (r + 1) ++ w.sreg r) &&& w.all

/-- Write a mask group: for widths below 32 the upper bits are 0 (R164). -/
def Warp.setGroup (w : Warp) (r : Nat) (m : LaneMask) : Warp :=
  (List.range w.g).foldl (fun w i => w.setSreg (r + i) ((m &&& w.all).extractLsb' (32 * i) 32)) w

/-- The lanes that a guard selects (R164). -/
def Warp.active (w : Warp) (gen ginv : Bool) (gs : Nat) : LaneMask :=
  if gen then w.exec &&& (if ginv then ~~~w.group gs else w.group gs) else w.exec

/-- Lanes that have not left live and helper. -/
def Warp.present (w : Warp) : LaneMask := w.live ||| w.helper

/-- Two kinds of parked path are one for the path table (R165): the JOIN's mask R apart. -/
def PathKind.same (a b : PathKind) : Bool :=
  match a, b with
  | .ready, .ready => true
  | .join _, .join _ => true
  | .bar (.next _), .bar (.next _) => true
  | .bar x, .bar y => x == y
  | _, _ => false

def PathKind.isReady : PathKind → Bool
  | .ready => true
  | _ => false

/-- Whether a parked path would be merged into an entry (R165); a path blocked by a fault keeps its own entry. -/
def Path.takes (e p : Path) : Bool := e.pc == p.pc && e.kind.same p.kind && e.park.isNone && p.park.isNone

/-- Whether some entry can take a path (R165): one with the same PC and state, or a free one. -/
def canPark (l : List Path) (p : Path) : Bool := l.any (fun e => e.takes p) || decide (l.length < 16)

/-- Park a path (R165): a JOIN entry keeps the mask R of the last arrival, a READY entry the later wake. -/
def parkPath : List Path → Path → List Path
  | [], p => [p]
  | e :: r, p =>
    if e.takes p then { e with mask := e.mask ||| p.mask, kind := p.kind, wake := max e.wake p.wake, nap := e.nap || p.nap } :: r
    else e :: parkPath r p

/-- The lanes whose issued accesses wait for an offline home: the paths that hold one of them are parked (R54, R397). -/
def Warp.offMask (w : Warp) : LaneMask := w.offl.foldl (fun m o => m ||| o.mask) 0

/-- A path that switch() may choose, when the lanes `off` wait for an offline home. -/
def Path.runnable (off : LaneMask) (p : Path) : Bool :=
  p.kind.isReady && decide (p.mask &&& off = 0) && (match p.park with | none => true | some k => k.answer.isSome)

/-- The runnable entry with the lowest PC (R168): its position. -/
def lowestReady (off : LaneMask) (l : List Path) : Option Nat :=
  ((List.range l.length).filter fun i => match l[i]? with
    | some p => p.runnable off
    | none => false).foldl (fun best i =>
      match best with
      | none => some i
      | some j =>
        match l[i]?, l[j]? with
        | some p, some q => if p.pc.toNat < q.pc.toNat then some i else best
        | _, _ => best) none

/-- Make an entry the running path (R168); `now` is the clock. -/
def Warp.runPath (w : Warp) (p : Path) (now : Nat) : Warp :=
  { w with running := true, pc := p.pc, exec := p.mask, wake := p.wake, nap := p.nap, slice := now, block := p.park }

/-- `switch()` (R168): without a runnable entry no path runs. -/
def Warp.switch (w : Warp) (now : Nat) : Warp :=
  match lowestReady w.offMask w.paths with
  | none => { w with running := false, exec := 0 }
  | some i =>
    match w.paths[i]? with
    | none => { w with running := false, exec := 0 }
    | some p => { w with paths := listRemove w.paths i }.runPath p now

/-- The running path as an entry. -/
def Warp.asPath (w : Warp) (pc : Dword) (kind : PathKind) (wake : Nat) (nap : Bool) : Path := ⟨pc, w.exec, kind, wake, none, nap⟩

/-- Give up the running path at `pc` for another READY entry (R168): after a NAP, a YIELD or the 4 096-clock rule the
path goes on when there is no other; when the table cannot take it, it keeps running. -/
def Warp.yieldTo (w : Warp) (pc : Dword) (wake : Nat) (nap : Bool) (now : Nat) : Warp :=
  let p := w.asPath pc .ready wake nap
  if w.handler ∨ (lowestReady w.offMask w.paths).isNone ∨ !canPark w.paths p then
    { w with pc := pc, wake := wake, nap := nap, slice := now }
  else
    let v := w.switch now
    { v with paths := parkPath v.paths p }

/-- Wait at the running instruction (R168): the path parks READY there and the lowest READY entry runs; when it is
chosen again, or cannot park, it goes on waiting with its count of clocks. -/
def Warp.waitHere (w : Warp) (now : Nat) : Warp :=
  let p := w.asPath w.pc .ready 0 false
  if w.handler ∨ !canPark w.paths p then w
  else
    let v := { w with paths := parkPath w.paths p }.switch now
    if v.pc = w.pc then { v with slice := w.slice } else v

/-- Whether a JOIN's condition holds for lanes `m` (R167). -/
def joinMet (live r m : LaneMask) : Bool := decide (r &&& live &&& ~~~m = 0)

/-- Whether an entry is a JOIN whose condition holds. -/
def Path.joinMet (live : LaneMask) (p : Path) : Bool :=
  match p.kind with
  | .join m => Machine.joinMet live m p.mask
  | _ => false

/-- Move the entries that meet `t` on to PC + 8, READY (R169, R171). -/
def readyUp (t : Path → Bool) (l : List Path) : List Path :=
  (l.filter t).foldl (fun acc p => parkPath acc { p with pc := p.pc + 8, kind := .ready, wake := 0 })
    (l.filter fun p => !t p)

/-- Complete every JOIN entry whose condition holds (R169): it becomes READY at its PC + 8. -/
def joinEval (live : LaneMask) (l : List Path) : List Path := readyUp (fun p => p.joinMet live) l

/-- Take lanes out of every entry; empty entries are dropped (R165, R169). -/
def maskPaths (keep : LaneMask) (l : List Path) : List Path :=
  (l.map fun p => { p with mask := p.mask &&& keep }).filter fun p => decide (p.mask ≠ 0)

/-- A warp all of whose lanes are gone (R169, R388). -/
def Warp.endAll (w : Warp) : Warp :=
  { w with live := 0, helper := 0, exec := 0, running := false, paths := [], handler := false, trapExec := 0
           held := [], fuse := none, stall := none, block := none, offl := [], wake := 0, nap := false, trapWake := 0, trapNap := none }

/-- Steps 1, 2 and 4 of R169 after lanes have left live and helper. In handler mode the handler goes on (R384). -/
def Warp.leave (w : Warp) (now : Nat) : Warp :=
  let w := { w with exec := w.exec &&& w.present, paths := joinEval w.live (maskPaths w.present w.paths) }
  if w.present = 0 then w.endAll
  else if w.running ∧ w.exec = 0 ∧ !w.handler then w.switch now else w

/-- Whether the warp has ended (R169): no lane is live or a helper. -/
def Warp.ended (w : Warp) : Bool := decide (w.present = 0)

/-- Whether no path can go on and the entries are not all one barrier (R170); an empty table is no such case (log 11). -/
def Warp.diverged (w : Warp) : Bool :=
  !w.running && !w.paths.any (fun p => p.kind.isReady) &&
  (match w.paths with
   | [] => false
   | p :: r => !((match p.kind with | .bar _ => true | _ => false) && r.all fun q => q.pc == p.pc && q.kind.same p.kind))

/-- Whether every live lane is parked at barriers of one kind and one PC (R171). -/
def Warp.arrived (w : Warp) (k : BarKind) : Bool :=
  w.paths.any fun p => p.kind.same (.bar k) &&
    decide (w.live &&& ~~~((w.paths.filter fun q => q.pc == p.pc && q.kind.same p.kind).foldl (fun m q => m ||| q.mask) 0) = 0)

/-- Release the BAR entries of a kind (R171): the entry runs at PC + 8 if no path runs, else it becomes READY. -/
def Warp.release (w : Warp) (k : BarKind) (now : Nat) : Warp :=
  let w := { w with paths := readyUp (fun p => p.kind.same (.bar k)) w.paths }
  if w.running || w.handler then w else w.switch now

/-- Write MODE's sticky flags. -/
def Warp.raise (w : Warp) (fl : BitVec 5) : Warp := { w with mode := modeRaise w.mode fl }

/-- A warp as it is created (R160, R161). -/
def Warp.create (wg width famOff warpid pair col row0 : Nat) (slots : List Nat) (pc param : Dword) (age now : Nat) : Warp where
  wg := wg
  width := width
  famOff := famOff
  warpid := warpid
  splitIdx := 0
  pair := pair
  col := col
  row0 := row0
  slots := slots
  pc := pc
  running := true
  exec := laneAll width
  live := laneAll width
  helper := 0
  paths := []
  sregs := storeSet 0 (storeSet 0 [] 0 (loWord param)) 1 (hiWord param)
  mode := modeReset
  pend := []
  handler := false
  trapExec := 0
  boundary := false
  cause := 0
  trappc := 0
  trapaddr := 0
  trapimm := 0
  trapsrc := 0
  held := []
  tickLatch := none
  seq := 0
  block := none
  offl := []
  wake := 0
  nap := false
  trapWake := 0
  trapNap := none
  notBefore := 0
  slice := now
  age := age
  fuse := none
  stall := none
  fetched := []

end Sys2Proof.Machine
end

