-- ==== Sys2Proof/Machine/Ops.lean ====
section
/-! DEFINITION. The shared operations on warps and workgroups: what an instruction works on and how it ends, taking a
trap and returning (spec 16 R384 to R388), ending lanes, warps and workgroups, barriers (07 R169 to R172), parking on
a fault (02 R45). -/

namespace Sys2Proof.Machine

/-- What an instruction works on: its warp and workgroup, and the rest of the machine. -/
structure Thread where
  s : State
  id : Nat
  w : Warp
  g : Workgroup
  deriving DecidableEq, Repr

/-- How an instruction ends: it goes on at the next instruction; control is as it says; lanes have left, or wait for
other warps, so that barriers and FUSE are looked at again; it has parked its path at a JOIN or a barrier, or ended lanes,
so that divergence may arise (R170), with the trap exec that it would have; it traps; it has not been executed and is tried
again; or the whole state is as it says. -/
inductive Res where
  | next (t : Thread)
  | go (t : Thread)
  | left (t : Thread)
  | parked (t : Thread) (m : LaneMask)
  | trap (t : Thread) (cause : Nat) (addr : Dword) (imm : Word)
  | again (t : Thread)
  | state (s : State)
  deriving DecidableEq, Repr

/-- Write a thread's warp and workgroup back. -/
def Thread.put (t : Thread) : State :=
  { t.s with warps := mapPut t.s.warps t.id t.w, wgs := mapPut t.s.wgs t.w.wg t.g }

/-- A launch of the state; the empty one for a number that names none. -/
def Image.empty : Image := ⟨0, 0, 0, 0, 1, 0, 0, 0, 0, 0, 0, false, 0, []⟩
def Ctx.empty : Ctx := ⟨0, false, 0, 0, 0, 0, 0, 0, false⟩
def Launch.empty : Launch where
  ctx := Ctx.empty
  image := Image.empty
  param := 0
  latch := 0
  levels := []
  prio := 0
  coop := false
  reissue := false
  depth := 0
  recv := 0
  order := 0
  spans := []
  nspans := 0
  nextIdx := 0
  again := []
  batches := []
  leader := 0
  mirror := none
  kill := none
  lost := false
  suspended := false
  purpose := .plain
def State.launch (s : State) (l : Nat) : Launch := (mapFind s.launches l).getD Launch.empty
def State.setLaunch (s : State) (l : Nat) (x : Launch) : State := { s with launches := mapPut s.launches l x }
def Thread.launch (t : Thread) : Launch := t.s.launch t.g.launch
def Thread.ctx (t : Thread) : Ctx := t.launch.ctx
def Thread.die (t : Thread) : Nat := t.g.die
def Thread.core (t : Thread) : Nat := t.g.core

/-- A warp and a workgroup changed in place. -/
def State.modWarp (s : State) (id : Nat) (f : Warp → Warp) : State :=
  match mapFind s.warps id with
  | some w => { s with warps := mapPut s.warps id (f w) }
  | none => s
def State.modWg (s : State) (id : Nat) (f : Workgroup → Workgroup) : State :=
  match mapFind s.wgs id with
  | some g => { s with wgs := mapPut s.wgs id (f g) }
  | none => s

/-- The warps of a workgroup. -/
def State.warpsOf (s : State) (wg : Nat) : List (Nat × Warp) := s.warps.filter fun e => e.2.wg == wg

/-- Kill a workgroup (R388): every warp ends; the launch keeps die and cause of the first kill. -/
def State.killWg (s : State) (wg cause : Nat) : State :=
  match mapFind s.wgs wg with
  | none => s
  | some g =>
    let l := s.launch g.launch
    let s := if (mapFind s.launches g.launch).isSome ∧ l.kill.isNone then
        s.setLaunch g.launch { l with kill := some (g.die, cause) } else s
    { s with
      wgs := mapPut s.wgs wg { g with killed := some (g.killed.getD cause) }
      warps := s.warps.map fun e => if e.2.wg = wg then (e.1, e.2.endAll) else e }

/-- The workgroups of the cluster of a workgroup, itself among them (R155). -/
def State.clusterOf (s : State) (g : Workgroup) : List (Nat × Workgroup) :=
  let c := (s.launch g.launch).image.cluster
  s.wgs.filter fun e => e.2.launch == g.launch && e.2.die == g.die && e.2.d == g.d && e.2.w / c == g.w / c

/-- The workgroups that a barrier counts (R171, R275, R355). -/
def State.barGroup (s : State) (wg : Nat) (k : BarKind) : List Nat :=
  match mapFind s.wgs wg with
  | none => []
  | some g =>
    match k with
    | .bar | .next _ => [wg]
    | .barc => (s.clusterOf g).map (·.1)
    | .bard => (s.wgs.filter fun e => e.2.launch == g.launch).map (·.1)

/-- Whether an access of these workgroups is still outstanding, for the fence of a barrier (R137): what warps that have ended
issued counts with the rest. -/
def State.outstanding (s : State) (gs : List Nat) : Bool :=
  s.accs.any fun e => !e.2.kind.isPref && gs.contains e.2.wg

/-- Whether a workgroup is stopped for a save, or saved: its arrivals wait with it (R172). -/
def State.away (s : State) (wg : Nat) : Bool :=
  match mapFind s.wgs wg with
  | some g => decide (g.phase = .draining) || decide (g.phase = .saved)
  | none => false

/-- Whether a barrier completes (R137, R171, R172): some warp waits at it, every warp has arrived or ended, no workgroup of it
is saved, and what they accessed before is performed. -/
def State.barrierDone (s : State) (gs : List Nat) (k : BarKind) : Bool :=
  let ws := s.warps.filter fun e => gs.contains e.2.wg && !e.2.ended
  ws.any (fun e => e.2.paths.any fun p => p.kind.same (.bar k)) && ws.all (fun e => e.2.arrived k) &&
    !gs.any s.away && !s.outstanding gs

/-- The product of the extents of the levels of one kind (R150). -/
def levelProduct (l : List (Nat × Nat)) (kind : Nat) : Nat :=
  (l.filter fun e => e.1 == kind).foldl (fun n e => n * e.2) 1

/-- The result register of a warp's NEXT entry. -/
def Warp.nextReg (w : Warp) : Option Nat :=
  w.paths.findSome? fun p => match p.kind with
    | .bar (.next sd) => some sd
    | _ => none

/-- Complete a barrier (R171); NEXT advances the T iteration and writes its code in every warp (R355). -/
def State.releaseBarrier (s : State) (gs : List Nat) (k : BarKind) : State :=
  let now := s.clock
  match k with
  | .next _ =>
    match gs with
    | wg :: _ =>
      match mapFind s.wgs wg with
      | none => s
      | some g =>
        let nt := levelProduct (s.launch g.launch).levels 3
        let more := decide (g.t + 1 < nt)
        let s : State := { s with wgs := mapPut s.wgs wg (if more then { g with t := g.t + 1 } else g) }
        { s with warps := s.warps.map fun e =>
            if e.2.wg = wg then
              match e.2.nextReg with
              | some sd => (e.1, (e.2.setSreg sd (if more then 0 else 1)).release k now)
              | none => e
            else e }
    | [] => s
  | _ => { s with warps := s.warps.map fun e => if gs.contains e.2.wg then (e.1, e.2.release k now) else e }

/-- Complete the barriers of a workgroup that are ready. -/
def State.evalBarriers (s : State) (wg : Nat) : State :=
  [BarKind.bar, .next 0, .barc, .bard].foldl (fun s k =>
    let gs := s.barGroup wg k
    if s.barrierDone gs k then s.releaseBarrier gs k else s) s

/-- Whether a lane of the sibling range of a warp is live (R175). -/
def State.siblingLive (s : State) (id : Nat) (w : Warp) : Bool :=
  let o := w.famOff ^^^ w.width
  (s.warpsOf w.wg).any fun e =>
    e.1 != id && decide (o ≤ e.2.famOff) && decide (e.2.famOff < o + w.width) && decide (e.2.live ≠ 0)

/-- A warp that waits in FUSE gets code 1 once its sibling range has no live lane (R176). -/
def State.fuseSettle (s : State) (wg : Nat) : State :=
  (s.warpsOf wg).foldl (fun s e =>
    match e.2.fuse with
    | some f =>
      if s.siblingLive e.1 e.2 then s
      else s.modWarp e.1 fun w => { (w.setSreg f.sd 1) with fuse := none, pc := w.pc + 8 }
    | none => s) s

/-- A cluster's scratch is freed when its last member has ended (R32, R60). -/
def State.freeCluster (s : State) (g : Workgroup) : State :=
  let c := s.clusterOf g
  if c.all fun e => decide (e.2.phase = .ended) then
    { s with wgs := s.wgs.map fun e =>
        if c.any fun x => x.1 == e.1 then (e.1, { e.2 with alloc := 0, scratch := [] }) else e }
  else s

/-- A batch counts one workgroup less; when it has ended the leader and the mirror are told (R333, R334). -/
def State.batchCount (s : State) (g : Workgroup) : State :=
  let l := s.launch g.launch
  match listIndex (fun b : Batch => b.die == g.die && decide (b.lo ≤ g.w) && decide (g.w < b.hi)) l.batches with
  | none => s
  | some i =>
    let bs := listModify (fun b => { b with left := b.left - 1 }) l.batches i
    match bs[i]? with
    | some b =>
      let s := s.setLaunch g.launch { l with batches := bs }
      if b.left = 0 then
        let tell := l.leader :: l.mirror.toList
        { s with ctl := s.ctl ++ tell.map fun d => ⟨g.die, d, .batchDone g.launch b.lo b.hi g.die⟩ }
      else s
    | none => s

/-- A matrix array that has no state of its own. -/
def Plane.zero : Plane := ⟨none, []⟩
def MatArray.zero : MatArray := ⟨none, Plane.zero, Plane.zero, []⟩
def State.array (s : State) (core : Nat) : MatArray := storeGet MatArray.zero s.arrays core
def State.setArray (s : State) (core : Nat) (a : MatArray) : State :=
  { s with arrays := storeSet MatArray.zero s.arrays core a }

/-- Whether a kind of job uses the matrix array (R302). -/
def JobKind.matrix : JobKind → Bool
  | .copy _ | .coll _ _ => false
  | _ => true

/-- The array is free once its owner has ended and the owner's matrix jobs have completed (R302). -/
def State.freeArray (s : State) (core : Nat) : State :=
  match (s.array core).owner with
  | none => s
  | some wg =>
    let gone := match mapFind s.wgs wg with
      | some g => decide (g.phase = .ended)
      | none => true
    if gone && !s.jobs.any (fun e => e.2.wg == wg && e.2.kind.matrix) then s.setArray core MatArray.zero else s

/-- A workgroup ends when its last warp is gone (R153, R171): its registers and slots are free; the record stays until
its launch ends. -/
def State.endWg (s : State) (wg : Nat) : State :=
  match mapFind s.wgs wg with
  | none => s
  | some g =>
    if g.phase = .ended ∨ !(s.warpsOf wg).isEmpty then s
    else
      let g := { g with phase := .ended, vregs := [], lfsr := [], frags := [] }
      let s := (({ s with wgs := mapPut s.wgs wg g }).freeCluster g).freeArray g.core
      (s.batchCount g).evalBarriers wg

/-- Ended warps whose counters are 0 give up their slots and rectangle (R169). -/
def State.reap (s : State) (wg : Nat) : State :=
  { s with warps := s.warps.filter fun e => !(e.2.wg == wg && e.2.ended && e.2.pend.isEmpty) }

/-- What follows a change of a workgroup's warps (R169, R171, R176). -/
def State.settle (s : State) (wg : Nat) : State :=
  (((s.fuseSettle wg).evalBarriers wg).reap wg).endWg wg

/-- Take a trap (R384): the trap registers, handler mode, the trap vector. A trap in handler mode, or with no vector,
kills the workgroup with the trap's cause (R385, R388). `pc` is what `%trappc` receives, `src` `%trapsrc`. -/
def Thread.takeTrap (t : Thread) (cause : Nat) (addr : Dword) (imm : Word) (pc src : Dword) (boundary : Bool) : State :=
  let l := t.launch
  let t := { t with s := t.s.forgetMiss t.die t.id t.w.pc }
  if t.w.handler ∨ l.image.trapvec = 0 then (t.put.killWg t.w.wg cause).settle t.w.wg
  else
    Thread.put { t with w := { t.w with
      cause := BitVec.ofNat 32 cause, trappc := pc, trapsrc := src, trapaddr := addr, trapimm := imm
      trapExec := t.w.exec, handler := true, boundary := boundary, running := true
      pc := l.image.base + l.image.trapvec, wake := 0, nap := false, trapWake := t.w.wake
      trapNap := if t.w.nap then some t.w.pc else none, fuse := none, stall := none, block := none } }

/-- A trap that an instruction raises, at its own PC (R384). -/
def Thread.trapHere (t : Thread) (cause : Nat) (addr : Dword) (imm : Word) : State :=
  t.takeTrap cause addr imm t.w.pc t.w.pc false

/-- Return from a handler (R233, R386): resume at `pc` with the trap exec, less what has left; a NAP that the trap interrupted
still waits out its clocks (R282), and runs again when a save has come in between (R180). -/
def Warp.trapReturn (w : Warp) (pc : Dword) (now : Nat) : Warp :=
  let e := w.trapExec &&& w.present
  let here := decide (w.trapNap = some pc)
  let w := { w with handler := false, exec := e, pc := if here && w.trapWake == 0 then pc - 8 else pc
                    wake := w.trapWake, nap := here, trapWake := 0, trapNap := none, slice := now }
  if e = 0 then w.switch now else w

/-- Whether a warp's instruction is being performed, so that its boundary is still to come: a REL whose update is on its way (stage 1
of its stall; before that, at stage 2, it waits for stores and jobs). -/
def Warp.midway (w : Warp) : Bool := w.stall.any fun x => x.stage == 1

/-- A trap attributed to a boundary (R384, R387): taken now when a path runs outside handler mode on a core, and no
parked or answered fault of it stands at that boundary (R52), else held; a ninth held trap kills the workgroup. A warp that is gone has its workgroup killed (R52). -/
def State.boundaryTrap (s : State) (wg id cause : Nat) (src addr : Dword) (imm : Word) : State :=
  match mapFind s.warps id, mapFind s.wgs wg with
  | some w, some g =>
    if w.ended then (s.killWg wg cause).settle wg
    else if decide (g.phase = .placed) && w.running && !w.handler && w.held.isEmpty && !w.midway && w.block.isNone then
      Thread.takeTrap ⟨s, id, w, g⟩ cause addr imm w.pc src true
    else if 8 ≤ w.held.length then (s.killWg wg 0x0B).settle wg
    else s.modWarp id fun w => { w with held := w.held ++ [⟨cause, src, addr, imm⟩] }
  | _, some _ => (s.killWg wg cause).settle wg
  | _, none => s

/-- The workgroup has issued (R389). -/
def Thread.touch (t : Thread) : Thread := { t with g := { t.g with active := t.s.tick } }

/-- Divergence after a path has parked or lanes have ended (R170): the trap is taken at the instruction, with the mask
`m` as trap exec. -/
def State.divergence (s : State) (id : Nat) (pc : Dword) (m : LaneMask) : State :=
  match mapFind s.warps id with
  | none => s
  | some w =>
    match mapFind s.wgs w.wg with
    | none => s
    | some g =>
      if w.diverged && !w.ended then
        Thread.takeTrap ⟨s, id, { w with exec := m, running := true }, g⟩ 0x0A 0 0 pc pc false
      else s

/-- Put the outcome of an instruction of `len` bytes into the state. -/
def Res.finish (r : Res) (pc : Dword) (len : Nat) : State :=
  match r with
  | .next t => Thread.put { t.touch with w := { t.w with pc := t.w.pc + BitVec.ofNat 64 len, stall := none } }
  | .go t => t.touch.put
  | .left t => t.touch.put.settle t.w.wg
  | .parked t m => (t.touch.put.settle t.w.wg).divergence t.id pc m
  | .trap t c a i => t.touch.trapHere c a i
  | .again t => t.put
  | .state s => s

/-- UNIT of a warp (R47): its lower partition × 16 + slot. -/
def Warp.unit (w : Warp) : Nat := w.slots.headD 0

/-- What a fault of a warp's instruction is parked with (R45, R47). -/
def Thread.parkOf (t : Thread) (side access ftype level : Nat) (va : Dword) (home : Nat) : Park :=
  let c := t.ctx
  { ctx := c.slot, asid := c.asid, seq := (t.w.seq + 1) % 256, va := va, access := access
    ftype := ftype, level := level, tick := t.s.tick, home := home, answer := none, side := side }

/-- The state with the fault record of a park of the instruction at `pc` (R47, R49): none is written with NOFQ (R50). -/
def Thread.record (t : Thread) (p : Park) (pc : Dword) : State :=
  if t.ctx.nofq then t.s
  else
    t.s.putRecord t.die t.ctx { slot := p.ctx, tick := t.s.tick, asid := p.asid, core := t.core, unit := t.w.unit
                                seq := p.seq, side := p.side, access := p.access, ftype := p.ftype, level := p.level
                                place := pc, va := p.va }

/-- Park the running path on a translation fault, or on an offline home (TYPE 6) (R45, R47, R50, R54): the record is
written, and the path gives way; with NOFQ the fault is rejected at once; with no room for its record the instruction
stalls (R49). -/
def Thread.parkFault (t : Thread) (side access ftype level : Nat) (va : Dword) (home : Nat) : Res :=
  let p := t.parkOf side access ftype level va home
  let u := { t with s := t.s.forgetMiss t.die t.id t.w.pc }
  if t.ctx.nofq ∧ ftype ≠ 6 then .trap u 0x05 va p.rejectImm
  else if 512 ≤ (t.s.die t.die).fheld.length then .again t
  else
    let s := u.record p t.w.pc
    let w : Warp := { t.w with seq := p.seq }
    let e : Path := ⟨w.pc, w.exec, .ready, 0, some p, false⟩
    let w : Warp := if w.handler || !canPark w.paths e then { w with block := some p }
      else { w with paths := w.paths ++ [e] }.switch t.s.clock
    .again { t with s := s, w := w }

/-- An instruction stalls until its counter has room (R77). -/
def Thread.ctrFull (t : Thread) (c : Ctr) : Bool := decide (255 ≤ ctrVal t.w.pend c)

/-- Raise a counter for instruction `uid` (R75). -/
def Thread.raiseCtr (t : Thread) (c : Ctr) (uid : Nat) : Thread :=
  { t with w := { t.w with pend := t.w.pend ++ [⟨c, uid, false⟩] } }

/-- A fresh number for an access, a job or a message. -/
def State.newUid (s : State) : State × Nat := ({ s with nextUid := s.nextUid + 1 }, s.nextUid)

/-! Parts of an access (R54, R76, R101, R397) -/

/-- ACCESS of an access's kind (R39, R47). -/
def AccKind.code : AccKind → Nat
  | .store | .nibble => 1
  | .atomic _ | .drop => 2
  | _ => 0

/-- A warp's issued access parks as an instruction not executed, with its record (R45, R54, R397): at its first HomeOffline its
counter falls and the paths with its lanes wait (log 40); when a replay faults it parks again with a new SEQ (R52). TYPE 6 counts from
its first HomeOffline. -/
def State.parkIssued (s : State) (uid : Nat) (a : Access) (ftype level : Nat) (va : Dword) (home id : Nat) : State :=
  match mapFind s.warps id with
  | none => s
  | some w =>
    match mapFind s.wgs w.wg with
    | none => s
    | some g =>
      let old := w.offl.find? fun o => o.uid == uid
      if w.ended || old.any (fun o => o.park.isSome) then s
      else
        let t : Thread := ⟨s, id, w, g⟩
        let ctr := (w.pend.find? fun q => q.uid == uid).map fun q => q.ctr
        let since := (old.map fun o => o.since).getD s.tick
        let p := t.parkOf a.side a.code ftype level va home
        let s := t.record p a.pc
        let p := if ftype = 6 then { p with tick := since } else p
        match old with
        | some _ =>
          let again (o : OffAcc) : OffAcc := if o.uid = uid then { o with park := some p } else o
          Thread.put ⟨s, id, { w with seq := p.seq, offl := w.offl.map again }, g⟩
        | none =>
          let o : OffAcc := ⟨uid, (a.lanes >>> w.famOff) &&& w.all, ctr, since, some p⟩
          let w : Warp := { w with seq := p.seq, offl := w.offl ++ [o], pend := pendFront [] (w.pend.filter fun q => q.uid != uid) }
          let here := w.running && decide (w.exec &&& w.offMask ≠ 0)
          let e := w.asPath w.pc .ready w.wake w.nap
          let w := if here && !w.handler && w.block.isNone && w.fuse.isNone && canPark w.paths e then
              { w with paths := parkPath w.paths e }.switch s.clock
            else w
          Thread.put ⟨s, id, w, { g with active := if ctr.isSome then s.tick else g.active }⟩

/-- An access that is dropped. -/
def State.accDrop (s : State) (uid : Nat) (a : Access) : State :=
  (({ s with accs := mapDel s.accs uid } : State).pendComplete uid).settle a.wg

/-- Whether no warp waits for an access: nobody issued it, or all who did have ended. -/
def State.orphan (s : State) (a : Access) : Bool :=
  a.owners.all fun id => match mapFind s.warps id with
    | some w => w.ended
    | none => true

/-- A part's request receives HomeOffline (R54, R397). What no instruction waits for is dropped; a REL parks as an instruction
not executed (R134); other accesses park with what they have not performed, once the buffer of records has room (R49). -/
def State.accOffline (s : State) (uid : Nat) (a : Access) (va : Dword) (home : Nat) : State :=
  if a.kind.isPref || s.orphan a then s.accDrop uid a
  else if a.dest = .stall then
    let s : State := { s with accs := mapDel s.accs uid }
    a.owners.foldl (fun s id =>
      match mapFind s.warps id with
      | none => s
      | some w =>
        match mapFind s.wgs w.wg with
        | none => s
        | some g =>
          (Thread.parkFault ⟨s, id, { w with stall := none }, g⟩ 0 2 6 0 va home).finish w.pc 0) s
  else if 512 < (s.die (a.core / 96)).fheld.length + a.owners.length then s
  else a.owners.foldl (fun s id => s.parkIssued uid a 6 0 va home id) s

/-- A warp some of whose accesses wait for a home no more: what waited for them can run. -/
def Warp.offEnd (w : Warp) (now : Nat) (gone : OffAcc → Bool) : Warp :=
  if w.offl.any gone then
    let w := { w with offl := w.offl.filter fun o => !gone o }
    if w.running || w.ended || w.fuse.isSome then w else w.switch now
  else w

/-- A warp's issued accesses whose faults meet a test are replayed (R52, R54): they translate again before they go on. -/
def Warp.offReplay (w : Warp) (hit : Park → Bool) : Warp :=
  { w with offl := w.offl.map fun o => if o.park.any hit then { o with park := none } else o }

/-- Whether an access waits for an offline home, so that no save waits for it (R397). -/
def State.parkedAcc (s : State) (uid : Nat) : Bool := s.warps.any fun e => e.2.offl.any fun o => o.uid == uid

/-- A warp whose REL waits for an access whose home is lost: the REL takes home offline, its latch not updated (R147). -/
def Thread.relLost (t : Thread) (uid cause : Nat) (va : Dword) : Thread :=
  match t.w.stall with
  | some x =>
    if x.stage = 2 ∧ x.waits.contains uid ∧ t.w.running ∧ t.w.block.isNone then
      { t with w := { t.w with stall := none, block := some { t.parkOf 0 2 6 0 va 0 with answer := some cause } } }
    else t
  | none => t

/-- The RELs of a workgroup's other warps that wait for an access whose home is lost (R147). -/
def State.relsLost (s : State) (uid : Nat) (a : Access) (cause : Nat) (va : Dword) : State :=
  if cause ≠ 0x0E then s
  else
    match mapFind s.wgs a.wg with
    | none => s
    | some g =>
      { s with warps := s.warps.map fun e =>
          if e.2.wg = a.wg && !a.owners.contains e.1 then (e.1, (Thread.relLost ⟨s, e.1, e.2, g⟩ uid cause va).w) else e }

/-- An access that ends with no further effect, and the trap that its warps take for it at a boundary (R52, R384). -/
def State.accEnd (s : State) (uid : Nat) (a : Access) (cause : Nat) (va : Dword) (imm : Word) : State :=
  let s : State := { s with accs := mapDel s.accs uid }
  let hit := a.owners.filter fun id => (mapFind s.warps id).any fun w => decide ((a.lanes >>> w.famOff) &&& w.all ≠ 0)
  let ids := if hit.isEmpty then a.owners.take 1 else hit
  let s := a.owners.foldl (fun s id => s.modWarp id fun w => w.offEnd s.clock fun o => o.uid == uid) s
  let s := ids.foldl (fun s id => s.boundaryTrap a.wg id cause a.pc va imm) (s.relsLost uid a cause va)
  (s.pendComplete uid).settle a.wg
def State.accFail (s : State) (uid : Nat) (a : Access) (cause : Nat) (va : Dword) : State := s.accEnd uid a cause va 0

/-- Go on with the part at position `i` of an access when nothing of its warp has to come first and it is not parked: what it reads may fail (R101), its
home may be offline (R54), or it is performed as far as it goes now. -/
def State.partGo (s : State) (uid i : Nat) : State :=
  match mapFind s.accs uid with
  | none => s
  | some a =>
    match a.parts[i]? with
    | none => s
    | some p =>
      if p.done || s.parkedAcc uid || s.mustWait uid a p || a.mustWait i p then s
      else if s.partOffline a p && p.txn.isNone then
        match p.at_ with
        | .pa x => if (s.die (a.core / 96)).pinned (x / 128) then s else s.accOffline uid a p.va (homeOf (x / 128))
        | .scratch _ _ => s
      else
        match s.partReads a p with
        | .later => s
        | .fails va s => s.accFail uid a 0x0D va
        | .clean s => s.tryPart uid i

end Sys2Proof.Machine
end

