-- ==== Sys2Proof/Machine/Operands.lean ====
section
/-! DEFINITION. Operands and addresses: steps 4 and 5 of R184, the register rules of R198, operand b in all its forms
(R186), the code reads of R33, the address checks of R30 to R35 and R45. -/

namespace Sys2Proof.Machine

/-- Register operands (R198): a run of vector or scalar registers with its alignment, or a mask group; those with a `d` are
destinations that are written and not read. -/
inductive Opd where
  | v (r n align : Nat)
  | s (r n align : Nat)
  | m (r : Nat)
  | dv (r n align : Nat)
  | ds (r n align : Nat)
  | dm (r : Nat)
  deriving DecidableEq, Repr

/-- Whether an operand keeps R198 for a kernel with K and S registers and groups of `g`. -/
def Opd.ok (k sr g : Nat) : Opd → Bool
  | .v r n a | .dv r n a => decide (r + n ≤ k) && decide (r % a = 0)
  | .s r n a | .ds r n a => decide (r + n ≤ sr) && decide (r % a = 0)
  | .m r | .dm r => decide (r + g ≤ sr) && decide (r % g = 0)

/-- Step 5 of R184 for the register operands of an instruction. -/
def Thread.operandsOk (t : Thread) (ops : List Opd) : Bool := ops.all fun o => o.ok t.g.k t.g.sr t.w.g

/-- Word 0 of an instruction, for `%trapaddr` (R210). -/
def word0 (i : Instr) : Dword := (encode i).headD 0

/-- The guard's operand. -/
def guardOpd (gen : Bool) (gs : BitVec 8) : List Opd := if gen then [.m gs.toNat] else []

/-- The lanes in which an instruction reads its vector sources: V3, LONG and XL instructions in every lane (R237), the others in
those that run. -/
def readLanes (i : Instr) (w : Warp) : LaneMask :=
  match shapeOf i with
  | some (.v3 _ _) | some (.vmad4 _ _ _) | some (.longImm _ _ _) | some (.xl _ _) => w.all
  | _ => w.exec

/-- Whether a failing sector holds one of the registers that an operand reads, in the lanes `m` (R100). -/
def Opd.touches (w : Warp) (m : LaneMask) (id : Nat) (b : BadSector) : Opd → Bool
  | .v r n _ =>
    decide (b.at_ = .vreg w.wg) && decide (r ≤ b.line % 1024) && decide (b.line % 1024 < r + n) &&
      (lanesOf w.width m).any fun l => decide ((w.famOff + l) / 4 = b.line / 1024 * 8 + b.sector % 8)
  | .s r n _ =>
    decide (b.at_ = .sreg id) && decide (r / 4 ≤ b.line * 8 + b.sector % 8) && decide (b.line * 8 + b.sector % 8 ≤ (r + n - 1) / 4)
  | .m r =>
    decide (b.at_ = .sreg id) && decide (r / 4 ≤ b.line * 8 + b.sector % 8) && decide (b.line * 8 + b.sector % 8 ≤ (r + w.g - 1) / 4)
  | .dv _ _ _ | .ds _ _ _ | .dm _ => false

/-- A sector of the register files whose data is lost holds free values (log 2). -/
def Thread.loseRegs (t : Thread) (b : BadSector) : Thread :=
  let ws (n : Nat) : List Word := wordsOf n (lostBytes t.s.tick b.line (4 * n))
  match b.at_ with
  | .vreg _ =>
    let lane := 4 * (b.line / 1024 * 8 + b.sector % 8)
    { t with g := { t.g with vregs := (ws 4).zipIdx.foldl (fun m e => storeSet 0 m ((lane + e.2) * 1024 + b.line % 1024) e.1) t.g.vregs } }
  | .sreg _ => { t with w := { t.w with sregs := putRegs t.w.sregs (4 * (b.line * 8 + b.sector % 8)) (ws 4) } }
  | _ => t

/-- What reading the registers of an instruction meets (R100, R101): errors of one bit are corrected; another one raises memory
error, with no address (log 38). -/
def Thread.readRegs : Nat → Thread → LaneMask → List Opd → (Thread → Res) → Res
  | 0, t, _, _, k => k t
  | fuel + 1, t, m, ops, k =>
    match t.s.bad.find? fun b => ops.any fun o => o.touches t.w m t.id b with
    | none => k t
    | some b =>
      let u := { t with s := t.s.badFix b }
      if b.corr then Thread.readRegs fuel u m ops k else .trap (u.loseRegs b) 0x0D 0 0

/-- Run one instruction on a thread: a rejected fault traps first (R52, R397); then steps 4 and 5 of R184 (`lim` the
limits that the entry calls illegal operand); its registers are read (R101); then its effect. -/
def Thread.run (t : Thread) (i : Instr) (ops : List Opd) (lim : Bool) (eff : Thread → Res) : Res :=
  match t.w.block with
  | some p =>
    match p.answer with
    | some c => .trap t c p.va (if c = 0x05 then p.rejectImm else 0)
    | none => .again t
  | none =>
    if !i.wf then .trap t 0x01 (word0 i) 0
    else if !t.operandsOk ops || !lim then .trap t 0x02 (word0 i) 0
    else t.readRegs t.s.bad.length (readLanes i t.w) ops eff

/-- The thread of the warp that `exec` acts on. -/
def State.thread (s : State) : Option Thread :=
  match s.cur with
  | none => none
  | some id =>
    match mapFind s.warps id with
    | none => none
    | some w =>
      if w.running then
        match mapFind s.wgs w.wg with
        | none => none
        | some g => some ⟨s, id, w, g⟩
      else none

/-- The width of the warp that `exec` acts on, for the limits that depend on it (R184 step 5). -/
def State.width (s : State) : Nat := (s.thread.map fun t => t.w.width).getD 0

/-- Issue an instruction that has a word on the chosen warp: `ops` and `lim` are what step 5 of R184 asks of it. -/
def issue (i : Instr) (ops : List Opd) (lim : Bool) (eff : Thread → Res) (s : State) :
    Host.Outcome State Fault Refusal :=
  match s.thread with
  | none => .fault .noRunningWarp
  | some t => .next ((t.run i ops lim eff).finish t.w.pc (instrLen i))

/-- An event: what it does to the state when its parameters are legal and it is enabled; otherwise nothing happens
(log 3). -/
def event (ok : Bool) (f : State → State) (s : State) : Host.Outcome State Fault Refusal :=
  if ok then .next (f s) else .next s

/-! Addresses -/

/-- The address of one lane after translation and the physical map (R45): a physical address with PBMT NC, a walk
under way, or a failure. -/
inductive LaneTr where
  | ok (pa : Nat) (nc : Bool)
  | stall
  | violation
  | fault (ftype level : Nat)
  | offline (home level : Nat)
  deriving DecidableEq, Repr

/-- Whether an access to a line whose home is offline can be served without it (R54): a read of a line that the die holds, a write
of one that it owns, an atomic on one that the core's L1 owns. -/
def Thread.served (t : Thread) (access x : Nat) : Bool :=
  if access = 1 then t.s.dieOwns t.die x else if access = 2 then t.s.l1Owns t.core x else t.s.dieHolds t.die x

/-- Whether an instruction asks no line's home: CLEAN and DROP at scopes 0 to 3 act within the issuing die (R270). -/
def AccKind.near (k : AccKind) (scope : Nat) : Bool :=
  decide (scope ≤ 3) && (match k with
    | .clean | .drop => true
    | _ => false)

/-- Translate one address and check it against the physical map (R25, R40, R45); an offline home is found by the
request, when there is one (R54, R270). DESIGN CHOICE (log 22): where the data's home is offline no walk has stopped, and LEVEL of the
record is 0. -/
def Thread.lookup (t : Thread) (access : Nat) (va : Dword) (near : Bool := false) : Thread × LaneTr :=
  let (s, r) := t.s.translate t.core t.ctx ⟨t.id, t.w.pc, access⟩ va
  let t := { t with s := s }
  match r with
  | .ok pa nc io =>
    if io || !paOpen s.attic s.window pa then (t, .violation)
    else if !near && paHomed pa && s.isOffline (homeOf (pa / 128)) && (nc || !t.served access (pa / 128)) then
      (t, .offline (homeOf (pa / 128)) 0)
    else (t, .ok pa nc)
  | .walking => (t, .stall)
  | .fault f => (t, if f.ftype = 6 then .offline f.home f.level else .fault f.ftype f.level)

/-- Translate a list of addresses in order. -/
def Thread.lookupAll (t : Thread) (access : Nat) (near : Bool) : List Dword → Thread × List LaneTr
  | [] => (t, [])
  | va :: r =>
    let (t, x) := t.lookup access va near
    let (t, xs) := t.lookupAll access near r
    (t, x :: xs)

/-- The first failure of a list of lanes, with its address. -/
def firstFail : List Dword → List LaneTr → Option (Dword × LaneTr)
  | va :: vs, x :: xs =>
    match x with
    | .ok _ _ | .stall => firstFail vs xs
    | y => some (va, y)
  | _, _ => none

/-- Translate the addresses of an instruction (R45): while a walk is under way it is tried again; the lowest failing
lane traps or parks the path; otherwise the physical addresses. An uncorrectable error in the `n` bytes that are read at
an address traps (R101). -/
def Thread.addresses (t : Thread) (side access n : Nat) (vas : List Dword) (near : Bool := false) :
    Except Res (Thread × List (Nat × Bool)) :=
  let (t, xs) := t.lookupAll access near vas
  if xs.contains .stall then .error (.again t)
  else
    match firstFail vas xs with
    | some (va, .violation) => .error (.trap { t with s := t.s.forgetMiss t.die t.id t.w.pc } 0x04 va 0)
    | some (va, .fault ft lv) => .error (t.parkFault side access ft lv va 0)
    | some (va, .offline h lv) => .error (t.parkFault side access 6 lv va h)
    | _ =>
      let ps := xs.filterMap fun x => match x with
        | .ok pa nc => some (pa, nc)
        | _ => none
      match (if access = 1 ∨ n = 0 then Consumed.clean t.s else t.s.consume t.core n (vas.zip (ps.map (·.1)))) with
      | .fails va s => .error (.trap { t with s := s } 0x0D va 0)
      | .later => .error (.again t)
      | .clean s => .ok ({ t with s := s }, ps)

/-- Whether an address is canonical in the thread's context (R30). -/
def Thread.canonical (t : Thread) (va : Dword) : Bool := t.ctx.canonical va

/-- One address of an instruction: canonical form first (R30, R35). -/
def Thread.address (t : Thread) (side access n : Nat) (va : Dword) : Except Res (Thread × Nat × Bool) :=
  if !t.canonical va then .error (.trap t 0x04 va 0)
  else
    match t.addresses side access n [va] with
    | .error r => .error r
    | .ok (t, (pa, nc) :: _) => .ok (t, pa, nc)
    | .ok (t, []) => .error (.again t)

/-- Requester class of a thread's SIMT accesses (R105, R106). -/
def Thread.cls (t : Thread) : Nat := t.s.simtCls t.die t.ctx.slot

/-- Where code is (R33, R105): checked as an instruction fetch, and read through the die's L2 (R71). -/
def Thread.codePlace (t : Thread) (va : Dword) (n : Nat) : Except Res (Thread × Nat) :=
  match t.address 0 3 n va with
  | .error r => .error r
  | .ok (t, pa, nc) =>
    if nc || !paHomed pa then
      if t.s.paBusy pa then .error (.again t)
      else .ok ({ t with s := t.s.homeTouch none pa t.cls false }, pa)
    else if (t.s.core t.core).icache.contains (pa / 128) then .ok (t, pa)
    else
      match t.s.l2Want t.die (pa / 128) false .plain t.cls with
      | (s, some k2) => .ok ({ t with s := s.icFill t.core (pa / 128) k2 }, pa)
      | (s, none) => .error (.again { t with s := s })

/-- Read `n` bytes of code: the coherent value. -/
def Thread.code (t : Thread) (va : Dword) (n : Nat) : Except Res (Thread × Nat) :=
  (t.codePlace va n).map fun r => (r.1, r.1.s.viewNat r.2 n)

/-- The words of the 64 bytes around an address, from the next one on, that a fetch has at hand (R33). -/
def State.fetchAhead (s : State) (va pa : Nat) : FMap Nat :=
  (List.range 8).filterMap fun i => if va / 8 % 8 < i then some (va / 64 * 8 + i, s.viewNat (pa / 64 * 64 + 8 * i) 8) else none

/-- Fetch the 8 bytes of code at an address (R33): those at hand from an earlier fetch may run although a store has changed the code
since (log 12). -/
def Thread.fetchWord (t : Thread) (va : Dword) : Except Res (Thread × Nat) :=
  (t.codePlace va 8).map fun r =>
    let t := r.1
    let n := va.toNat / 8
    let now := t.s.viewNat r.2 8
    match mapFind t.w.fetched n with
    | none => ({ t with w := { t.w with fetched := t.s.fetchAhead va.toNat r.2 } }, now)
    | some old =>
      let kept : Warp := { t.w with fetched := mapDel t.w.fetched n }
      if old = now then ({ t with w := kept }, now)
      else
        let t : Thread := { t with s := { t.s with freshCount := t.s.freshCount + 1 } }
        if Config.staleCode (t.s.freshCount - 1) then ({ t with w := kept }, old)
        else ({ t with w := { t.w with fetched := t.s.fetchAhead va.toNat r.2 } }, now)

/-- Check a branch target (R225): it must be canonical. Fetching there is the next step's. -/
def Thread.jump (t : Thread) (target : Dword) : Res :=
  if t.canonical target then .go { t with w := { t.w with pc := target, stall := none } }
  else .trap t 0x04 target 0

/-! Operand b -/

/-- The value of bsel 2's signed 10-bit immediate for a type (R186). -/
def immOf (ty : Nat) (wide : Bool) (vb : BitVec 10) : Dword :=
  let n := vb.toInt
  let both (x : Nat) : Dword := BitVec.ofNat 64 (x % 65536 * 65537)
  let fp (f : FFmt) : Nat := (fencode f .rne false false 0 (FVal.ofInt false n 0)).1
  if wide then BitVec.ofInt 64 n
  else if ty = 2 then BitVec.ofNat 64 (fp fmtF32)
  else if ty = 3 then both (fp fmtF16)
  else if ty = 4 then both (fp fmtBf16)
  else if 5 ≤ ty then both (wrapTo 16 n)
  else (BitVec.ofInt 32 n).setWidth 64

/-- Operand b (R186, R188): a vector register or pair, or one value for every lane. -/
inductive OpB where
  | vec (r : Nat)
  | val (x : Dword)
  deriving DecidableEq, Repr

/-- A 32-bit word as operand b: sign-extended for a 64-bit operand. -/
def litOf (wide : Bool) (w : Nat) : Dword :=
  if wide then (BitVec.ofNat 32 w).signExtend 64 else BitVec.ofNat 64 (w % 2 ^ 32)

/-- The register operands that operand b names. -/
def opdB (bsel : BitVec 2) (vb : BitVec 10) (wide : Bool) : List Opd :=
  let n := if wide then 2 else 1
  if bsel = 0 then [.v vb.toNat n n] else if bsel = 1 then [.s vb.toNat n n] else []

/-- Read operand b; bsel 3 reads a literal from code (R33, R186). -/
def Thread.operandB (t : Thread) (bsel : BitVec 2) (vb : BitVec 10) (ty : Nat) (wide : Bool) :
    Except Res (Thread × OpB) :=
  if bsel = 0 then .ok (t, .vec vb.toNat)
  else if bsel = 1 then
    .ok (t, .val (if wide then t.w.spair vb.toNat else (t.w.sreg vb.toNat).setWidth 64))
  else if bsel = 2 then .ok (t, .val (immOf ty wide vb))
  else
    match t.code (t.w.pc + BitVec.ofInt 64 (4 * vb.toInt)) 4 with
    | .error r => .error r
    | .ok (t, w) => .ok (t, .val (litOf wide w))

/-! Lanes -/

/-- A lane's family lane. -/
def Warp.fam (w : Warp) (l : Nat) : Nat := w.famOff + l

/-- A vector register of a lane. -/
def Thread.vreg (t : Thread) (l r : Nat) : Word := storeGet 0 t.g.vregs (t.w.fam l * 1024 + r)

/-- `n` vector registers of a lane from `r` up. -/
def Thread.vregs (t : Thread) (l r n : Nat) : List Word := (List.range n).map fun i => t.vreg l (r + i)

/-- Write vector registers of a lane from `r` up. -/
def Thread.setVregs (t : Thread) (l r : Nat) (ws : List Word) : Thread :=
  { t with g := { t.g with vregs := putRegs t.g.vregs (t.w.fam l * 1024 + r) ws } }

/-- A lane's STO state (R295); a lane that has not advanced holds its seed at creation. -/
def Workgroup.seedOf (g : Workgroup) (fam : Nat) : Word := lfsrSeed 0 (fam % g.width0)
def Thread.lane (t : Thread) (l : Nat) : Word := storeGet (t.g.seedOf (t.w.fam l)) t.g.lfsr (t.w.fam l)
def Thread.setLane (t : Thread) (l : Nat) (q : Word) : Thread :=
  { t with g := { t.g with lfsr := storeSet (t.g.seedOf (t.w.fam l)) t.g.lfsr (t.w.fam l) q } }

/-- Operand b of a lane: a register or a pair. -/
def Thread.laneB (t : Thread) (b : OpB) (wide : Bool) (l : Nat) : Dword :=
  match b with
  | .vec r => if wide then pairOf (t.vreg l r) (t.vreg l (r + 1)) else (t.vreg l r).setWidth 64
  | .val x => x

/-- Raise sticky flags, or take the arithmetic trap: the flags are set in both cases (R217, R241). -/
def Thread.arith (t : Thread) (fl : BitVec 5) (k : Thread → Res) : Res :=
  let t' := { t with w := t.w.raise fl }
  if modeTraps t.w.mode fl then .trap t' 0x0C 0 (fl.setWidth 32) else k t'

end Sys2Proof.Machine
end

