-- ==== Sys2Proof/Machine/Control.lean ====
section
/-! DEFINITION. The SB instructions: branches, divergence, lane removal, traps and returns (spec 09 R225 to R235, 07
R166 to R170, 16 R385, R386). -/

namespace Sys2Proof.Machine

/-- A branch condition (R191). -/
def Warp.cond (w : Warp) (f : SbF) : Bool :=
  let a := w.sreg f.sa.toNat
  let b := w.sreg f.sb.toNat
  let g := w.group f.sa.toNat
  match f.cond.toNat with
  | 0 => true
  | 1 => a == b
  | 2 => a != b
  | 3 => decide (a.toInt < b.toInt)
  | 4 => decide (b.toInt ≤ a.toInt)
  | 5 => decide (a.toNat < b.toNat)
  | 6 => decide (b.toNat ≤ a.toNat)
  | 7 => a == 0
  | 8 => a != 0
  | 9 => g &&& w.exec != 0
  | 10 => g &&& w.exec == w.exec
  | 11 => g &&& w.exec == 0
  | _ => false

/-- The register operands that a condition uses (R191, R227). -/
def condOpds (f : SbF) : List Opd :=
  let c := f.cond.toNat
  if 1 ≤ c ∧ c ≤ 6 then [.s f.sa.toNat 1 1, .s f.sb.toNat 1 1]
  else if c = 7 ∨ c = 8 then [.s f.sa.toNat 1 1]
  else if 9 ≤ c ∧ c ≤ 11 then [.m f.sa.toNat]
  else []

/-- The target of a direct branch (R225). -/
def Warp.target (w : Warp) (f : SbF) : Dword := w.pc + f.off.signExtend 64

/-- The next instruction of the running path, when this one is `len` bytes. -/
def Warp.after (w : Warp) (len : Nat) : Warp := { w with pc := w.pc + BitVec.ofNat 64 len, stall := none }

/-- What a fragment wave keeps for a lane (R366). -/
def Thread.frag (t : Thread) (l : Nat) : Option Frag := mapFind t.g.frags (t.w.fam l)

/-- Retire the fragments of lanes that have not been accepted (R367). -/
def Thread.retire (t : Thread) (m : LaneMask) : Thread :=
  { t with g := { t.g with frags := t.g.frags.map fun e =>
      if t.w.famOff ≤ e.1 ∧ e.1 < t.w.famOff + t.w.width ∧ laneIn m (e.1 - t.w.famOff) ∧ !e.2.accepted then (e.1, { e.2 with retired := true }) else e } }

/-- Whether a lane's quad has a live lane (R367). -/
def Thread.quadLive (t : Thread) (l : Nat) : Bool :=
  match (t.frag l).bind Frag.quad with
  | none => false
  | some q => (List.range 4).any fun i => decide (t.w.famOff ≤ q + i) && laneIn t.w.live (q + i - t.w.famOff)

/-- Helper lanes stay while a lane of their quad is live (R367). -/
def Thread.prune (t : Thread) : Thread :=
  { t with w := { t.w with helper := laneMaskOf ((lanesOf t.w.width t.w.helper).filter t.quadLive) } }

/-- Remove lanes by EXIT or KILL (R169, R367, R381): KILL keeps the lanes of a fragment wave as helpers. The path
stands at its next instruction. -/
def Thread.removeLanes (t : Thread) (m : LaneMask) (kill : Bool) : Thread :=
  let gone := m &&& t.w.live
  let wave := !t.g.frags.isEmpty
  let help := if kill && wave then t.w.helper ||| gone else t.w.helper &&& ~~~m
  let t := { t with w := { t.w with live := t.w.live &&& ~~~m, helper := help } }
  let t := if wave then (t.retire gone).prune else t
  { t with w := t.w.leave t.s.clock }

/-- BRA (R227). -/
def execBra (f : SbF) (s : State) : Host.Outcome State Fault Refusal :=
  issue (.bra f) (condOpds f) true (fun t => if t.w.cond f = true then t.jump (t.w.target f) else .next t) s

/-- BRD (R166, R228). DESIGN CHOICE (log 83): a target that is not canonical is found (0x04, R225) before the table is
found full (0x0B). -/
def execBrd (f : SbF) (s : State) : Host.Outcome State Fault Refusal :=
  issue (.brd f) [.m f.sa.toNat] true (fun t =>
    let c := t.w.group f.sa.toNat
    let taken := t.w.exec &&& c
    let rest := t.w.exec &&& ~~~c
    let target := t.w.target f
    if t.w.handler then .trap t 0x01 (word0 (.brd f)) 0
    else if taken = 0 then .next t
    else if rest = 0 then t.jump target
    else if !t.canonical target then .trap t 0x04 target 0
    else
      let p : Path := ⟨target, taken, .ready, 0, none, false⟩
      if !canPark t.w.paths p then .trap t 0x0B 0 0
      else .next { t with w := { t.w with exec := rest, paths := parkPath t.w.paths p } }) s

/-- Branch to an address from a register (R229, R230): alignment, canonical form, then the link. -/
def Thread.indirect (t : Thread) (target : Dword) (link : Option Nat) : Res :=
  if target.extractLsb' 0 3 ≠ 0 then .trap t 0x03 target 0
  else if !t.canonical target then .trap t 0x04 target 0
  else
    match link with
    | some r => { t with w := t.w.setSpair r (t.w.pc + 8) }.jump target
    | none => t.jump target

/-- BRX (R229). -/
def execBrx (f : SbF) (s : State) : Host.Outcome State Fault Refusal :=
  let link := if f.sb = 0xFF then none else some f.sb.toNat
  issue (.brx f) (.s f.sa.toNat 2 2 :: (if f.sb = 0xFF then [] else [.ds f.sb.toNat 2 2])) true (fun t =>
    t.indirect (t.w.spair f.sa.toNat + f.off.signExtend 64) link) s

/-- CALL (R230). -/
def execCall (f : SbF) (s : State) : Host.Outcome State Fault Refusal :=
  issue (.call f) [.ds f.sb.toNat 2 2] true (fun t =>
    let target := t.w.target f
    if !t.canonical target then .trap t 0x04 target 0
    else { t with w := t.w.setSpair f.sb.toNat (t.w.pc + 8) }.jump target) s

/-- RET (R230). -/
def execRet (f : SbF) (s : State) : Host.Outcome State Fault Refusal :=
  issue (.ret f) [.s f.sa.toNat 2 2] true (fun t => t.indirect (t.w.spair f.sa.toNat) none) s

/-- EXIT (R169, R231); in handler mode it ends the mode, and the rest of the trap exec is discarded (R385), also
when its guard selects no lane (log 51). -/
def execExit (f : SbF) (s : State) : Host.Outcome State Fault Refusal :=
  issue (.exitLanes f) (if f.cond = 0 then [] else [.m f.sa.toNat]) true (fun t =>
    let g := t.w.group f.sa.toNat
    let m := if f.cond = 0 then t.w.exec else if f.cond = 9 then t.w.exec &&& g else t.w.exec &&& ~~~g
    if t.w.handler then
      let w := t.w.after 8
      .parked ({ t with w := { w with handler := false, exec := 0 } }.removeLanes m false) 0
    else if m = 0 then .next t
    else .parked ({ t with w := t.w.after 8 }.removeLanes m false) 0) s

/-- The immediate of TRAP and BRK (R232). -/
def trapNumber (f : SbF) : Word := (f.sb ++ f.sa).setWidth 32

/-- TRAP (R232). -/
def execTrap (f : SbF) (s : State) : Host.Outcome State Fault Refusal :=
  issue (.trapInstr f) [] true (fun t => .trap t 0x12 0 (trapNumber f)) s

/-- BRK (R232). -/
def execBrk (f : SbF) (s : State) : Host.Outcome State Fault Refusal :=
  issue (.brk f) [] true (fun t => .trap t 0x13 0 (trapNumber f)) s

/-- TRET (R233, R386): the length of the instruction to skip comes from its FMT. -/
def execTret (f : SbF) (s : State) : Host.Outcome State Fault Refusal :=
  issue (.tret f) [] true (fun t =>
    if !t.w.handler then .trap t 0x01 (word0 (.tret f)) 0
    else if t.w.boundary || !f.sa.getLsbD 0 then .go { t with w := t.w.trapReturn t.w.trappc t.s.clock }
    else
      match t.code t.w.trappc 1 with
      | .error r => r
      | .ok (t, b) =>
        let len : Dword := if b % 16 = 0xF then 16 else 8
        .go { t with w := t.w.trapReturn (t.w.trappc + len) t.s.clock }) s

/-- SKIP (R234). -/
def execSkip (f : SbF) (s : State) : Host.Outcome State Fault Refusal :=
  issue (.skip f) [] true (fun t => t.jump (t.w.target f)) s

/-- JOIN (R167, R235); its count of 4 096 clocks starts again (R168). -/
def execJoin (f : SbF) (s : State) : Host.Outcome State Fault Refusal :=
  issue (.joinInstr f) [.m f.sa.toNat] true (fun t =>
    let r := t.w.group f.sa.toNat
    let mine (p : Path) : Bool := p.pc == t.w.pc && p.kind.same (.join 0)
    let here := (t.w.paths.filter mine).foldl (fun m p => m ||| p.mask) t.w.exec
    if t.w.handler then .trap t 0x01 (word0 (.joinInstr f)) 0
    else if joinMet t.w.live r here then
      .next { t with w := { t.w with paths := t.w.paths.filter fun p => !mine p, exec := here, slice := t.s.clock } }
    else
      let p : Path := ⟨t.w.pc, here, .join r, 0, none, false⟩
      if !canPark t.w.paths p then .trap t 0x0B 0 0
      else .parked { t with w := ({ t.w with paths := parkPath t.w.paths p, stall := none } : Warp).switch t.s.clock } here) s

/-- NOP (R234). -/
def execNop (f : SbF) (s : State) : Host.Outcome State Fault Refusal :=
  issue (.nop f) [] true (fun t => .next t) s

end Sys2Proof.Machine
end

