-- ==== Sys2Proof/Machine/Blocks.lean ====
section
/-! DEFINITION. Runs of elements as the engines read and write them (spec 12 R283 to R291, 13 R306): sizes, exact
decoding, encoding with a rounding mode and one stochastic-rounding state, shared-exponent and MX blocks. -/

namespace Sys2Proof.Machine

/-- The kinds of format codes (R283, R305). -/
def isMx (code : Nat) : Bool := code == 5 || code == 12 || code == 13
def isSeb (code : Nat) : Bool := code == 9 || code == 10 || code == 11
def isIntCode (code : Nat) : Bool := code == 6 || code == 7 || code == 8

/-- The element format of an MX code, its emax (R291). -/
def mxFmt (code : Nat) : FFmt := if code = 5 then fmtE2m1 else if code = 12 then fmtE4m3 else fmtE5m2
def mxEmax (code : Nat) : Int := if code = 5 then 2 else if code = 12 then 8 else 15

/-- Magnitude bits of a SEB code (R289). -/
def sebP (code : Nat) : Nat := if code = 9 then 2 else if code = 10 then 4 else 7

/-- Element bytes and scale bytes of `n` elements (R306). -/
def runBytes (code n : Nat) : Nat × Nat :=
  match code with
  | 0 | 8 => (4 * n, 0)
  | 1 | 2 => (2 * n, 0)
  | 3 | 4 | 6 | 7 => (n, 0)
  | 5 => (n / 2, n / 32)
  | 9 => (n / 2, 0)
  | 10 => (3 * n / 4, 0)
  | 11 => (9 * n / 8, 0)
  | _ => (n, n / 32)

/-- What a run's length must be a multiple of (R306). -/
def runUnit (code : Nat) : Nat := if isMx code then 32 else if isSeb code then 16 else 1

/-- The alignment of a card's addresses for a code (R323). -/
def codeAlign (code : Nat) : Nat := if code = 0 ∨ code = 8 then 4 else if code = 1 ∨ code = 2 then 2 else 1

/-- Bits of an element of a format that is no block. -/
def plainBytes (code : Nat) : Nat := if code = 0 ∨ code = 8 then 4 else if code = 1 ∨ code = 2 then 2 else 1

/-- `x` cut into `n` numbers of `k` bits. -/
def cutBits (k : Nat) : Nat → Nat → List Nat
  | 0, _ => []
  | n + 1, x => x % 2 ^ k :: cutBits k n (x / 2 ^ k)

/-- Numbers of `k` bits joined, the first lowest. -/
def joinBits (k : Nat) (l : List Nat) : Nat := l.foldr (fun v acc => v % 2 ^ k + 2 ^ k * acc) 0

/-- A block of 16 SEB elements decoded exactly (R289). -/
def sebDecode (p : Nat) (bs : List Byte) : List FVal :=
  let e := (bs.headD 0).toNat
  let ms := (bs.getD 1 0).toNat
  (cutBits (p + 1) 16 (leNat (bs.drop 2))).zipIdx.map fun x => sebVal p e (bitOf ms (x.2 / 2)) x.1

/-- Bytes of a SEB block. -/
def sebBytes (p : Nat) : Nat := 2 + 2 * (p + 1)

/-- Decode consecutive SEB blocks. -/
def sebDecodeAll (p : Nat) : Nat → List Byte → List FVal
  | 0, _ => []
  | k + 1, bs => sebDecode p (bs.take (sebBytes p)) ++ sebDecodeAll p k (bs.drop (sebBytes p))

/-- The exact values of a run of `n` elements (R290): integers, plain floats, MX with its scale bytes, SEB. -/
def decodeRun (code n : Nat) (bs scales : List Byte) : List FVal :=
  if isSeb code then sebDecodeAll (sebP code) (n / 16) bs
  else if isMx code then
    let raw := cutBits (if code = 5 then 4 else 8) n (leNat bs)
    raw.zipIdx.map fun x => mxVal (scales.getD (x.2 / 32) 0).toNat (fdecode (mxFmt code) x.1)
  else
    (cutBits (8 * plainBytes code) n (leNat bs)).map fun r => cvtSource false false code r

/-- ⌊log2 |x|⌋ of a nonzero value; an infinity counts as 2^128 (R291). -/
def FVal.log2? : FVal → Option Int
  | .nan _ => none
  | .inf _ => some 128
  | .fin _ m e => if m = 0 then none else some ((m.log2 : Int) + e)

/-- The largest ⌊log2 |x|⌋ of a block; none when every element is zero or NaN. -/
def amaxLog (vs : List FVal) : Option Int :=
  vs.foldl (fun a v => match a, v.log2? with
    | none, x => x
    | some a, some b => some (max a b)
    | a, none => a) none

def clampExp (x : Int) : Nat := (max 0 (min 254 x)).toNat

/-- The exponent of a block under its policy (R291); `d` is emax, 0 for SEB. -/
def blockExp (fixed : Bool) (fexp : Nat) (d : Int) (vs : List FVal) : Nat :=
  if fixed then fexp
  else match amaxLog vs with
    | none => 0
    | some l => clampExp (l - d + 127)

/-- How an engine encodes: rounding, saturation, scale policy (R316, R324), and whether a NaN makes an MX block NaN as
a whole (R316). -/
structure EncCtl where
  md : RMode
  sat : Bool
  fixed : Bool
  fexp : Nat
  nanBlock : Bool
  deriving DecidableEq, Repr

/-- The STO state after one conversion that takes a rounding mode. -/
def EncCtl.step (c : EncCtl) (q : Word) : Word := if c.md = .sto then lfsrNext q else q

/-- A value divided by the step `2^k` and rounded to an integer magnitude; an infinity has none. -/
def magAt (md : RMode) (l : Nat) (k : Int) : FVal → Option Nat
  | .fin n m e => if m = 0 then some 0 else some (roundInt md l n ⟨m, 1, e⟩ k).1
  | _ => none

/-- Encode a SEB block (R291). -/
def sebEncode (c : EncCtl) (p : Nat) (q : Word) (vs : List FVal) : List Byte × Word :=
  let e := blockExp c.fixed c.fexp 0 vs
  let top := 2 ^ p - 1
  if e = 255 ∨ vs.any FVal.isNaN then
    (0xFF#8 :: List.replicate (sebBytes p - 1) 0, vs.foldl (fun q _ => c.step q) q)
  else
    let fine : Int := (e : Int) - 128 - ((p : Int) - 1)
    let fits (v : FVal) : Bool := match magAt .rne 0 fine v with
      | some r => decide (r ≤ top)
      | none => false
    let ms := (List.range 8).map fun j => fits (vs.getD (2 * j) (.fin false 0 0)) && fits (vs.getD (2 * j + 1) (.fin false 0 0))
    let enc := vs.zipIdx.foldl (fun (acc : List Nat × Word) x =>
      let k : Int := (e : Int) - 127 - (if ms.getD (x.2 / 2) false then 1 else 0) - ((p : Int) - 1)
      let mag := match magAt c.md (acc.2.toNat % 65536) k x.1 with
        | some r => min r top
        | none => top
      (acc.1 ++ [mag + (if x.1.sign then 2 ^ p else 0)], c.step acc.2)) ([], q)
    (BitVec.ofNat 8 e :: BitVec.ofNat 8 (joinBits 1 (ms.map fun b => if b then 1 else 0)) ::
      leBytes (2 * (p + 1)) (joinBits (p + 1) enc.1), enc.2)

/-- Encode an MX block (R291): element codes, scale, state. DESIGN CHOICE (log 92): a block whose scale is written as 0xFF has element
codes 0. -/
def mxEncode (c : EncCtl) (code : Nat) (q : Word) (vs : List FVal) : List Nat × Nat × Word :=
  let x := blockExp c.fixed c.fexp (mxEmax code) vs
  let f := mxFmt code
  if x = 255 ∨ ((c.nanBlock ∨ code = 5) ∧ vs.any FVal.isNaN) then
    (vs.map fun _ => 0, 255, vs.foldl (fun q _ => c.step q) q)
  else
    let enc := vs.foldl (fun (acc : List Nat × Word) v =>
      let y := match v with
        | .fin n m e => FVal.fin n m (e + 127 - (x : Int))
        | v => v
      (acc.1 ++ [(fencode f c.md false (c.sat || code == 5) (acc.2.toNat % 65536) y).1], c.step acc.2)) ([], q)
    (enc.1, x, enc.2)

/-- `l` in pieces of `k`. -/
def chunksOf {α : Type} (k : Nat) : Nat → List α → List (List α)
  | 0, _ => []
  | n + 1, l => if l.isEmpty then [] else l.take k :: chunksOf k n (l.drop k)

/-- One element converted to a plain format by CVT's rules (R248), without FTZ or flags; an integer source converted to
an integer takes no rounding mode. -/
def encodePlain (c : EncCtl) (intSrc : Bool) (code : Nat) (q : Word) (v : FVal) : Nat × Word :=
  match cvtFmt code with
  | some f => ((fencode f c.md false c.sat (q.toNat % 65536) v).1, c.step q)
  | none =>
    let (s, n) := cvtInt false code
    (wrapTo n (fToInt c.md (q.toNat % 65536) (intMin s n) (intMax s n) v).1, if intSrc then q else c.step q)

/-- Encode a run (R291, R316, R324): element bytes, scale bytes, state. -/
def encodeRun (c : EncCtl) (intSrc : Bool) (code : Nat) (q : Word) (vs : List FVal) : List Byte × List Byte × Word :=
  if isSeb code then
    (chunksOf 16 vs.length vs).foldl (fun (acc : List Byte × List Byte × Word) b =>
      let r := sebEncode c (sebP code) acc.2.2 b
      (acc.1 ++ r.1, [], r.2)) ([], [], q)
  else if isMx code then
    let w := if code = 5 then 4 else 8
    (chunksOf 32 vs.length vs).foldl (fun (acc : List Byte × List Byte × Word) b =>
      let (es, x, q) := mxEncode c code acc.2.2 b
      (acc.1 ++ leBytes (b.length * w / 8) (joinBits w es), acc.2.1 ++ [BitVec.ofNat 8 x], q)) ([], [], q)
  else
    vs.foldl (fun (acc : List Byte × List Byte × Word) v =>
      let r := encodePlain c intSrc code acc.2.2 v
      (acc.1 ++ leBytes (plainBytes code) r.1, [], r.2)) ([], [], q)

/-- RND of a format word or card (R304): 0 means RNE. -/
def engineMode (rnd : Nat) : RMode := if rnd = 0 then .rne else rmodeOf rnd

/-! Accumulation (R307, R308) -/

/-- The class of a format code (R305). -/
inductive ArrClass where
  | four | eight | int | sixteen | fp32 | none
  deriving DecidableEq, Repr

def arrClass (code : Nat) : ArrClass :=
  match code with
  | 5 | 9 | 10 => .four
  | 3 | 4 | 11 | 12 | 13 => .eight
  | 6 | 7 => .int
  | 1 | 2 => .sixteen
  | 0 => .fp32
  | _ => .none

/-- `add_rne` (R307): an infinite accumulator stays. -/
def addRne (acc : FVal) (s : FVal) (q : List FVal) : Nat :=
  match acc with
  | .inf n => finf fmtF32 n
  | _ =>
    match sumFinite .rne [acc, s] with
    | .fin n m e =>
      if m = 0 then
        (if acc.sign && acc.isZero && q.all fun p => p.isZero && p.sign then 0x80000000 else 0)
      else (fround fmtF32 .rne false false 0 n ⟨m, 1, e⟩).1
    | v => (fencode fmtF32 .rne false false 0 v).1

/-- `group` (R307): eight finite products in a 64-bit window. -/
def groupSum (q : List FVal) : FVal :=
  match amaxLog q with
  | none => .fin false 0 0
  | some e =>
    let u := e - 59
    FVal.ofInt false (q.foldl (fun a v => match v with
      | .fin n m x =>
        let t := (roundInt .rtz 0 n ⟨m, 1, x⟩ u).1
        if m = 0 then a else a + (if n then -(t : Int) else (t : Int))
      | _ => a) 0) u

/-- The special cases of an FP32 pass (R308). -/
def passSpecial (acc : FVal) (a w p : List FVal) : Option Nat :=
  let all := acc :: p
  if acc.isNaN || a.any FVal.isNaN || w.any FVal.isNaN || p.any FVal.isNaN then some 0x7FC00000
  else
    let pi := all.any fun v => v.isInf && !v.sign
    let ni := all.any fun v => v.isInf && v.sign
    if pi && ni then some 0x7FC00000
    else if pi then some (finf fmtF32 false)
    else if ni then some (finf fmtF32 true)
    else none

/-- One row passing the plane, for one column (R307). -/
def arrPass (cls : ArrClass) (acc : Word) (a w : List FVal) : Word :=
  let p := (a.zip w).map fun x => (fmulExact x.1 x.2).1
  match cls with
  | .int => BitVec.ofInt 32 (acc.toInt + p.foldl (fun s v => s + v.at 0) 0)
  | _ =>
    let va := fdecode fmtF32 acc.toNat
    match passSpecial va a w p with
    | some r => BitVec.ofNat 32 r
    | none =>
      match cls with
      | .four | .eight => BitVec.ofNat 32 (addRne va (sumFinite .rne p) p)
      | _ => (chunksOf 8 128 p).foldl (fun acc g =>
          BitVec.ofNat 32 (addRne (fdecode fmtF32 acc.toNat) (groupSum g) g)) acc

end Sys2Proof.Machine
end

