-- ==== Sys2Proof/Machine/Memory.lean ====
section
/-! DEFINITION. The VM and SM instructions (spec 11 R262 to R273, 09 R236): addresses and their checks, the parts of an
access, its issue. -/

namespace Sys2Proof.Machine

/-! Regions -/

/-- What a core knows of a context's regions (R124). -/
def Core.rmuOf (k : Core) (ctx : Nat) : RegionUnit :=
  (k.rmu.find? fun r => r.ctx == ctx).getD ⟨ctx, [], false, false⟩

/-- The latches and scopes of the regions that the bytes of an access's parts overlap (R125). -/
def RegionUnit.tagsOf (r : RegionUnit) (size : Nat) (parts : List LaneAcc) : List (Nat × Nat) :=
  ((r.slots.filter fun e => parts.any fun p =>
    match p.at_ with
    | .pa _ => decide (p.va.toNat < e.base + e.len) && decide (e.base < p.va.toNat + size)
    | .scratch _ _ => false).map fun e => (e.latch, e.scope)).eraseDups

/-- Whether a store of the context is tagged WILD (R124, R125). -/
def RegionUnit.wild (r : RegionUnit) : Bool := r.more || r.unknown

/-- An access with the tags that its core's region-match unit gives it (R125). -/
def Access.tagged (a : Access) (k : Core) : Access :=
  if a.kind.isStore then
    let r := k.rmuOf a.ctx
    { a with tags := r.tagsOf a.size a.parts, wild := r.wild && a.parts.any fun p => match p.at_ with
        | .pa _ => true
        | .scratch _ _ => false }
  else a

/-! Issue -/

/-- The line that a place lies in. -/
def Place.line : Place → Nat × Nat
  | .pa a => (0, a / 128)
  | .scratch w o => (w + 1, o / 128)

/-- The store-buffer entries that an access holds (R125): one for each line. -/
def Access.entries (a : Access) : Nat :=
  if a.kind.isStore then ((a.parts.filter fun p => !p.done).map fun p => p.at_.line).eraseDups.length else 0

/-- What one part of an access asks of its core's miss table (R74): sector fills by sector, one ownership request by line, or an
uncached access of its own. A part that hits, and one that waits for an offline home, asks nothing. -/
structure Missing where
  fills : List Nat
  owns : List Nat
  solo : Nat
  deriving DecidableEq, Repr

/-- The sectors of a line that an L1 does not hold, of those that a range of bytes touches. -/
def Core.absent (k : Core) (x i n : Nat) : List Nat :=
  let valid : Byte := match k.l1Find x with
    | some (_, l) => l.valid
    | none => 0
  ((List.range 8).filter fun j => (sectorMask i n).getLsbD j && !valid.getLsbD j).map fun j => 8 * x + j

/-- Whether an L1 holds a line E or M: a store hits then (R70). -/
def Core.owns (k : Core) (x : Nat) : Bool := k.l1Find x |>.any fun e => decide (e.2.st = .m) || decide (e.2.st = .e)

def State.missing (s : State) (a : Access) (p : LaneAcc) : Missing :=
  match p.at_ with
  | .scratch _ _ => ⟨[], [], 0⟩
  | .pa pa =>
    let k := s.core a.core
    let x := pa / 128
    if p.done || s.partOffline a p then ⟨[], [], 0⟩
    else if !paHomed pa || p.nc then ⟨[], [], 1⟩
    else
      match a.kind with
      | .load => ⟨k.absent x (pa % 128) a.size, [], 0⟩
      | .store | .nibble => ⟨[], if k.owns x then [] else [x], 0⟩
      | .atomic _ => ⟨[], [], if decide (a.scope ≤ 3) && s.l1Owns a.core x then 0 else 1⟩
      | .clean => ⟨[], if decide (4 ≤ a.scope) && !s.dieOwns (a.core / 96) x then [x] else [], 0⟩
      | .drop => ⟨[], [], if 4 ≤ a.scope then 1 else 0⟩
      | .pref => ⟨k.absent x 0 128, [], 0⟩
      | .given => ⟨[], [], 0⟩

/-- The miss-table entries of a list of accesses, each sector and each line once (R74). -/
def State.missCount (s : State) (l : List Access) : Nat :=
  let m := l.flatMap fun a => a.parts.map (s.missing a)
  (m.flatMap (·.fills)).eraseDups.length + (m.flatMap (·.owns)).eraseDups.length + (m.map (·.solo)).foldl (· + ·) 0

/-- Whether a core's store buffer and miss table have room for one more access (R74, R125): one that hits goes on. -/
def State.accRoom (s : State) (a : Access) : Bool :=
  let mine := (s.accs.filter fun e => e.2.core == a.core).map (·.2)
  let n := (mine.map Access.entries).foldl (· + ·) 0
  decide (n + a.entries ≤ 256) && (decide (s.missCount [a] = 0) || decide (s.missCount (a :: mine) ≤ 2048))

/-- An instruction that completes as it issues: its counter falls again at once unless an older one is pending
(R76). -/
def Thread.ctrPulse (t : Thread) (c : Ctr) (uid : Nat) : Thread :=
  { t with w := { t.w with pend := pendFront [] (t.w.pend ++ [⟨c, uid, true⟩]) } }

/-- An access of a thread for its lanes `m`. -/
def Thread.access (t : Thread) (m : LaneMask) (kind : AccKind) (size scope hint : Nat) (block : Bool) (dest : AccDest)
    (parts : List LaneAcc) : Access where
  owners := [t.id]
  lanes := m <<< t.w.famOff
  wg := t.w.wg
  core := t.core
  ctx := t.ctx.slot
  asid := t.ctx.asid
  kind := kind
  size := size
  scope := if scope = 0 then 2 else scope
  hint := hint
  block := block
  cls := t.cls
  dest := dest
  tags := []
  wild := false
  parts := parts
  pc := t.w.pc
  code := kind.code
  side := 0

/-- Issue an access (R74 to R77, R125, R126): a store at warp scope is complete in the store buffer. -/
def Thread.startAcc (t : Thread) (c : Option Ctr) (a : Access) : Res :=
  if (match c with | some c => t.ctrFull c | none => false) || !t.s.accRoom a then .again t
  else
    let (s, uid) := t.s.newUid
    let t := { t with s := s }
    let early := a.parts.isEmpty || (a.kind.isStore && decide (a.scope = 1))
    let t := match c with
      | none => t
      | some c => if early then t.ctrPulse c uid else t.raiseCtr c uid
    if a.parts.isEmpty then .next t
    else .next { t with s := { t.s with accs := mapPut t.s.accs uid (a.tagged (t.s.core t.core)) } }

/-! VM -/

/-- Bytes of a VM size code (R34). -/
def vmBytes (size : Nat) : Nat := if size = 5 then 1 else 2 ^ size

/-- Registers of a VM size code. -/
def vmRegs (size : Nat) : Nat := if size = 3 then 2 else if size = 4 then 4 else 1

/-- The address operands of a VM word (R193). -/
def vmAddrOpds (f : VmF) : List Opd :=
  [.s f.sbase.toNat (if f.space = 0 then 2 else 1) 2, .v f.voff.toNat 1 1] ++ guardOpd f.gen f.gs

/-- A lane's address (R30, R31). -/
def Thread.vmEa (t : Thread) (f : VmF) (l : Nat) : Dword :=
  let off := t.vreg l f.voff.toNat
  if f.space = 0 then t.w.spair f.sbase.toNat + off.setWidth 64 else (t.w.sreg f.sbase.toNat + off).setWidth 64

/-- Check one address (R30 to R32, R35): alignment, then the space's own checks. -/
def Thread.spaceCheck (t : Thread) (space size align : Nat) (ea : Dword) : Option Nat :=
  if ea.toNat % align ≠ 0 then some 0x03
  else if space = 0 then (if t.canonical ea then none else some 0x04)
  else if space = 1 then (if t.g.alloc < ea.toNat + size then some 0x06 else none)
  else if t.launch.image.cluster ≤ ea.toNat / 2 ^ 24 then some 0x07
  else if t.g.alloc < ea.toNat % 2 ^ 24 + size then some 0x06
  else none

/-- The first lane that fails, with its cause and address. -/
def Thread.laneCheck (t : Thread) (space size align : Nat) (ls : List (Nat × Dword)) : Option (Nat × Dword) :=
  ls.findSome? fun e => (t.spaceCheck space size align e.2).map fun c => (c, e.2)

/-- Where a checked scratch or cluster address lies (R31, R32). -/
def Thread.scratchPlace (t : Thread) (space : Nat) (ea : Dword) : Place :=
  if space = 1 then .scratch t.w.wg ea.toNat
  else
    let m := ea.toNat / 2 ^ 24
    match (t.s.clusterOf t.g).find? fun e => e.2.clmember == m with
    | some e => .scratch e.1 (ea.toNat % 2 ^ 24)
    | none => .scratch t.w.wg (ea.toNat % 2 ^ 24)

/-- What reading scratch places meets (R101). -/
def State.consumePlaces (s : State) (n : Nat) : List Place → Consumed
  | [] => .clean s
  | .scratch w o :: r =>
    if s.bad.isEmpty then .clean s
    else
      match s.consumeScratch w n [o] with
      | .clean s => s.consumePlaces n r
      | x => x
  | .pa _ :: r => s.consumePlaces n r

/-- The thread in a state that has changed around it. -/
def Thread.reload (t : Thread) (s : State) : Thread :=
  { t with s := s, w := (mapFind s.warps t.id).getD t.w, g := (mapFind s.wgs t.w.wg).getD t.g }

/-- What an instruction reads in scratch as it issues, `n` bytes at each place (R101). -/
def Thread.scratchSound (t : Thread) (n : Nat) (ps : List Place) : Except Res Thread :=
  if t.s.bad.isEmpty then .ok t
  else
    match t.put.consumePlaces n ps with
    | .later => .error (.again t)
    | .fails va s => .error (.trap (t.reload s) 0x0D va 0)
    | .clean s => .ok (t.reload s)

/-- Check and translate the addresses of an instruction's lanes (R35, R45): each lane's place, and whether a page has
PBMT NC. CLEAN and DROP count as reading their byte as they issue (log 38). -/
def Thread.places (t : Thread) (side access space size align : Nat) (ls : List (Nat × Dword)) (near : Bool := false) :
    Except Res (Thread × List (Place × Bool)) :=
  match t.laneCheck space size align ls with
  | some (c, ea) => .error (.trap t c ea 0)
  | none =>
    if space = 0 then
      match t.addresses side access (if access = 0 ∨ access = 2 then size else 0) (ls.map (·.2)) near with
      | .error r => .error r
      | .ok (t, ps) => .ok (t, ps.map fun p => (.pa p.1, p.2))
    else
      let ps := ls.map fun e => t.scratchPlace space e.2
      if access = 1 then .ok (t, ps.map fun p => (p, false))
      else (t.scratchSound size ps).map fun t => (t, ps.map fun p => (p, false))

/-- The parts of a lane: `n` pieces of `size` bytes of the data from its place up; its page's PBMT NC goes with the place (R40). -/
def laneParts (lane : Nat) (va : Dword) (at_ : Place × Bool) (n size : Nat) (data : List Byte) (high : Bool) : List LaneAcc :=
  (List.range n).map fun i =>
    { lane := lane, off := i * size, va := va + BitVec.ofNat 64 (i * size)
      at_ := match at_.1 with
        | .pa a => .pa (a + i * size)
        | .scratch w o => .scratch w (o + i * size)
      nc := at_.2
      data := (data.drop (i * size)).take size, high := high, done := false, txn := none }

/-- The one part of an atomic's lane. -/
def onePart (lane : Nat) (va : Dword) (at_ : Place) (nc : Bool) (data : List Byte) : LaneAcc :=
  { lane := lane, off := 0, va := va, at_ := at_, nc := nc, data := data, high := false, done := false, txn := none }

/-- The bytes of registers, the first one lowest. -/
def regBytes (ws : List Word) (n : Nat) : List Byte := (ws.flatMap fun w => leBytes 4 w.toNat).take n

/-- A VM access (R262): which lanes act, the ACCESS code, the bytes of a lane's extent and of each part, its alignment,
and the data of a lane with STN4's nibble. -/
structure VmOp where
  kind : AccKind
  acc : Nat
  extent : Nat
  part : Nat
  align : Nat
  block : Bool
  dest : AccDest
  ctr : Option Ctr
  deriving DecidableEq, Repr

/-- Perform the issue of a VM access: `data` gives what a lane stores. -/
def Thread.vmAccess (t : Thread) (f : VmF) (o : VmOp) (m : LaneMask) (data : Nat → List Byte × Bool) : Res :=
  let ls := (lanesOf t.w.width m).map fun l => (l, t.vmEa f l)
  match t.places 0 o.acc f.space.toNat o.extent o.align ls (o.kind.near f.scope.toNat) with
  | .error r => r
  | .ok (t, ps) =>
    let parts := (ls.zip ps).flatMap fun e =>
      let d := data e.1.1
      let split := match o.kind with
        | .atomic _ => false
        | _ => true
      if split then laneParts (t.w.fam e.1.1) e.1.2 e.2 (o.extent / o.part) o.part d.1 d.2
      else [onePart (t.w.fam e.1.1) e.1.2 e.2.1 e.2.2 d.1]
    t.startAcc o.ctr (t.access m o.kind o.part f.scope.toNat (if f.space = 0 then f.hint.toNat else 0) o.block o.dest parts)

/-- The lanes on which an instruction that writes memory acts (R367): helper lanes never do. -/
def Thread.writers (t : Thread) (gen ginv : Bool) (gs : BitVec 8) : LaneMask := t.w.active gen ginv gs.toNat &&& t.w.live

/-- The counter of a load or store by space (R75). -/
def vmCtr (f : VmF) (c : Ctr) : Option Ctr := some (if f.space = 0 then c else .lx)

/-- No data. -/
def noData (_ : Nat) : List Byte × Bool := ([], false)

/-- LD (R264). -/
def execLd (f : VmF) (s : State) : Host.Outcome State Fault Refusal :=
  let n := vmRegs f.size.toNat
  let b := vmBytes f.size.toNat
  issue (.ld f) (.dv f.vdata.toNat n n :: vmAddrOpds f) (f.space ≠ 3) (fun t =>
    t.vmAccess f ⟨.load, 0, b, b, b, false, .vec f.vdata.toNat n, vmCtr f .lg⟩
      (t.w.active f.gen f.ginv f.gs.toNat) noData) s

/-- ST (R265). -/
def execSt (f : VmF) (s : State) : Host.Outcome State Fault Refusal :=
  let n := vmRegs f.size.toNat
  let b := vmBytes f.size.toNat
  issue (.st f) (.v f.vdata.toNat n n :: vmAddrOpds f) (f.space ≠ 3) (fun t =>
    t.vmAccess f ⟨.store, 1, b, b, b, false, .none, vmCtr f .sg⟩ (t.writers f.gen f.ginv f.gs)
      (fun l => (regBytes (t.vregs l f.vdata.toNat n) b, false))) s

/-- STN4 (R266). -/
def execStn4 (f : VmF) (s : State) : Host.Outcome State Fault Refusal :=
  issue (.stn4 f) (.v f.vdata.toNat 1 1 :: vmAddrOpds f) (f.space ≠ 3) (fun t =>
    t.vmAccess f ⟨.nibble, 1, 1, 1, 1, false, .none, vmCtr f .sg⟩ (t.writers f.gen f.ginv f.gs)
      (fun l =>
        let v := t.vreg l f.vdata.toNat
        ([BitVec.ofNat 8 (v.toNat % 16)], v.getLsbD 4))) s

/-- LDW (R267). -/
def execLdw (f : VmF) (s : State) : Host.Outcome State Fault Refusal :=
  let n := 2 ^ f.cnt.toNat
  issue (.ldw f) (.dv f.vdata.toNat n n :: vmAddrOpds f) (f.space ≠ 3) (fun t =>
    t.vmAccess f ⟨.load, 0, 4 * n, min 32 (4 * n), 4 * n, false, .vec f.vdata.toNat n, vmCtr f .lg⟩
      (t.w.active f.gen f.ginv f.gs.toNat) noData) s

/-- STW (R267): chunks are performed in ascending address. -/
def execStw (f : VmF) (s : State) : Host.Outcome State Fault Refusal :=
  let n := 2 ^ f.cnt.toNat
  issue (.stw f) (.v f.vdata.toNat n n :: vmAddrOpds f) (f.space ≠ 3) (fun t =>
    t.vmAccess f ⟨.store, 1, 4 * n, min 32 (4 * n), 4 * n, true, .none, vmCtr f .sg⟩ (t.writers f.gen f.ginv f.gs)
      (fun l => (regBytes (t.vregs l f.vdata.toNat n) (4 * n), false))) s

/-- The number of registers that an atomic's operand takes (R268): for CAS the compare value comes first. -/
def atomRegs (op size : Nat) : Nat := (if op = 8 then 2 else 1) * vmRegs size

/-- The bytes of an atomic's operand. -/
def atomData (op size : Nat) (ws : List Word) : List Byte :=
  regBytes ws ((if op = 8 then 2 else 1) * vmBytes size)

/-- ATOM (R268, R269). -/
def atomExec (i : Instr) (op : Nat) (f : VmF) (s : State) : Host.Outcome State Fault Refusal :=
  let n := atomRegs op f.size.toNat
  let b := vmBytes f.size.toNat
  issue i (.v f.vdata.toNat n n :: vmAddrOpds f) (f.space ≠ 3) (fun t =>
    t.vmAccess f ⟨.atomic op, 2, b, b, b, false, .vec f.vdata.toNat (vmRegs f.size.toNat), some .at⟩
      (t.writers f.gen f.ginv f.gs) (fun l => (atomData op f.size.toNat (t.vregs l f.vdata.toNat n), false))) s

/-- ATOM_ADD (R268). -/
def execAtomAdd (f : VmF) (s : State) : Host.Outcome State Fault Refusal := atomExec (.atomAdd f) 0 f s
/-- ATOM_FADD (R269). -/
def execAtomFadd (f : VmF) (s : State) : Host.Outcome State Fault Refusal := atomExec (.atomFadd f) 1 f s
/-- ATOM_MIN (R268). -/
def execAtomMin (f : VmF) (s : State) : Host.Outcome State Fault Refusal := atomExec (.atomMin f) 2 f s
/-- ATOM_MAX (R268). -/
def execAtomMax (f : VmF) (s : State) : Host.Outcome State Fault Refusal := atomExec (.atomMax f) 3 f s
/-- ATOM_AND (R268). -/
def execAtomAnd (f : VmF) (s : State) : Host.Outcome State Fault Refusal := atomExec (.atomAnd f) 4 f s
/-- ATOM_OR (R268). -/
def execAtomOr (f : VmF) (s : State) : Host.Outcome State Fault Refusal := atomExec (.atomOr f) 5 f s
/-- ATOM_XOR (R268). -/
def execAtomXor (f : VmF) (s : State) : Host.Outcome State Fault Refusal := atomExec (.atomXor f) 6 f s
/-- ATOM_EXCH (R268). -/
def execAtomExch (f : VmF) (s : State) : Host.Outcome State Fault Refusal := atomExec (.atomExch f) 7 f s
/-- ATOM_CAS (R268). -/
def execAtomCas (f : VmF) (s : State) : Host.Outcome State Fault Refusal := atomExec (.atomCas f) 8 f s
/-- ATOM_INC (R268). -/
def execAtomInc (f : VmF) (s : State) : Host.Outcome State Fault Refusal := atomExec (.atomInc f) 9 f s
/-- ATOM_DEC (R268). -/
def execAtomDec (f : VmF) (s : State) : Host.Outcome State Fault Refusal := atomExec (.atomDec f) 10 f s
/-- ATOM_FADDBF (R269). -/
def execAtomFaddbf (f : VmF) (s : State) : Host.Outcome State Fault Refusal := atomExec (.atomFaddbf f) 11 f s

/-! Prefetches -/

/-- Translate the addresses of a prefetch (R39, R270): what cannot be reached is dropped, without a trap or record, once every walk
has ended. -/
def Thread.reachable (t : Thread) (vas : List Dword) : Except Res (Thread × List (Dword × Nat × Bool)) :=
  let vas := vas.filter t.canonical
  let (t, xs) := t.lookupAll 0 false vas
  if xs.contains .stall then .error (.again t)
  else .ok (t, (vas.zip xs).filterMap fun e => match e.2 with
    | .ok pa nc => some (e.1, pa, nc)
    | _ => none)

/-- Issue a prefetch of lines: the faults of its walks are forgotten as it issues. -/
def Thread.prefetch (t : Thread) (hint : Nat) (vas : List Dword) : Res :=
  match t.reachable vas with
  | .error r => r
  | .ok (t, ps) =>
    let u : Thread := { t with s := t.s.forgetMiss t.die t.id t.w.pc }
    match u.startAcc none (u.access u.w.exec .pref 1 0 hint false .none
      ((ps.filter fun p => !p.2.2).flatMap fun p => laneParts 0 p.1 (.pa p.2.1, false) 1 1 [] false)) with
    | .again _ => .again t
    | r => r

/-- PREF (R270). -/
def execPref (f : VmF) (s : State) : Host.Outcome State Fault Refusal :=
  issue (.pref f) (vmAddrOpds f) (f.space ≠ 3) (fun t =>
    t.prefetch f.hint.toNat ((lanesOf t.w.width (t.w.active f.gen f.ginv f.gs.toNat)).map (t.vmEa f))) s

/-- CLEAN (R270). -/
def execClean (f : VmF) (s : State) : Host.Outcome State Fault Refusal :=
  issue (.clean f) (vmAddrOpds f) (f.space ≠ 3) (fun t =>
    t.vmAccess f ⟨.clean, 0, 1, 1, 1, false, .none, some .sg⟩ (t.w.active f.gen f.ginv f.gs.toNat) noData) s

/-- DROP (R270). -/
def execDrop (f : VmF) (s : State) : Host.Outcome State Fault Refusal :=
  issue (.drop f) (vmAddrOpds f) (f.space ≠ 3) (fun t =>
    t.vmAccess f ⟨.drop, 2, 1, 1, 1, false, .none, some .sg⟩ (t.w.active f.gen f.ginv f.gs.toNat) noData) s

/-! SM -/

/-- The address of an SM form (R30, R271). -/
def Thread.smEa (t : Thread) (f : SmF) : Dword := t.w.spair f.sbase.toNat + f.off.signExtend 64

/-- A scalar access of `n` bytes at `ea` in parts of at most 16 bytes (R140, R271). -/
def Thread.smAccess (t : Thread) (kind : AccKind) (acc n : Nat) (ea : Dword) (scope : Nat) (dest : AccDest)
    (data : List Byte) : Res :=
  if ea.toNat % n ≠ 0 then .trap t 0x03 ea 0
  else
    match t.address 0 acc n ea with
    | .error r => r
    | .ok (t, pa, nc) =>
      let p := min n 16
      let parts := match kind with
        | .atomic _ => [onePart 0 ea (.pa pa) nc data]
        | _ => laneParts 0 ea (.pa pa, nc) (n / p) p data false
      t.startAcc (some .sl) { t.access t.w.exec kind p scope 0 false dest parts with code := acc }

/-- SLD (R271). -/
def execSld (f : SmF) (s : State) : Host.Outcome State Fault Refusal :=
  let n := 2 ^ f.size.toNat
  issue (.sld f) [.s f.sbase.toNat 2 2, .ds f.sd.toNat n n] true (fun t =>
    t.smAccess .load 0 (4 * n) (t.smEa f) f.scope.toNat (.scal f.sd.toNat n) []) s

/-- SST (R271). -/
def execSst (f : SmF) (s : State) : Host.Outcome State Fault Refusal :=
  let n := 2 ^ f.size.toNat
  issue (.sst f) [.s f.sbase.toNat 2 2, .s f.sd.toNat n n] true (fun t =>
    t.smAccess .store 1 (4 * n) (t.smEa f) f.scope.toNat .none
      (regBytes ((List.range n).map fun i => t.w.sreg (f.sd.toNat + i)) (4 * n))) s

/-- SLDL (R236): checked as an instruction fetch. -/
def execSldl (f : SmF) (s : State) : Host.Outcome State Fault Refusal :=
  let n := 2 ^ f.size.toNat
  issue (.sldl f) [.ds f.sd.toNat n n] true (fun t =>
    t.smAccess .load 3 (4 * n) (t.w.pc + f.off.signExtend 64) 2 (.scal f.sd.toNat n) []) s

/-- SATOM (R272). -/
def execSatom (f : SmF) (s : State) : Host.Outcome State Fault Refusal :=
  let op := satomOp f
  let size := f.size.toNat + 2
  let n := atomRegs op size
  issue (.satom f) [.s f.sbase.toNat 2 2, .s f.sd.toNat n n] true (fun t =>
    let ea := t.w.spair f.sbase.toNat + (f.off.extractLsb' 4 26).signExtend 64
    t.smAccess (.atomic op) 2 (vmBytes size) ea f.scope.toNat (.scal f.sd.toNat (vmRegs size))
      (atomData op size ((List.range n).map fun i => t.w.sreg (f.sd.toNat + i)))) s

/-- SPREF (R273): every line that the range meets. -/
def execSpref (f : SmF) (s : State) : Host.Outcome State Fault Refusal :=
  issue (.spref f) [.s f.sbase.toNat 2 2] true (fun t =>
    let ea := t.smEa f
    let last := ea + BitVec.ofNat 64 (4 * 2 ^ f.size.toNat - 1)
    t.prefetch 0 (if ea.toNat / 128 = last.toNat / 128 then [ea] else [ea, last])) s

/-! Replay of an issued access (R52, R54) -/

/-- Whether a part is translated again: it is not performed, and no request of it is on its way. -/
def LaneAcc.again (p : LaneAcc) : Bool := !p.done && p.txn.isNone && (match p.at_ with
  | .pa _ => true
  | .scratch _ _ => false)

/-- The parts with the places of a new translation. -/
def newPlaces : List LaneAcc → List (Nat × Bool) → List LaneAcc
  | p :: r, (pa, nc) :: ps =>
    if p.again then { p with at_ := .pa pa, nc := nc } :: newPlaces r ps else p :: newPlaces r ((pa, nc) :: ps)
  | ps, _ => ps

/-- The warp that replays an access: its fault has been answered, or its home is back. -/
def State.replayer (s : State) (uid : Nat) (a : Access) : Option (Nat × Warp × Workgroup) :=
  a.owners.findSome? fun id =>
    match mapFind s.warps id with
    | none => none
    | some w =>
      if w.offl.any fun o => o.uid == uid && o.park.isNone then
        match mapFind s.wgs w.wg with
        | some g => if s.away w.wg then none else some (id, w, g)
        | none => none
      else none

/-- An access's replay fails in translation: it parks again, or is rejected at once (R50, R52). -/
def State.replayFault (s : State) (uid : Nat) (a : Access) (t : Thread) (ftype level : Nat) (va : Dword) (home : Nat) : State :=
  let s0 := s.forgetMiss t.die t.id a.pc
  if t.ctx.nofq ∧ ftype ≠ 6 then s0.accEnd uid a 0x05 va (t.parkOf a.side a.code ftype level va home).rejectImm
  else if 512 < (s.die t.die).fheld.length + a.owners.length then s
  else a.owners.foldl (fun s id => s.parkIssued uid a ftype level va home id) s0

/-- An issued access that has been parked goes on with what it has not performed (R52, R54): from R45 step 1, with a new translation;
it raises its counters again and takes its place in the store buffer and the miss table when they have room (R74, R77). -/
def State.accReplay (s : State) (uid : Nat) (a : Access) (id : Nat) (w : Warp) (g : Workgroup) : State :=
  let vas := (a.parts.filter LaneAcc.again).map fun p => p.va
  let (t, xs) := Thread.lookupAll ⟨s, id, { w with pc := a.pc }, g⟩ a.code (a.kind.near a.scope) vas
  let s := t.s
  if xs.contains .stall then s
  else
    match firstFail vas xs with
    | some (va, .violation) => (s.forgetMiss t.die id a.pc).accFail uid a 0x04 va
    | some (va, .fault ft lv) => s.replayFault uid a t ft lv va 0
    | some (va, .offline h lv) => s.replayFault uid a t 6 lv va h
    | _ =>
      let ps := xs.filterMap fun x => match x with
        | .ok pa nc => some (pa, nc)
        | _ => none
      let b := { a with parts := newPlaces a.parts ps }.tagged (s.core a.core)
      let mine (o : OffAcc) : Bool := o.uid == uid
      let full := a.owners.any fun i => (mapFind s.warps i).any fun v =>
        v.offl.any fun o => mine o && o.ctr.any fun c => decide (255 ≤ ctrVal v.pend c)
      if full || !State.accRoom { s with accs := mapDel s.accs uid } b then s
      else
        a.owners.foldl (fun s i => s.modWarp i fun v =>
          let raised := (v.offl.filter mine).filterMap fun o => o.ctr.map fun c => (⟨c, uid, false⟩ : Pend)
          ({ v with pend := v.pend ++ raised } : Warp).offEnd s.clock mine) { s with accs := mapPut s.accs uid b }

/-- MEMORY_ACCESS_COMPLETION (R76): the parts named go on, in the order given; when all are performed the counter
falls, and what waited for the access is looked at again (R54, R101, R137, R169). One that was parked translates first. -/
def execMemoryAccessCompletion (uid : Nat) (parts : List Nat) (s : State) : Host.Outcome State Fault Refusal :=
  event true (fun s =>
    match mapFind s.accs uid with
    | none => s
    | some a =>
      match s.replayer uid a with
      | some (id, w, g) => s.accReplay uid a id w g
      | none => ((parts.foldl (fun s i => s.partGo uid i) s).accSettle uid).settle a.wg) s

end Sys2Proof.Machine
end

