-- ==== Sys2Proof/Machine/Sync.lean ====
section
/-! DEFINITION. The SY instructions and the events of waiting (spec 06 R118 to R137, 11 R274 to R282, 07 R168, R171):
barriers, waits, latches, the region table, fences. -/

namespace Sys2Proof.Machine

/-! Barriers -/

/-- Reach a barrier (R171, R275, R355, R385): the path parks there, or nothing changes. -/
def Thread.barrier (t : Thread) (i : Instr) (k : BarKind) : Res :=
  let p := t.w.asPath t.w.pc (.bar k) 0 false
  if t.w.handler then .trap t 0x01 (word0 i) 0
  else if !canPark t.w.paths p then .trap t 0x0B 0 0
  else .parked { t with w := ({ t.w with paths := parkPath t.w.paths p, stall := none } : Warp).switch t.s.clock } t.w.exec

/-- BAR (R171, R275). -/
def execBar (f : SyF) (s : State) : Host.Outcome State Fault Refusal :=
  issue (.bar f) [] true (fun t => t.barrier (.bar f) .bar) s

/-- BARC (R171, R275). -/
def execBarc (f : SyF) (s : State) : Host.Outcome State Fault Refusal :=
  issue (.barc f) [] true (fun t => t.barrier (.barc f) .barc) s

/-- BARD (R157, R171, R275): only in a launch with the co-resident-die flag. -/
def execBard (f : SyF) (s : State) : Host.Outcome State Fault Refusal :=
  issue (.bard f) [] true (fun t =>
    if !t.launch.coop then .trap t 0x01 (word0 (.bard f)) 0 else t.barrier (.bard f) .bard) s

/-! Waiting -/

/-- A condition is false (R168): the path waits at the instruction. -/
def Thread.wait (t : Thread) : Res := .again { t with w := t.w.waitHere t.s.clock }

/-- The counter of a WAITC kind (R276). -/
def ctrOf (kind : Nat) : Ctr :=
  match kind with
  | 0 => .lg | 1 => .sg | 2 => .lx | 3 => .at | 4 => .gx | 5 => .en | 6 => .wq | _ => .sl

/-- Whether the counters that a WAITC selects are at most `m` (R276). -/
def Warp.ctrAtMost (w : Warp) (kind m : Nat) : Bool :=
  if kind = 8 then (List.range 8).all fun k => decide (ctrVal w.pend (ctrOf k) ≤ m)
  else decide (ctrVal w.pend (ctrOf kind) ≤ m)

/-- WAITC (R276). -/
def execWaitc (f : SyF) (s : State) : Host.Outcome State Fault Refusal :=
  issue (.waitc f) [] true (fun t =>
    if t.w.ctrAtMost f.kind.toNat (f.imm.toNat % 256) then .next t else t.wait) s

/-- The value operand of WAITB, ARRB, ACQ and REL (R278, R279). -/
def Thread.valueOf (t : Thread) (f : SyF) : Word :=
  if f.kind.getLsbD 2 then f.imm.setWidth 32 else t.w.sreg f.sb.toNat
def valueOpd (f : SyF) : List Opd := if f.kind.getLsbD 2 then [] else [.s f.sb.toNat 1 1]

/-- Whether an earlier access of the thread's warp to a place is not performed yet: what acts on it at issue comes after it
(R128). -/
def Thread.accPending (t : Thread) (p : Place) (n : Nat) : Bool :=
  t.s.accs.any fun e => !e.2.kind.isPref && decide (e.2.kind ≠ .given) && e.2.owners.contains t.id && !(e.2.pending p n).isEmpty

/-- Scratch bytes at a place as a number; none while the member is saved (R32). -/
def State.scratchNat (s : State) (p : Place) (n : Nat) : Option Nat :=
  match p with
  | .scratch w o =>
    match mapFind s.wgs w with
    | some g => if g.phase = .saved then none else some (leNat (getScratch g.scratch o n))
    | none => some 0
  | .pa _ => none
def State.putScratchAt (s : State) (wg o : Nat) (bs : List Byte) : State :=
  s.modWg wg fun g => { g with scratch := putScratch g.scratch o bs }

/-- The object that a WAITB or ARRB names, checked as a 16-byte access (R278). -/
def Thread.barObject (t : Thread) (f : SyF) : Except (Nat × Dword) Place :=
  let space := if f.kind.getLsbD 0 then 2 else 1
  let ea := (t.w.sreg f.sa.toNat).setWidth 64
  match t.spaceCheck space 16 16 ea with
  | some c => .error (c, ea)
  | none => .ok (t.scratchPlace space ea)

/-- WAITB (R278). -/
def execWaitb (f : SyF) (s : State) : Host.Outcome State Fault Refusal :=
  issue (.waitb f) (.s f.sa.toNat 1 1 :: valueOpd f) true (fun t =>
    match t.barObject f with
    | .error (c, ea) => .trap t c ea 0
    | .ok p =>
      if t.accPending p 16 then t.wait
      else
      match t.scratchSound 8 [p] with
      | .error r => r
      | .ok t =>
        match ({ t.s with wgs := mapPut t.s.wgs t.w.wg t.g } : State).scratchNat p 8 with
        | none => t.wait
        | some x => if bitOf x 32 != (t.valueOf f).getLsbD 0 then .next t else t.wait) s

/-- `arrive` (R277) on the bytes of an object. -/
def arriveNat (x k : Nat) : Nat :=
  let count := x % 2 ^ 32
  let phase := x / 2 ^ 32
  if count = 0 then x
  else if count ≤ k then (if bitOf phase 0 then phase - 1 else phase + 1) * 2 ^ 32
  else phase * 2 ^ 32 + (count - k)

/-- Count an object of a workgroup's scratch down (R277). -/
def Workgroup.arrive (g : Workgroup) (o k : Nat) : Workgroup :=
  let x := arriveNat (leNat (getScratch g.scratch o 8)) k
  { g with scratch := putScratch g.scratch o (leBytes 8 x) }
def State.arrive (s : State) (wg o k : Nat) : State := s.modWg wg fun g => g.arrive o k

/-- Whether an access or a job is still in progress. -/
def State.busyUid (s : State) (u : Nat) : Bool := (mapFind s.accs u).isSome || (mapFind s.jobs u).isSome

/-- Stall at the instruction until what `waits` finds outstanding when it issues is performed (R274). -/
def Thread.stallAt (t : Thread) (stage : Nat) (waits : List Nat) (k : Thread → Res) : Res :=
  let begin_ : Res := if waits.isEmpty then k t else .again { t with w := { t.w with stall := some ⟨t.w.pc, waits, stage, []⟩ } }
  match t.w.stall with
  | some x => if x.pc = t.w.pc then (if x.waits.any t.s.busyUid then .again t else k t) else begin_
  | none => begin_
def Thread.stallOn (t : Thread) (waits : List Nat) (k : Thread → Res) : Res := t.stallAt 0 waits k

/-- The stores of the workgroup that are not performed (R136): none at warp scope. -/
def Thread.storeWaits (t : Thread) (scope : Nat) : List Nat :=
  if scope ≤ 1 then []
  else (t.s.accs.filter fun e => e.2.wg == t.w.wg && e.2.kind.isStore).map (·.1)

/-- The warp's loads and atomics that are not performed (R136). -/
def Thread.loadWaits (t : Thread) : List Nat :=
  (t.s.accs.filter fun e => e.2.owners.contains t.id && (match e.2.kind with
    | .load | .atomic _ => true
    | _ => false)).map (·.1)

/-- ARRB (R278). -/
def execArrb (f : SyF) (s : State) : Host.Outcome State Fault Refusal :=
  issue (.arrb f) (.s f.sa.toNat 1 1 :: valueOpd f) true (fun t =>
    match t.barObject f with
    | .error (c, ea) => .trap t c ea 0
    | .ok p =>
      t.stallOn (t.storeWaits 2) fun t =>
        if t.accPending p 16 then .again t
        else
        match t.scratchSound 8 [p] with
        | .error r => r
        | .ok t =>
        match p with
        | .scratch wg o =>
          if wg = t.w.wg then .next { t with g := t.g.arrive o (t.valueOf f).toNat }
          else
            match t.s.scratchNat p 8 with
            | none => .again t
            | some _ => .next { t with s := t.s.arrive wg o (t.valueOf f).toNat }
        | .pa _ => .next t) s

/-! Latches -/

/-- The physical address of a latch, checked (R119): alignment, the address, bytes 8 to 15. -/
def Thread.latch (t : Thread) (va : Dword) : Except Res (Thread × Nat × Bool) :=
  if va.toNat % 16 ≠ 0 then .error (.trap t 0x03 va 0)
  else
    match t.address 0 2 16 va with
    | .error r => .error r
    | .ok (t, pa, nc) =>
      if t.s.paBusy pa || t.accPending (.pa pa) 16 then .error (.again t)
      else if t.s.viewNat (pa + 8) 8 ≠ 0 then .error (.trap t 0x02 va 0)
      else .ok ({ t with s := t.s.homeTouch (some t.die) pa t.cls false }, pa, nc)

/-- The wake messages of a latch update from its old 8 bytes and the value that it holds now (R120). -/
def wakesOf (die pa old new : Nat) : List CtlMsg :=
  if old % 2 ^ 32 = new % 2 ^ 32 then []
  else ((List.range 9).filter fun d => bitOf old (32 + d)).map fun d => ⟨die, d, .latchWake pa⟩

/-- A latch update by the part, in one step as an atomic at system scope (R120, R332). -/
def State.latchUpdate (s : State) (pa value : Nat) (set : Bool) (die : Nat) : State :=
  let old := s.viewNat pa 8
  let new := atomicOp (if set then 12 else 13) 64 old value 0
  let s := s.sysWrite pa (leBytes 8 new)
  { s with ctl := s.ctl ++ wakesOf die pa old new }

/-- Whether two ranges of global memory share a 4 KiB page. -/
def samePages (a b c d : Nat) : Bool := decide (a / 4096 ≤ (d - 1) / 4096) && decide (c / 4096 ≤ (b - 1) / 4096)

/-- What a REL waits for (R131, R132): stores and jobs of its workgroup. -/
def Thread.relWaits (t : Thread) (va : Dword) (scope : Nat) : List Nat :=
  let r := (t.s.core t.core).rmuOf t.ctx.slot
  let mine := r.slots.filter fun e => e.latch == va.toNat
  let jobs := t.s.jobs.filter fun e => e.2.wg == t.w.wg && !e.2.writes.isEmpty
  let stores := t.s.accs.filter fun e => e.2.wg == t.w.wg && e.2.kind.isStore
  if r.unknown || mine.isEmpty then
    (if r.unknown || r.more || decide (2 ≤ scope) then stores.map (·.1) else []) ++ jobs.map (·.1)
  else
    (stores.filter fun e => e.2.wild || e.2.tags.any (fun g => g.1 == va.toNat) ||
      (decide (2 ≤ scope) && e.2.parts.any fun p => match p.at_ with | .scratch _ _ => true | .pa _ => false)).map (·.1) ++
    (jobs.filter fun e => r.more || e.2.writes.any fun x => x.glob && mine.any fun m =>
      samePages x.lo x.hi m.base (m.base + m.len)).map (·.1)

/-- REL (R119, R120, R131 to R134, R279): it waits, then its update is one atomic on VALUE and WAITERS. -/
def execRel (f : SyF) (s : State) : Host.Outcome State Fault Refusal :=
  issue (.rel f) (.s f.sa.toNat 2 2 :: valueOpd f) true (fun t =>
    let va := t.w.spair f.sa.toNat
    let v := (t.valueOf f).toNat
    let add := f.kind.getLsbD 0
    let go (t : Thread) : Res :=
      match t.latch va with
      | .error r => r
      | .ok (t, pa, nc) =>
        t.stallAt 2 (t.relWaits va f.scope.toNat) fun t =>
          let a := t.access t.w.exec (.atomic (if add then 13 else 12)) 8 f.scope.toNat 0 false .stall
            [onePart 0 va (.pa pa) nc (leBytes 8 v)]
          if !t.s.accRoom a then .again t
          else
            let (s, uid) := t.s.newUid
            .again { t with s := { s with accs := mapPut s.accs uid a }
                            w := { t.w with stall := some ⟨t.w.pc, [uid, pa], 1, []⟩ } }
    match t.w.stall with
    | some x =>
      if x.pc = t.w.pc ∧ x.stage = 1 then
        if t.s.busyUid (x.waits.headD 0) then .again t
        else
          let old := leNat x.got
          let new := if add then old + v else v
          .next { t with s := { t.s with ctl := t.s.ctl ++ wakesOf t.die (x.waits.getD 1 0) old new } }
      else go t
    | none => go t) s

/-- The record of a waiting ACQ. -/
def State.acqAt (s : State) (warp : Nat) (pc : Dword) : Option AcqWait :=
  s.acqs.find? fun a => a.warp == warp && a.pc == pc
def State.acqDel (s : State) (warp : Nat) (pc : Dword) : State :=
  { s with acqs := s.acqs.filter fun a => !(a.warp == warp && a.pc == pc) }

/-- ACQ (R119, R120, R135, R279): a read of VALUE; when the condition is false the die's waiter bit is set, and the
path waits for a wake or for 2 µs before it reads again. With no room for the atomic OR it stalls (R74). -/
def execAcq (f : SyF) (s : State) : Host.Outcome State Fault Refusal :=
  issue (.acq f) (.s f.sa.toNat 2 2 :: valueOpd f) true (fun t =>
    let va := t.w.spair f.sa.toNat
    let idle := match t.s.acqAt t.id t.w.pc with
      | some a => !a.wake
      | none => false
    if idle then t.wait
    else
      match t.latch va with
      | .error r => r
      | .ok (t, pa, nc) =>
        let x := t.s.viewNat pa 8
        let v := x % 2 ^ 32
        let want := (t.valueOf f).toNat
        let s := t.s.acqDel t.id t.w.pc
        if (if f.kind.getLsbD 0 then decide (v = want) else decide (want ≤ v)) then .next { t with s := s }
        else
          let a : Access := { t.access t.w.exec (.atomic 5) 4 4 0 false .none
            [onePart 0 (va + 4) (.pa (pa + 4)) nc (leBytes 4 (2 ^ t.die))] with owners := [] }
          let set := bitOf x (32 + t.die)
          if !set && !s.accRoom a then .again t
          else
            let s : State := { s with acqs := s.acqs ++ [⟨t.id, t.w.pc, t.die, pa, s.tick, false⟩] }
            let s := if set then s
              else
                let (s, uid) := s.newUid
                { s with accs := mapPut s.accs uid a }
            ({ t with s := s } : Thread).wait) s

/-- LATCHWAKE (R120): the waiting ACQs of the die read again. -/
def execLatchwake (k : Nat) (s : State) : Host.Outcome State Fault Refusal :=
  event true (fun s => s.takeCtl k fun m s => match m.body with
    | .latchWake pa => some { s with acqs := s.acqs.map fun a => if a.die = m.dst ∧ a.pa = pa then { a with wake := true } else a }
    | _ => none) s

/-- ACQ_REREAD_TIMEOUT (R120): 2 µs after the last read. -/
def execAcqRereadTimeout (warp : Nat) (pc : Dword) (s : State) : Host.Outcome State Fault Refusal :=
  event true (fun s =>
    { s with acqs := s.acqs.map fun a =>
        if a.warp = warp ∧ a.pc = pc ∧ a.tick + 2000 ≤ s.tick then { a with wake := true } else a }) s

/-! The region table -/

/-- An entry of the region table that binds a region (R122): none with V = 0, or when it breaks a constraint. -/
def regionOf (c : Ctx) (idx x : Nat) : Option Region :=
  let w (i : Nat) : Nat := x / 2 ^ (64 * i) % 2 ^ 64
  let base := w 0
  let len := w 1
  let fl := w 3
  let scope := fl % 8
  let last : Dword := BitVec.ofNat 64 (base + len - 1)
  if bitOf fl 3 ∧ base % 128 = 0 ∧ len % 128 = 0 ∧ len ≠ 0 ∧ w 2 % 16 = 0 ∧ fl / 16 % 16 = 0 ∧ fl / 2 ^ 16 = 0 ∧
      2 ≤ scope ∧ scope ≤ 5 ∧ base + len ≤ 2 ^ 64 ∧ c.canonical (BitVec.ofNat 64 base) ∧ c.canonical last ∧
      (BitVec.ofNat 64 base).getLsbD 63 = last.getLsbD 63 then
    some ⟨idx, base, len, w 2, scope⟩
  else none

/-- The reads of a range of a region table at its lines' homes: requester class 8 (R121). -/
def State.tableTouch (s : State) (die pa n : Nat) (write : Bool) : State :=
  (List.range (roundUp n 128 / 128)).foldl (fun s i => s.homeTouch (some die) (pa + 128 * i) 8 write) s

/-- The raw entries of a region table, a page of 128 at a time; none when a page cannot be read now (R124). -/
def State.tablePages (die : Nat) (c : Ctx) : Nat → Nat → State → State × Option (List (Nat × Nat))
  | 0, _, s => (s, some [])
  | n + 1, p, s =>
    match s.partTranslate die c 0 (c.regtab + BitVec.ofNat 64 (4096 * p)) with
    | (s, .ok pa) =>
      if (List.range 32).any fun i => s.paBusy (pa + 128 * i) then (s, none)
      else
        let page := (List.range 128).map fun i => (128 * p + i, s.viewNat (pa + 32 * i) 32)
        match State.tablePages die c n (p + 1) (s.tableTouch die pa 4096 false) with
        | (s, some r) => (s, some (page ++ r))
        | (s, none) => (s, none)
    | (s, _) => (s, none)

/-- The region table as a core loads it (R124): all valid entries, or unknown. DESIGN CHOICE (log 88): a line of it that is on its
way between dies at that moment makes it unknown too. -/
def State.loadRegions (s : State) (die : Nat) (c : Ctx) : State × RegionUnit :=
  if c.regtab = 0 then (s, ⟨c.slot, [], false, false⟩)
  else
    match State.tablePages die c 32 0 s with
    | (s, none) => (s, ⟨c.slot, [], true, true⟩)
    | (s, some l) => (s, ⟨c.slot, l.filterMap fun e => regionOf c e.1 e.2, false, false⟩)

/-- Whether a workgroup of a context is on a core. -/
def State.ctxOn (s : State) (core slot : Nat) : Bool :=
  s.wgs.any fun e => e.2.core == core && decide (e.2.phase ≠ .ended) && decide (e.2.phase ≠ .saved) &&
    (s.launch e.2.launch).ctx.slot == slot

/-- Give a core a context's region table, as far as its 64 slots hold it beside the other contexts on the core, and retag the
entries of its store buffer (R124, R125). -/
def State.setRegions (s : State) (core : Nat) (r : RegionUnit) : State :=
  let k := s.core core
  let others := k.rmu.filter fun x => x.ctx != r.ctx && s.ctxOn core x.ctx
  let room := 64 - (others.map fun x => x.slots.length).foldl (· + ·) 0
  let r : RegionUnit := { r with slots := r.slots.take room, more := r.more || decide (room < r.slots.length) }
  let k : Core := { k with rmu := others ++ (if r = ⟨r.ctx, [], false, false⟩ then [] else [r]) }
  let s := s.setCore core k
  { s with accs := s.accs.map fun e => if e.2.core = core ∧ e.2.ctx = r.ctx then (e.1, e.2.tagged k) else e }

/-- A core loads a context's region table. -/
def State.coreRegions (s : State) (core : Nat) (c : Ctx) : State :=
  match s.loadRegions (core / 96) c with
  | (s, r) => s.setRegions core r

/-- The cores that hold a workgroup of a context. -/
def State.coresOfCtx (s : State) (slot : Nat) : List Nat :=
  ((s.wgs.filter fun e => decide (e.2.phase ≠ .ended) && decide (e.2.phase ≠ .saved) &&
    (s.launch e.2.launch).ctx.slot == slot).map fun e => e.2.core).eraseDups

/-- A change of the table reaches every core of the context (R123, R125). -/
def State.spreadRegions (s : State) (c : Ctx) : State :=
  (s.coresOfCtx c.slot).foldl (fun s core => s.coreRegions core c) s

/-- The first entry with V = 0, searched page by page as an access of the instruction (R121, R123): its index and
physical address. -/
def Thread.freeEntry (t : Thread) : Nat → Nat → Except Res (Thread × Option (Nat × Nat))
  | 0, _ => .ok (t, none)
  | n + 1, p =>
    match t.address 0 0 4096 (t.ctx.regtab + BitVec.ofNat 64 (4096 * p)) with
    | .error r => .error r
    | .ok (t, pa, _) =>
      if (List.range 32).any fun i => t.s.paBusy (pa + 128 * i) then .error (.again t)
      else
        let t := { t with s := t.s.tableTouch t.die pa 4096 false }
        match (List.range 128).find? fun i => (regionOf t.ctx 0 (t.s.viewNat (pa + 32 * i) 32)).isNone with
        | some i => .ok (t, some (128 * p + i, pa + 32 * i))
        | none => t.freeEntry n (p + 1)

/-- BIND (R122, R123, R280). -/
def execBindRegion (f : SyF) (s : State) : Host.Outcome State Fault Refusal :=
  let d := f.imm.toNat % 256
  issue (.bindRegion f) [.s f.sa.toNat 2 2, .s f.sb.toNat 2 2, .s f.sc.toNat 2 2, .ds d 1 1] (decide (2 ≤ f.scope.toNat)) (fun t =>
    let base := t.w.spair f.sa.toNat
    let len := t.w.spair f.sb.toNat
    let latch := t.w.spair f.sc.toNat
    let entry := base.toNat + len.toNat * 2 ^ 64 + latch.toNat * 2 ^ 128 + (8 + f.scope.toNat) * 2 ^ 192
    if (regionOf t.ctx 0 entry).isNone then .trap t 0x02 (word0 (.bindRegion f)) 0
    else if t.ctx.regtab = 0 then .next { t with w := t.w.setSreg d 0xFFFFFFFF }
    else
      match t.freeEntry 32 0 with
      | .error r => r
      | .ok (t, none) => .next { t with w := t.w.setSreg d 0xFFFFFFFF }
      | .ok (t, some (i, _)) =>
        match t.address 0 1 0 (t.ctx.regtab + BitVec.ofNat 64 (32 * i)) with
        | .error r => r
        | .ok (t, pa, _) =>
          .next { t with s := ((t.s.tableTouch t.die pa 32 true).sysWrite pa (leBytes 32 entry)).spreadRegions t.ctx
                         w := t.w.setSreg d (BitVec.ofNat 32 i) }) s

/-- UNBIND (R123, R280). -/
def execUnbindRegion (f : SyF) (s : State) : Host.Outcome State Fault Refusal :=
  issue (.unbindRegion f) [.s f.sa.toNat 1 1] true (fun t =>
    let i := (t.w.sreg f.sa.toNat).toNat
    if t.ctx.regtab = 0 ∨ 4096 ≤ i then .trap t 0x02 (word0 (.unbindRegion f)) 0
    else
      match t.address 0 1 0 (t.ctx.regtab + BitVec.ofNat 64 (32 * i)) with
      | .error r => r
      | .ok (t, pa, _) =>
        if t.s.paBusy pa then .again t
        else
          let x := t.s.viewNat (pa + 24) 8
          let s := t.s.tableTouch t.die pa 32 false
          let s := if bitOf x 3 then (s.tableTouch t.die pa 32 true).sysWrite (pa + 24) (leBytes 8 (x - 8)) else s
          .next { t with s := s.spreadRegions t.ctx }) s

/-! Fences, NAP and YIELD -/

/-- FENCE (R136, R281). -/
def execFence (f : SyF) (s : State) : Host.Outcome State Fault Refusal :=
  issue (.fence f) [] true (fun t =>
    t.stallOn ((if f.kind = 1 then [] else t.loadWaits) ++ (if f.kind = 0 then [] else t.storeWaits f.scope.toNat)) .next) s

/-- NAP (R282). -/
def execNap (f : SyF) (s : State) : Host.Outcome State Fault Refusal :=
  issue (.nap f) [] true (fun t =>
    .go { t with w := t.w.yieldTo (t.w.pc + 8) (t.s.clock + f.imm.toNat) true t.s.clock }) s

/-- YIELD (R282): the warp becomes the youngest. -/
def execYield (f : SyF) (s : State) : Host.Outcome State Fault Refusal :=
  issue (.yield f) [] true (fun t =>
    let (s, n) := t.s.newUid
    .go { t with s := s, w := { t.w.yieldTo (t.w.pc + 8) 0 false t.s.clock with age := n } }) s

/-- NAP_EXPIRY (R282): the clocks of the warp's paths have passed. -/
def execNapExpiry (warp : Nat) (s : State) : Host.Outcome State Fault Refusal :=
  event true (fun s => s.modWarp warp fun w =>
    { w with wake := if w.wake ≤ s.clock then 0 else w.wake
             paths := w.paths.map fun p => if p.wake ≤ s.clock then { p with wake := 0 } else p }) s

/-- PATH_TIMESLICE_EXPIRY (R168): 4 096 clocks without a JOIN; an instruction that stalls is finished first. -/
def execPathTimesliceExpiry (warp : Nat) (s : State) : Host.Outcome State Fault Refusal :=
  event true (fun s => s.modWarp warp fun w =>
    if w.running ∧ !w.handler ∧ w.stall.isNone ∧ w.fuse.isNone ∧ w.block.isNone ∧ w.slice + 4096 ≤ s.clock then
      w.yieldTo w.pc w.wake w.nap s.clock
    else w) s

end Sys2Proof.Machine
end

