-- ==== Sys2Proof/Machine/Engine.lean ====
section
/-! DEFINITION. The engine queues (spec 13 R309 to R311, R317, 06 R142 to R145, 02 R46, R52): what a job is, how it is
ordered, reads, writes, parks and ends. -/

namespace Sys2Proof.Machine

/-! Ranges -/

/-- A range of a footprint before it is checked. -/
structure Reach where
  glob : Bool
  lo : Int
  hi : Int
  deriving DecidableEq, Repr

/-- The smallest range of `n`-byte objects at `base` plus steps `d` taken from 0 up to given counts (R327). -/
def reach (glob : Bool) (base : Int) (steps : List (Nat × Int)) (n : Nat) : Reach :=
  let ext := steps.map fun s => ((s.1 : Int) - 1) * s.2
  ⟨glob, ext.foldl (fun a d => a + min 0 d) base, ext.foldl (fun a d => a + max 0 d) base + n⟩

def Reach.extent (r : Reach) : Extent := ⟨r.glob, r.lo.toNat, r.hi.toNat⟩

/-- Check a range (R311): scratch below the allocation, global canonical throughout. -/
def Thread.reachCheck (t : Thread) (r : Reach) : Option (Nat × Dword) :=
  if r.glob then
    let a := BitVec.ofInt 64 r.lo
    let b := BitVec.ofInt 64 (r.hi - 1)
    if r.lo < 0 ∨ (2 : Int) ^ 64 < r.hi ∨ !t.canonical a ∨ !t.canonical b ∨ a.getLsbD 63 ≠ b.getLsbD 63 then some (0x04, a)
    else none
  else if r.lo < 0 ∨ (t.g.alloc : Int) < r.hi then some (0x06, (BitVec.ofInt 32 r.lo).setWidth 64)
  else none

/-- Whether two ranges of jobs overlap (R143): 4 KiB pages of global memory, 16 bytes of scratch. -/
def Extent.meets (a b : Extent) : Bool :=
  a.glob == b.glob && decide (a.lo < a.hi) && decide (b.lo < b.hi) &&
    (let k := if a.glob then 4096 else 16
     decide (a.lo / k ≤ (b.hi - 1) / k) && decide (b.lo / k ≤ (a.hi - 1) / k))

/-- Whether two jobs conflict (R143). -/
def Job.conflicts (a b : Job) : Bool :=
  let hit (x y : Extent) : Bool := x.meets y && (if x.glob then a.ctx == b.ctx else a.wg == b.wg)
  a.writes.any (fun x => (b.reads ++ b.writes).any (hit x)) || b.writes.any (fun x => a.reads.any (hit x))

/-- The earlier accesses of a warp that must come before a job (R144). -/
def Thread.jobAfter (t : Thread) (reads writes : List Extent) : List Nat :=
  (t.s.accs.filter fun e => e.2.owners.contains t.id && !e.2.kind.isPref &&
    e.2.parts.any fun p =>
      let x : Extent := match p.at_ with
        | .pa _ => ⟨true, p.va.toNat, p.va.toNat + e.2.size⟩
        | .scratch w o => if w = t.w.wg then ⟨false, o, o + e.2.size⟩ else ⟨false, 0, 0⟩
      if e.2.kind.isLoad then writes.any x.meets else (reads ++ writes).any x.meets).map (·.1)

/-! The queue -/

/-- The jobs in a core's engine queue. -/
def State.queueOf (s : State) (core : Nat) : FMap Job := s.jobs.filter fun e => e.2.core == core && !e.2.saved

/-- The lowest free entry of a core's engine queue. -/
def State.freeEntry (s : State) (core : Nat) : Option Nat :=
  (List.range 64).find? fun i => !(s.queueOf core).any fun e => e.2.entry == i

/-- A new job of a thread. -/
def Thread.job (t : Thread) (kind : JobKind) (card : Dword) (reads writes : List Extent) (sto : Word)
    (latch : Option LatchOp) (bar : Option Nat) : Job where
  warp := t.id
  wg := t.w.wg
  core := t.core
  ctx := t.ctx.slot
  asid := t.ctx.asid
  pc := t.w.pc
  entry := (t.s.freeEntry t.core).getD 0
  card := card
  kind := kind
  reads := reads
  writes := writes
  after := t.jobAfter reads writes
  started := false
  data := []
  imgs := []
  pos := none
  idx := none
  phase := 0
  sto := sto
  latch := latch
  bar := bar
  seq := 0
  park := none
  saved := false

/-- Put a job into the queue (R311): a full queue or counter stalls it; a matrix job takes the array (R302). -/
def Thread.enqueue (t : Thread) (j : Job) : Res :=
  if (t.s.freeEntry t.core).isNone || t.ctrFull .en then .again t
  else
    let (s, uid) := t.s.newUid
    let s : State := { s with jobs := mapPut s.jobs uid j }
    let a := s.array t.core
    let s := if j.kind.matrix ∧ a.owner.isNone then s.setArray t.core { MatArray.zero with owner := some t.w.wg } else s
    .next ({ t with s := s }.raiseCtr .en uid)

/-- The lanes on which an EN instruction acts (R311, R367). -/
def Thread.engineLanes (t : Thread) : LaneMask := t.w.exec &&& t.w.live

/-- A copy instruction without an active lane is not issued (R311). -/
def Thread.engine (t : Thread) (k : Thread → Res) : Res := if t.engineLanes = 0 then .next t else k t

/-- A matrix instruction also waits while another workgroup owns the array (R302). -/
def Thread.matrix (t : Thread) (k : Thread → Res) : Res :=
  t.engine fun t =>
    match (t.s.array t.core).owner with
    | some wg => if wg = t.w.wg then k t else t.wait
    | none => k t

/-- The vote on the format word (R304). -/
def Thread.vote (t : Thread) (vf : BitVec 10) (k : Nat → Res) : Res :=
  match (lanesOf t.w.width t.engineLanes).map fun l => t.vreg l vf.toNat with
  | [] => .next t
  | x :: r => if r.all (· == x) then k x.toNat else .trap t 0x09 0 x

/-- The fields of the format word (R304). -/
def wordAcc (w : Nat) : Bool := bitOf w 11
def wordRnd (w : Nat) : Nat := bitsOf w 10 8
def wordW (w : Nat) : Nat := bitsOf w 7 4
def wordA (w : Nat) : Nat := bitsOf w 3 0

/-- Whether a format word suits streams and loads (R305), and drains (R316). -/
def wordOk (w : Nat) : Bool :=
  decide (w / 4096 = 0) && decide (wordRnd w ≠ 7) && decide (arrClass (wordA w) ≠ .none) &&
    decide (arrClass (wordA w) = arrClass (wordW w)) && (wordAcc w == decide (arrClass (wordA w) = .int))
def drainFmtOk (int : Bool) (f : Nat) : Bool :=
  if int then f == 6 || f == 7 || f == 8 || f == 0 else decide (f ≤ 13) && f != 6 && f != 7 && f != 8
def drainWordOk (w : Nat) : Bool :=
  decide (w / 4096 = 0) && decide (wordRnd w ≠ 7) && drainFmtOk (wordAcc w) (wordA w)

/-- The first check that fails. -/
def firstOf (l : List (Option (Nat × Dword))) : Option (Nat × Dword) := l.findSome? id

/-- An alignment check (R311). -/
def alignCheck (v : Nat) (k : Nat) : Option (Nat × Dword) := if v % k = 0 then none else some (0x03, BitVec.ofNat 64 v)

/-- The latch operation of an EN word (R310). -/
def Thread.latchOp (t : Thread) (f : EnF) : Option LatchOp :=
  if f.sl = 0xFF then none
  else some ⟨t.w.spair f.sl.toNat, (f.imm.extractLsb' 0 15).toNat, f.imm.getLsbD 15⟩

/-- The barrier object that s[sx] names (R310). -/
def Thread.barOf (t : Thread) (f : EnF) : Option Nat := if f.sx = 0xFF then none else some (t.w.sreg f.sx.toNat).toNat

/-- The checks of step 3 on latch and barrier (R311). -/
def Thread.syncChecks (t : Thread) (f : EnF) : List (Option (Nat × Dword)) :=
  [ (t.latchOp f).bind fun l => alignCheck l.va.toNat 16,
    (t.barOf f).bind fun b => (alignCheck b 16).or (t.reachCheck ⟨false, b, b + 16⟩) ]

/-- The register operands of the optional fields (R310). -/
def enOpds (f : EnF) (vf : Bool) (sc n : Nat) : List Opd :=
  (if vf then [.v f.vf.toNat 1 1] else []) ++ (if n = 0 then [] else [.s sc n n]) ++
    (if f.sl = 0xFF then [] else [.s f.sl.toNat 2 2]) ++ (if f.sx = 0xFF then [] else [.s f.sx.toNat 1 1])

/-- Read a card or table of `n` × 64 bytes (R311): from scratch, or from global memory as an access of the
instruction. -/
def Thread.cardBytes (t : Thread) (glob : Bool) (addr : Nat) : Nat → Except Res (Thread × List Byte)
  | 0 => .ok (t, [])
  | n + 1 =>
    if glob then
      match t.address 0 0 64 (BitVec.ofNat 64 addr) with
      | .error r => .error r
      | .ok (t, pa, _) =>
        if t.s.paBusy pa || t.accPending (.pa pa) 64 then .error (.again t)
        else
          let bs := leBytes 64 (t.s.viewNat pa 64)
          let t := { t with s := t.s.homeTouch (some t.die) pa t.cls false }
          match t.cardBytes glob ((addr + 64) % 2 ^ 64) n with
          | .error r => .error r
          | .ok (t, r) => .ok (t, bs ++ r)
    else if t.accPending (.scratch t.w.wg addr) 64 then .error (.again t)
    else
      match t.scratchSound 64 [.scratch t.w.wg addr] with
      | .error r => .error r
      | .ok t =>
      match t.cardBytes glob (addr + 64) n with
      | .error r => .error r
      | .ok (t, r) => .ok (t, getScratch t.g.scratch addr 64 ++ r)

/-- The address of a card or table, checked, and its bytes (R311 steps 3 and 4). -/
def Thread.readCard (t : Thread) (f : EnF) (n : Nat) (k : Thread → Dword → List Byte → Res) : Res :=
  let addr : Dword := if f.cs then t.w.spair f.sc.toNat else (t.w.sreg f.sc.toNat).setWidth 64
  match firstOf (t.syncChecks f ++ [alignCheck addr.toNat 64,
      if f.cs then none else t.reachCheck ⟨false, addr.toNat, addr.toNat + 64 * n⟩]) with
  | some (c, a) => .trap t c a 0
  | none =>
    match t.cardBytes f.cs addr.toNat n with
    | .error r => r
    | .ok (t, bs) => k t addr bs

/-! A job's accesses -/

/-- The context of a workgroup. -/
def State.ctxOf (s : State) (wg : Nat) : Ctx :=
  match mapFind s.wgs wg with
  | some g => (s.launch g.launch).ctx
  | none => Ctx.empty

/-- What an access of a job comes to: it has happened, with the bytes read; it cannot happen yet; it fails with a
trap of R25, or of R101; it faults (R46). -/
inductive JobAcc where
  | ok (s : State) (bs : List Byte)
  | wait (s : State)
  | violation (s : State) (va : Nat)
  | poison (s : State) (va : Nat)
  | fault (s : State) (access ftype level va home : Nat)
  deriving DecidableEq, Repr

/-- The requester class of a job's accesses (R105, R106). -/
def Job.cls (j : Job) (s : State) : Nat :=
  match j.kind with
  | .coll _ _ => 7
  | _ => s.bulkCls (j.core / 96) j.ctx

/-- A job's access at a line's home (R105, R116): it asks once for a line that it goes through in chunks (log 84). -/
def State.jobTouch (s : State) (uid : Nat) (j : Job) (pa : Nat) (write : Bool) : State :=
  let die := coreDie j.core
  let u := s.unit die
  let key := 2 * uid + if write then 1 else 0
  if mapFind u.lines key = some (pa / 128) then s
  else (s.setUnit die { u with lines := mapPut u.lines key (pa / 128) }).homeTouch (some die) pa (j.cls s) write

/-- A job that is gone has asked for nothing. -/
def State.jobUntouch (s : State) (uid : Nat) (j : Job) : State :=
  let die := coreDie j.core
  let u := s.unit die
  s.setUnit die { u with lines := mapDel (mapDel u.lines (2 * uid)) (2 * uid + 1) }

/-- Translate an address of a job (R46) and go on with the physical address, which is free to be accessed; `n` bytes are
read there. -/
def State.jobAddress (s : State) (uid : Nat) (j : Job) (access va n : Nat) (k : State → Nat → JobAcc) : JobAcc :=
  let (s, r) := s.translate j.core (s.ctxOf j.wg) ⟨uid, 0, access⟩ (BitVec.ofNat 64 va)
  match r with
  | .walking => .wait s
  | .fault f => .fault s access f.ftype f.level va f.home
  | .ok pa nc io =>
    if io || !paOpen s.attic s.window pa then .violation s va
    else if paHomed pa && s.isOffline (homeOf (pa / 128)) && (access == 1 || nc || !s.dieHolds (j.core / 96) (pa / 128)) then
      .fault s access 6 0 va (homeOf (pa / 128))
    else if s.paBusy pa then .wait s
    else
      match (if n = 0 then .clean s else s.consume j.core n [(BitVec.ofNat 64 va, pa)]) with
      | .fails _ s => .poison s va
      | .later => .wait s
      | .clean s => k (s.jobTouch uid j pa (access != 0)) pa

/-- The scratch of a workgroup. -/
def State.scratchOf (s : State) (wg : Nat) : FMap Byte :=
  match mapFind s.wgs wg with
  | some g => g.scratch
  | none => []

/-- Read bytes of global memory line by line, or of scratch. -/
def jobReadGlobal (uid : Nat) (j : Job) : Nat → State → Nat → Nat → List Byte → JobAcc
  | 0, s, _, _, acc => .ok s acc
  | fuel + 1, s, va, n, acc =>
    if n = 0 then .ok s acc
    else
      let m := min n (128 - va % 128)
      s.jobAddress uid j 0 va m fun s pa => jobReadGlobal uid j fuel s (va + m) (n - m) (acc ++ leBytes m (s.viewNat pa m))
def State.jobRead (s : State) (uid : Nat) (j : Job) (glob : Bool) (va n : Nat) : JobAcc :=
  if glob then jobReadGlobal uid j (n / 128 + 2) s va n []
  else
    match s.consumeScratch j.wg n [va] with
    | .fails _ s => .poison s va
    | .later => .wait s
    | .clean s => .ok s (getScratch (s.scratchOf j.wg) va n)

/-- Write the bytes of one chunk (R141): they lie in one aligned block of 32. -/
def State.jobWrite (s : State) (uid : Nat) (j : Job) (glob : Bool) (bytes : FMap Byte) : JobAcc :=
  match bytes with
  | [] => .ok s []
  | (a, _) :: _ =>
    if glob then
      s.jobAddress uid j 1 a 0 fun s pa =>
        let base := pa - a % 32
        if paHomed pa then
          let i := base % 128
          let data := bytes.foldl (fun d e => d + e.2.toNat * 2 ^ (8 * (i + e.1 % 32))) 0
          let mask := bytes.foldl (fun m e => m ||| nibBytes (i + e.1 % 32) 1) 0
          .ok (s.homeWrite (pa / 128) (BitVec.ofNat 1024 data) mask) []
        else .ok (bytes.foldl (fun s e => s.putByte (base + e.1 % 32) e.2) s) []
    else .ok (s.modWg j.wg fun g => { g with scratch := bytes.foldl (fun m e => storeSet 0 m e.1 e.2) g.scratch }) []

/-! How a job ends or parks -/

/-- A job leaves its queue and lowers EN; the array may become free (R302, R311). -/
def State.jobEnd (s : State) (uid : Nat) (j : Job) : State :=
  let s := (({ s with jobs := mapDel s.jobs uid } : State).forgetMiss (j.core / 96) uid 0).jobUntouch uid j
  ((s.pendComplete uid).freeArray j.core).settle j.wg

/-- A job ends with a trap of its issuing warp (R52, R311, R384). -/
def State.jobFail (s : State) (uid : Nat) (j : Job) (cause : Nat) (addr : Dword) (imm : Word) : State :=
  ({ s with jobs := mapDel s.jobs uid }.forgetMiss (j.core / 96) uid 0 |>.jobUntouch uid j |>.boundaryTrap j.wg j.warp cause j.pc addr imm
    |>.pendComplete uid |>.freeArray j.core).settle j.wg

/-- SIDE of a job's record (R47). -/
def Job.side (j : Job) : Nat := if j.kind.matrix then 2 else 3

/-- A job parks at its chunk (R46, R49, R50, R54). -/
def State.jobPark (s : State) (uid : Nat) (j : Job) (access ftype level va home : Nat) : State :=
  let d := j.core / 96
  let c := s.ctxOf j.wg
  let p : Park := { ctx := c.slot, asid := c.asid, seq := (j.seq + 1) % 256, va := BitVec.ofNat 64 va, access := access
                    ftype := ftype, level := level, tick := s.tick, home := home, answer := none, side := j.side }
  if c.nofq ∧ ftype ≠ 6 then s.jobFail uid j 0x05 p.va p.rejectImm
  else if 512 ≤ (s.die d).fheld.length then s
  else
    let s := s.forgetMiss d uid 0
    let r : FaultRec := { slot := c.slot, tick := s.tick, asid := c.asid, core := j.core, unit := j.entry, seq := p.seq
                          side := j.side, access := access, ftype := ftype, level := level, place := j.card, va := p.va }
    let s := if c.nofq then s else s.putRecord d c r
    { s with jobs := mapPut s.jobs uid { j with seq := p.seq, park := some p } }

/-- Go on with what an access of a job came to. -/
def JobAcc.go (a : JobAcc) (uid : Nat) (j : Job) (k : State → List Byte → State) : State :=
  match a with
  | .ok s bs => k s bs
  | .wait s => s
  | .violation s va => s.jobFail uid j 0x04 (BitVec.ofNat 64 va) 0
  | .poison s va => s.jobFail uid j 0x0D (BitVec.ofNat 64 va) 0
  | .fault s access ft lv va h => s.jobPark uid j access ft lv va h

/-- Change a job in place. -/
def State.putJob (s : State) (uid : Nat) (j : Job) : State := { s with jobs := mapPut s.jobs uid j }

/-- A chunk has been performed: the barrier object counts its bytes (R317). -/
def State.chunkDone (s : State) (uid : Nat) (j : Job) (n : Nat) : State :=
  let s := s.putJob uid j
  match j.bar with
  | some o => s.arrive j.wg o n
  | none => s

end Sys2Proof.Machine
end

