-- ==== Sys2Proof/Machine/Matrix.lean ====
section
/-! DEFINITION. The matrix instructions (spec 13 R301 to R316, R319 to R321, R327): MLOADW, MFLIP, MSTREAM, MZERO,
MDRAIN, MNEST, their checks and footprints, and what their jobs do to the array. -/

namespace Sys2Proof.Machine

/-! What the jobs do to the array -/

/-- Sum of a base and a signed offset in scratch (R320). -/
def addScratch (base : Nat) (off : Int) : Nat := wrapTo 32 (base + off)

/-- The bytes and scale bytes of a 128-element vector in scratch (R306). -/
def vecAt (scr : FMap Byte) (fmt base sbase : Nat) : List Byte × List Byte :=
  let b := runBytes fmt 128
  (getScratch scr base b.1, getScratch scr sbase b.2)

/-- MLOADW's effect (R312): into the shadow plane. -/
def MatArray.load (a : MatArray) (scr : FMap Byte) (fmt base stride sbase : Nat) : MatArray :=
  { a with shadow := ⟨some fmt, (List.range 128).map fun n => vecAt scr fmt (base + n * stride) (sbase + 4 * n)⟩ }

/-- MFLIP's effect (R313). -/
def MatArray.flip (a : MatArray) : MatArray := { a with active := a.shadow, shadow := a.active }

/-- The exact weights of column `n` (R301). -/
def Plane.column (p : Plane) (n : Nat) : List FVal :=
  match p.fmt, p.vecs[n]? with
  | some f, some v => decodeRun f 128 v.1 v.2
  | _, _ => List.replicate 128 (.fin false 0 0)

/-- Accumulator words (R301). -/
def MatArray.word (a : MatArray) (row col : Nat) : Word := storeGet 0 a.acc (row * 128 + col)
def MatArray.setWord (a : MatArray) (row col : Nat) (x : Word) : MatArray :=
  { a with acc := storeSet 0 a.acc (row * 128 + col) x }

/-- One row passes the plane (R307, R314). -/
def MatArray.passRow (a : MatArray) (cls : ArrClass) (cols : List (List FVal)) (v : List FVal) (row : Nat) : MatArray :=
  cols.zipIdx.foldl (fun a c => a.setWord row c.2 (arrPass cls (a.word row c.2) v c.1)) a

/-- MSTREAM's effect (R314): rows in order. -/
def MatArray.stream (a : MatArray) (scr : FMap Byte) (fmt base stride sbase rows acc0 : Nat) : MatArray :=
  let cols := (List.range 128).map a.active.column
  (List.range rows).foldl (fun a r =>
    let v := vecAt scr fmt (base + r * stride) (sbase + 4 * r)
    a.passRow (arrClass fmt) cols (decodeRun fmt 128 v.1 v.2) (acc0 + r)) a

/-- Whether the active plane suits a stream with weight format `wf` (R314). -/
def MatArray.suits (a : MatArray) (wf : Nat) : Bool :=
  match a.active.fmt with
  | none => true
  | some f => f == wf

/-- MZERO's effect (R315). -/
def MatArray.zeroRows (a : MatArray) (n acc0 : Nat) : MatArray :=
  { a with acc := a.acc.filter fun e => !(decide (acc0 ≤ e.1 / 128) && decide (e.1 / 128 < acc0 + n)) }

/-- An accumulator word as a value (R301). -/
def accValue (int : Bool) (x : Word) : FVal := if int then FVal.ofInt false x.toInt 0 else fdecode fmtF32 x.toNat

/-- Put bytes into an image. -/
def putImage (img : FMap Byte) (a : Nat) (bs : List Byte) : FMap Byte :=
  bs.zipIdx.foldl (fun m b => mapPut m (a + b.2) b.1) img

/-- How a drain encodes (R316). -/
def Drain.ctl (d : Drain) : EncCtl := ⟨engineMode d.rnd, d.sat, d.fixed, d.fexp, true⟩

/-- Write one vector of a drain into its image. -/
def Drain.vec (d : Drain) (acc : FMap Byte × Word) (vs : List FVal) (dst sdst : Nat) : FMap Byte × Word :=
  let r := encodeRun d.ctl d.int d.fmt acc.2 vs
  (putImage (putImage acc.1 dst r.1) sdst r.2.1, r.2.2)

/-- An address of a drain, wrapped as R320 says. -/
def Drain.at_ (d : Drain) (x : Int) : Nat := wrapTo (if d.glob then 64 else 32) x

/-- What a drain writes (R316): the rows, then with T the transposed vectors; and the STO state after it. -/
def Drain.image (d : Drain) (a : MatArray) (q : Word) : FMap Byte × Word :=
  let rows := (List.range d.rows).foldl (fun acc r =>
    d.vec acc ((List.range 128).map fun n => accValue d.int (a.word (d.acc0 + r) n))
      (d.at_ (d.dst + r * d.stride)) (d.at_ (d.dst + d.soff + 4 * r))) ([], q)
  if d.transposed then
    (List.range 128).foldl (fun acc n =>
      d.vec acc ((List.range d.rows).map fun r => accValue d.int (a.word (d.acc0 + r) n))
        (d.at_ (d.dst + d.toff + n * d.tstride))
        (d.at_ (d.dst + d.soff + 4 * d.rows + n * (d.rows / 32)))) rows
  else rows

/-! The instructions -/

/-- The static operands of a matrix instruction, then ownership, vote and field checks (R302, R304, R311). -/
def Thread.voted (t : Thread) (i : Instr) (f : EnF) (ok : Nat → Bool) (k : Thread → Nat → Res) : Res :=
  t.matrix fun t => t.vote f.vf fun w => if ok w then k t w else .trap t 0x02 (word0 i) 0

/-- Scalar operand `i` of a group. -/
def Thread.grp (t : Thread) (f : EnF) (i : Nat) : Nat := (t.w.sreg (f.sc.toNat + i)).toNat

/-- A row count and first accumulator row (R314, R315): none when it breaks a limit. -/
def rowsOf (v : Nat) (bits lim : Nat) : Option (Nat × Nat) :=
  let n := v % 2 ^ bits
  let a := bitsOf v 24 16
  if v = n + a * 65536 ∧ 1 ≤ n ∧ n ≤ lim ∧ a + n ≤ 512 then some (n, a) else none

/-- The read ranges of vectors in scratch with their scales (R327). -/
def vecReads (fmt base stride sbase n : Nat) : List Reach :=
  let b := runBytes fmt 128
  reach false base [(n, stride)] b.1 :: (if isMx fmt then [reach false sbase [] (4 * n)] else [])

/-- Checks in the order of step 3 of R311, then the queue. -/
def Thread.checked (t : Thread) (l : List (Option (Nat × Dword))) (k : Thread → Res) : Res :=
  match firstOf l with
  | some (c, a) => .trap t c a 0
  | none => k t

/-- MLOADW (R312). -/
def execMloadw (f : EnF) (s : State) : Host.Outcome State Fault Refusal :=
  issue (.mloadw f) (enOpds f true f.sc.toNat 4) true (fun t =>
    t.voted (.mloadw f) f wordOk fun t w =>
      let fmt := wordW w
      let base := t.grp f 0
      let stride := t.grp f 1
      let soff := if isMx fmt then t.grp f 2 else 0
      let sbase := addScratch base soff
      let rs := vecReads fmt base stride sbase 128
      t.checked ([alignCheck base 16, alignCheck stride 16, alignCheck soff 4] ++ rs.map t.reachCheck) fun t =>
        t.enqueue (t.job (.loadw fmt base stride sbase) (BitVec.ofNat 64 base) (rs.map Reach.extent) [] 0 none none)) s

/-- MFLIP (R313). -/
def execMflip (f : EnF) (s : State) : Host.Outcome State Fault Refusal :=
  issue (.mflip f) [] true (fun t => t.matrix fun t => t.enqueue (t.job .flip 0 [] [] 0 none none)) s

/-- MSTREAM (R314). -/
def execMstream (f : EnF) (s : State) : Host.Outcome State Fault Refusal :=
  issue (.mstream f) (enOpds f true f.sc.toNat 4) true (fun t =>
    t.voted (.mstream f) f wordOk fun t w =>
      match rowsOf (t.grp f 3) 9 256 with
      | none => .trap t 0x02 (word0 (.mstream f)) 0
      | some (rows, acc0) =>
        let fmt := wordA w
        let base := t.grp f 0
        let stride := t.grp f 1
        let soff := if isMx fmt then t.grp f 2 else 0
        let sbase := addScratch base soff
        let rs := vecReads fmt base stride sbase rows
        t.checked ([alignCheck base 16, alignCheck stride 16, alignCheck soff 4] ++ rs.map t.reachCheck) fun t =>
          t.enqueue (t.job (.stream fmt (wordW w) base stride sbase rows acc0) (BitVec.ofNat 64 base)
            (rs.map Reach.extent) [] 0 none none)) s

/-- MZERO (R315). -/
def execMzero (f : EnF) (s : State) : Host.Outcome State Fault Refusal :=
  issue (.mzero f) (enOpds f false f.sc.toNat 1) true (fun t =>
    t.matrix fun t =>
      match rowsOf (t.grp f 0) 10 512 with
      | none => .trap t 0x02 (word0 (.mzero f)) 0
      | some (n, acc0) => t.enqueue (t.job (.zero n acc0) 0 [] [] 0 none none)) s

/-- The STO seed of a job (R316, R324). -/
def stoSeed (seed : Nat) : Word := lfsrSeed seed 0

/-- What MDRAIN's operands describe (R316); none when a limit is broken. -/
def Thread.drainOf (t : Thread) (f : EnF) (w : Nat) : Option Drain :=
  let ctl := t.grp f 7
  let tr := f.imm.getLsbD 16
  match rowsOf (t.grp f 3) 9 256 with
  | none => none
  | some (rows, acc0) =>
    if bitsOf ctl 23 18 ≠ 0 ∨ (tr ∧ rows % runUnit (wordA w) ≠ 0) then none
    else some {
      glob := f.cs, dst := if f.cs then (t.w.spair f.sc.toNat).toNat else t.grp f 0, stride := t.grp f 2
      rows := rows, acc0 := acc0, soff := signedOf 32 (t.grp f 4), transposed := tr
      toff := if tr then signedOf 32 (t.grp f 5) else 0, tstride := if tr then t.grp f 6 else 0
      fexp := bitsOf ctl 31 24, fixed := bitOf ctl 17, sat := bitOf ctl 16, rnd := wordRnd w, fmt := wordA w
      int := wordAcc w }

/-- MDRAIN's write ranges (R327). -/
def Drain.writes (d : Drain) : List Reach :=
  let b := runBytes d.fmt 128
  let mx := isMx d.fmt
  reach d.glob d.dst [(d.rows, d.stride)] b.1 ::
    ((if mx then [reach d.glob (d.dst + d.soff) [] (4 * d.rows)] else []) ++
     (if d.transposed then [reach d.glob (d.dst + d.toff) [(128, d.tstride)] (runBytes d.fmt d.rows).1] else []) ++
     (if d.transposed && mx then [reach d.glob (d.dst + d.soff + 4 * d.rows) [] (4 * d.rows)] else []))

/-- MDRAIN (R316). -/
def execMdrain (f : EnF) (s : State) : Host.Outcome State Fault Refusal :=
  issue (.mdrain f) (enOpds f true f.sc.toNat 8) true (fun t =>
    t.voted (.mdrain f) f drainWordOk fun t w =>
      match t.drainOf f w with
      | none => .trap t 0x02 (word0 (.mdrain f)) 0
      | some d =>
        t.checked ([alignCheck d.dst 16, alignCheck d.stride 16, alignCheck (t.grp f 4) 4,
            if d.transposed then (alignCheck (t.grp f 5) 16).or (alignCheck d.tstride 16) else none] ++
            d.writes.map t.reachCheck ++ t.syncChecks f) fun t =>
          t.enqueue (t.job (.drain d) 0 [] (d.writes.map Reach.extent) (stoSeed (t.grp f 7 % 65536))
            (t.latchOp f) (t.barOf f))) s

/-! The nest table -/

/-- A field of a table or card: `n` bytes from byte `i`. -/
def fieldAt (bs : List Byte) (i n : Nat) : Nat := leNat ((bs.drop i).take n)
def sfieldAt (bs : List Byte) (i n : Nat) : Int := signedOf (8 * n) (fieldAt bs i n)

/-- Level `j` of a table (R319). -/
def nestLevel (bs : List Byte) (j : Nat) : NestLevel :=
  let b := 64 + 32 * j
  ⟨fieldAt bs b 4, sfieldAt bs (b + 4) 4, sfieldAt bs (b + 8) 4, sfieldAt bs (b + 12) 8, sfieldAt bs (b + 20) 2,
    fieldAt bs (b + 22) 1⟩

/-- A nest table (R319). -/
def nestOf (bs : List Byte) : Nest where
  abase := fieldAt bs 0 4
  ascl := sfieldAt bs 4 4
  wbase := fieldAt bs 8 4
  wstr := fieldAt bs 12 4
  wscl := sfieldAt bs 16 4
  obase := fieldAt bs 20 8
  ostr := fieldAt bs 28 4
  oscl := sfieldAt bs 32 4
  astr := fieldAt bs 36 2
  accb := fieldAt bs 38 2
  rows := fieldAt bs 40 2
  drows := fieldAt bs 42 2
  oglob := bitOf (fieldAt bs 45 1) 0
  sat := bitOf (fieldAt bs 45 1) 1
  fixed := bitOf (fieldAt bs 45 1) 2
  ofmt := fieldAt bs 46 1 % 16
  fexp := fieldAt bs 47 1
  seed := fieldAt bs 48 2
  levels := (List.range (min 6 (fieldAt bs 44 1))).map (nestLevel bs)

/-- The events of a level (R319). -/
def NestLevel.loadw (l : NestLevel) : Bool := bitOf l.events 0
def NestLevel.zero (l : NestLevel) : Bool := bitOf l.events 1
def NestLevel.flip (l : NestLevel) : Bool := bitOf l.events 2
def NestLevel.drain (l : NestLevel) : Bool := bitOf l.events 3

/-- The counts and steps of the levels up to and with level `j`. -/
def Nest.steps (n : Nest) (f : NestLevel → Int) (j : Nat) : List (Nat × Int) :=
  (n.levels.take (j + 1)).map fun l => (l.count, f l)

/-- The lowest and highest sum of a base and the steps of levels up to `j`. -/
def Nest.range (n : Nest) (base : Int) (f : NestLevel → Int) (j : Nat) : Int × Int :=
  let r := reach false base (n.steps f j) 0
  (r.lo, r.hi)

/-- The deepest level with an event. -/
def Nest.deepest (n : Nest) (p : NestLevel → Bool) : Option Nat :=
  ((List.range n.levels.length).filter fun j => match n.levels[j]? with
    | some l => p l
    | none => false).getLast?

/-- Whether a table is valid (R319). -/
def nestValid (bs : List Byte) (int : Bool) : Bool :=
  let n := nestOf bs
  let last := fieldAt bs 44 1 - 1
  let head := ((bs.drop 50).take 14).all (· == 0) && decide (fieldAt bs 45 1 / 8 = 0) &&
    decide (fieldAt bs 46 1 / 16 = 0) && drainFmtOk int n.ofmt &&
    decide (1 ≤ fieldAt bs 44 1) && decide (fieldAt bs 44 1 ≤ 6) && decide (1 ≤ n.drows) && decide (n.drows ≤ 512) &&
    decide (1 ≤ n.rows) && decide (n.rows ≤ 256) && decide (n.accb ≤ 511) && decide (1 ≤ n.astr) &&
    (n.oglob || decide (n.obase < 2 ^ 32)) &&
    [n.abase, n.wbase, n.obase, n.wstr, n.ostr].all (fun x => decide (x % 16 = 0)) &&
    [n.ascl, n.wscl, n.oscl].all (fun x => decide (x % 4 = 0))
  let lev := (List.range 6).all fun j =>
    let l := nestLevel bs j
    if j ≤ last then
      decide (1 ≤ l.count) && decide (l.count ≤ 2 ^ 24) && decide (l.events < 16) &&
        ((bs.drop (64 + 32 * j + 23)).take 9).all (· == 0) &&
        decide (l.da % 16 = 0) && decide (l.dw % 16 = 0) && decide (l.dOut % 16 = 0)
    else ((bs.drop (64 + 32 * j)).take 32).all (· == 0)
  let fits (j k : Nat) : Bool :=
    let r := n.range n.accb NestLevel.dacc j
    decide (0 ≤ r.1) && decide (r.2 + k ≤ 512)
  head && lev && fits last n.rows &&
    (match n.deepest fun l => l.zero || l.drain with
     | some j => fits j n.drows
     | none => true)

/-- A nest's read and write ranges (R320, R327). -/
def Nest.reads (n : Nest) (afmt wfmt : Nat) : List Reach :=
  let last := n.levels.length - 1
  let a := runBytes afmt 128
  let w := runBytes wfmt 128
  reach false n.abase ((n.rows, 16 * (n.astr : Int)) :: n.steps NestLevel.da last) a.1 ::
    ((if isMx afmt then [reach false (n.abase + n.ascl) (n.steps NestLevel.da last) (4 * n.rows)] else []) ++
     (match n.deepest NestLevel.loadw with
      | some j =>
        reach false n.wbase ((128, (n.wstr : Int)) :: n.steps NestLevel.dw j) w.1 ::
          (if isMx wfmt then [reach false (n.wbase + n.wscl) (n.steps NestLevel.dw j) 512] else [])
      | none => []))
def Nest.writes (n : Nest) : List Reach :=
  match n.deepest NestLevel.drain with
  | some j =>
    reach n.oglob n.obase ((n.drows, (n.ostr : Int)) :: n.steps NestLevel.dOut j) (runBytes n.ofmt 128).1 ::
      (if isMx n.ofmt then [reach n.oglob (n.obase + n.oscl) (n.steps NestLevel.dOut j) (4 * n.drows)] else [])
  | none => []

/-- MNEST (R319). -/
def execMnest (f : EnF) (s : State) : Host.Outcome State Fault Refusal :=
  issue (.mnest f) (enOpds f true f.sc.toNat (if f.cs then 2 else 1)) true (fun t =>
    t.voted (.mnest f) f wordOk fun t w =>
      t.readCard f 4 fun t addr bs =>
        if !nestValid bs (wordAcc w) then .trap t 0x10 addr 0
        else
          let n := nestOf bs
          let rs := n.reads (wordA w) (wordW w)
          t.checked ((rs ++ n.writes).map t.reachCheck) fun t =>
            t.enqueue (t.job (.nest n (wordA w) (wordW w) (wordRnd w) (wordAcc w)) addr (rs.map Reach.extent)
              (n.writes.map Reach.extent) (stoSeed n.seed) (t.latchOp f) (t.barOf f))) s

/-! Order inside the array -/

/-- The accumulator rows that a job names. -/
def JobKind.rows : JobKind → Option (Nat × Nat)
  | .stream _ _ _ _ _ n a => some (a, a + n)
  | .zero n a => some (a, a + n)
  | .drain d => some (d.acc0, d.acc0 + d.rows)
  | _ => none

/-- Whether two jobs name a common accumulator row. -/
def JobKind.shareRow (a b : JobKind) : Bool :=
  match a.rows, b.rows with
  | some x, some y => decide (x.1 < y.2) && decide (y.1 < x.2)
  | _, _ => false

/-- Whether a matrix job must wait for an earlier one that is still in the queue (R309). A job's effect on the array
happens when it starts. -/
def JobKind.waitsFor (j old : JobKind) (started : Bool) : Bool :=
  match j, old with
  | .nest .., _ => old.matrix
  | _, .nest .. => j.matrix
  | .loadw .., .loadw .. => true
  | .loadw .., .flip => true
  | .flip, .loadw .. => true
  | .flip, .stream .. => !started
  | .stream .., .flip => true
  | .stream .., .stream .. => !started
  | .stream .., .zero .. => !started && j.shareRow old
  | .stream .., .drain .. => !started && j.shareRow old
  | .zero .., .stream .. => !started && j.shareRow old
  | .zero .., .zero .. => !started && j.shareRow old
  | .zero .., .drain .. => !started && j.shareRow old
  | .drain .., .stream .. => !started && j.shareRow old
  | .drain .., .zero .. => !started && j.shareRow old
  | _, _ => false

/-- Whether a workgroup is stopped and drains for a save (R390). -/
def State.stopping (s : State) (wg : Nat) : Bool := (mapFind s.wgs wg).any fun g => decide (g.phase = .draining)

/-- Whether a kind of job is saved with its progress (R322, R328). -/
def JobKind.saves : JobKind → Bool
  | .nest _ _ _ _ _ | .coll _ _ => true
  | _ => false

/-- Whether a job has to wait for an older one that is still in the queue (R143, R309). -/
def Job.behind (j old : Job) : Bool := old.conflicts j || j.kind.waitsFor old.kind old.started

/-- Whether a job may start (R143, R144, R309): one that a save keeps does not start while its workgroup drains (R322, R328). -/
def State.jobReady (s : State) (uid : Nat) (j : Job) : Bool :=
  !j.started && !j.saved && j.park.isNone && !(j.kind.saves && s.stopping j.wg) && j.after.all (fun u => (mapFind s.accs u).isNone) &&
    (s.queueOf j.core).all fun e =>
      decide (uid ≤ e.1) || !j.behind e.2

/-- The scratch that `n` vectors and their scales take (R306), as places with their sizes. -/
def vecPlaces (fmt base stride sbase n : Nat) : List (Nat × Nat) :=
  let b := runBytes fmt 128
  (List.range n).flatMap fun i => (base + i * stride, b.1) :: (if b.2 = 0 then [] else [(sbase + 4 * i, b.2)])

/-- Go on once what a job reads in scratch holds no error (R101). -/
def State.jobSound (s : State) (uid : Nat) (j : Job) : List (Nat × Nat) → (State → State) → State
  | [], k => k s
  | (o, n) :: r, k =>
    if s.bad.isEmpty then k s
    else
      match s.consumeScratch j.wg n [o] with
      | .fails va s => s.jobFail uid j 0x0D va 0
      | .later => s
      | .clean s => s.jobSound uid j r k

/-- A matrix job starts: its effect on the array (R312 to R315), or the image that a drain is to write (R316). -/
def State.startMatrix (s : State) (uid : Nat) (j : Job) : State :=
  let a := s.array j.core
  let scr := s.scratchOf j.wg
  let j := { j with started := true }
  match j.kind with
  | .loadw f b st sb => s.jobSound uid j (vecPlaces f b st sb 128) fun s => (s.setArray j.core (a.load scr f b st sb)).putJob uid j
  | .flip => (s.setArray j.core a.flip).putJob uid j
  | .stream af wf b st sb n a0 =>
    if a.suits wf then
      s.jobSound uid j (vecPlaces af b st sb n) fun s => (s.setArray j.core (a.stream scr af b st sb n a0)).putJob uid j
    else s.jobFail uid j 0x10 j.card 0
  | .zero n a0 => (s.setArray j.core (a.zeroRows n a0)).putJob uid j
  | .drain d =>
    let r := d.image a j.sto
    s.putJob uid { j with imgs := [r.1], sto := r.2 }
  | .nest n .. => s.putJob uid { j with idx := some (n.levels.map fun _ => 0) }
  | _ => s

/-! The steps of a nest -/

/-- A step of a nest (R321). -/
inductive NestStep where
  | load | flip | zero | stream
  | drain (level part : Nat)
  deriving DecidableEq, Repr

/-- The steps of the iteration with indices `idx` (R321): on entry to each level whose deeper indices are 0, the
stream, on exit from each level whose deeper indices are at their last value. The number with an entry step is its
level. -/
def Nest.iteration (n : Nest) (idx : List Nat) : List (NestStep × Nat) :=
  let len := n.levels.length
  let lv (j : Nat) : NestLevel := n.levels.getD j ⟨1, 0, 0, 0, 0, 0⟩
  let first (j : Nat) : Bool := (idx.drop (j + 1)).all (· == 0)
  let last (j : Nat) : Bool := ((List.range len).filter fun k => decide (j < k)).all fun k =>
    idx.getD k 0 + 1 == (lv k).count
  (List.range len).flatMap (fun j =>
    if first j then
      (if (lv j).loadw then [(NestStep.load, j)] else []) ++ (if (lv j).flip then [(NestStep.flip, j)] else []) ++
        (if (lv j).zero then [(NestStep.zero, j)] else [])
    else []) ++ [(NestStep.stream, len - 1)] ++
    (List.range len).reverse.flatMap fun j =>
      if last j ∧ (lv j).drain then
        (NestStep.drain j 0, j) :: (if 256 < n.drows then [(NestStep.drain j 256, j)] else [])
      else []

/-- The sum of the steps of the levels up to `j` (R320); the deeper indices count as 0. -/
def Nest.at_ (n : Nest) (idx : List Nat) (f : NestLevel → Int) (j : Nat) : Int :=
  ((n.levels.take (j + 1)).zip idx).foldl (fun a x => a + (x.2 : Int) * f x.1) 0

/-- The indices of the next iteration (R321): the innermost first. -/
def nextIdx : List NestLevel → List Nat → Option (List Nat)
  | l :: ls, i :: is =>
    match nextIdx ls is with
    | some r => some (i :: r)
    | none => if i + 1 < l.count then some ((i + 1) :: is.map fun _ => 0) else none
  | _, _ => none

/-- A drain step of a nest (R321). -/
def Nest.drainStep (n : Nest) (idx : List Nat) (rnd : Nat) (int : Bool) (j part : Nat) : Drain where
  glob := n.oglob
  dst := wrapTo (if n.oglob then 64 else 32) (n.obase + n.at_ idx NestLevel.dOut j + part * n.ostr)
  stride := n.ostr
  rows := min 256 (n.drows - part)
  acc0 := (n.accb + n.at_ idx NestLevel.dacc j).toNat + part
  soff := n.oscl + 4 * part - part * n.ostr
  transposed := false
  toff := 0
  tstride := 0
  fexp := n.fexp
  fixed := n.fixed
  sat := n.sat
  rnd := rnd
  fmt := n.ofmt
  int := int

/-- Run a step of a nest on the array: the array, and an image to write. -/
def Nest.run (n : Nest) (idx : List Nat) (afmt wfmt rnd : Nat) (int : Bool) (scr : FMap Byte) (a : MatArray)
    (q : Word) (st : NestStep) (j : Nat) : MatArray × Option (FMap Byte) × Word :=
  let acc := (n.accb + n.at_ idx NestLevel.dacc j).toNat
  match st with
  | .load =>
    let b := wrapTo 32 (n.wbase + n.at_ idx NestLevel.dw j)
    (a.load scr wfmt b n.wstr (addScratch b n.wscl), none, q)
  | .flip => (a.flip, none, q)
  | .zero => (a.zeroRows n.drows acc, none, q)
  | .stream =>
    let b := wrapTo 32 (n.abase + n.at_ idx NestLevel.da j)
    (a.stream scr afmt b (16 * n.astr) (addScratch b n.ascl) n.rows acc, none, q)
  | .drain j part =>
    let r := (n.drainStep idx rnd int j part).image a q
    (a, some r.1, r.2)

/-- The scratch ranges that a step of a nest reads (R327). -/
def Nest.stepReads (n : Nest) (idx : List Nat) (afmt wfmt : Nat) (st : NestStep) (j : Nat) : List Reach :=
  match st with
  | .load =>
    let b := wrapTo 32 (n.wbase + n.at_ idx NestLevel.dw j)
    vecReads wfmt b n.wstr (addScratch b n.wscl) 128
  | .stream =>
    let b := wrapTo 32 (n.abase + n.at_ idx NestLevel.da j)
    vecReads afmt b (16 * n.astr) (addScratch b n.ascl) n.rows
  | _ => []

/-- The same as places, vector by vector. -/
def Nest.stepPlaces (n : Nest) (idx : List Nat) (afmt wfmt : Nat) (st : NestStep) (j : Nat) : List (Nat × Nat) :=
  match st with
  | .load =>
    let b := wrapTo 32 (n.wbase + n.at_ idx NestLevel.dw j)
    vecPlaces wfmt b n.wstr (addScratch b n.wscl) 128
  | .stream =>
    let b := wrapTo 32 (n.abase + n.at_ idx NestLevel.da j)
    vecPlaces afmt b (16 * n.astr) (addScratch b n.ascl) n.rows
  | _ => []

/-- Whether chunks of earlier drain steps that are not written yet lie in what a step reads: it waits for them as a separate job would
(R143, R321). -/
def Nest.mustWait (n : Nest) (idx : List Nat) (afmt wfmt : Nat) (st : NestStep) (j : Nat) (imgs : List (FMap Byte)) : Bool :=
  !n.oglob && !imgs.isEmpty &&
    (let rs := (n.stepReads idx afmt wfmt st j).map Reach.extent
     imgs.any fun m => m.any fun e => rs.any fun r => r.meets ⟨false, e.1, e.1 + 1⟩)

/-- The next step of a running nest (R321). A stream that the plane's format does not suit ends the job once the
chunks of the earlier drains are performed (R314). -/
def State.nestStep (s : State) (uid : Nat) (j : Job) : State :=
  match j.kind, j.idx with
  | .nest n af wf rnd int, some idx =>
    match (n.iteration idx)[j.phase]? with
    | none =>
      match nextIdx n.levels idx with
      | some r => s.putJob uid { j with idx := some r, phase := 0 }
      | none => s.putJob uid { j with idx := none, phase := 0 }
    | some (st, lv) =>
      let a := s.array j.core
      if st = .stream ∧ !a.suits wf then (if j.imgs.isEmpty then s.jobFail uid j 0x10 j.card 0 else s)
      else if n.mustWait idx af wf st lv j.imgs then s
      else
        s.jobSound uid j (n.stepPlaces idx af wf st lv) fun s =>
        let r := n.run idx af wf rnd int (s.scratchOf j.wg) a j.sto st lv
        (s.setArray j.core r.1).putJob uid { j with phase := j.phase + 1, sto := r.2.2, imgs := j.imgs ++ r.2.1.toList }
  | _, _ => s

/-- MNEST_STEP (R321): not while the nest is parked or saved (R46), nor while its workgroup is being saved (R322). -/
def execMnestStep (job : Nat) (s : State) : Host.Outcome State Fault Refusal :=
  event true (fun s =>
    match mapFind s.jobs job with
    | some j => if j.started ∧ !j.saved ∧ j.park.isNone ∧ !s.stopping j.wg then s.nestStep job j else s
    | none => s) s

end Sys2Proof.Machine
end

