-- ==== Sys2Proof/Machine/Copy.lean ====
section
/-! DEFINITION. The copy engine (spec 13 R317, R323 to R327, 17 R404): CPY, GATH and COLL, their cards and footprints,
and the events of every job: its start, its chunks, its end. -/

namespace Sys2Proof.Machine

/-! Job cards -/

/-- A job card (R323). -/
def cardOf (bs : List Byte) : Card :=
  let fl := fieldAt bs 2 1
  { type := fieldAt bs 0 1, sfmt := fieldAt bs 1 1 % 16, dfmt := fieldAt bs 1 1 / 16, rnd := fl % 8, sat := bitOf fl 3
    fixed := bitOf fl 4, sglob := bitOf fl 5, dglob := bitOf fl 6, fexp := fieldAt bs 3 1, seed := fieldAt bs 4 2
    kind := fieldAt bs 6 2, src := fieldAt bs 8 8, dst := fieldAt bs 16 8, nx := fieldAt bs 24 4, ny := fieldAt bs 28 2
    nz := fieldAt bs 30 2, ssy := sfieldAt bs 32 4, ssz := sfieldAt bs 36 4, dsy := sfieldAt bs 40 4
    dsz := sfieldAt bs 44 4, sscl := sfieldAt bs 48 4, dscl := sfieldAt bs 52 4, bar := fieldAt bs 56 4
    set := fieldAt bs 60 4 }

/-- The unsigned reading of a card's signed field. -/
def unsigned32 (x : Int) : Nat := wrapTo 32 x

/-- What every card is checked for (R323). -/
def Card.common (c : Card) (bs : List Byte) (type : Nat) : Bool :=
  c.type == type && decide (c.sfmt ≤ 13) && decide (c.dfmt ≤ 13) && c.rnd != 7 && !bitOf (fieldAt bs 2 1) 7 &&
    decide (1 ≤ c.nx) && decide (c.nx ≤ 2 ^ 24) && decide (1 ≤ c.ny) && decide (1 ≤ c.nz) &&
    decide (c.nx % runUnit c.sfmt = 0) && decide (c.nx % runUnit c.dfmt = 0) &&
    (c.bar == 0xFFFFFFFF || decide (c.bar % 16 = 0)) && (c.sglob || decide (c.src < 2 ^ 32)) &&
    (c.dglob || decide (c.dst < 2 ^ 32)) && decide (c.src % codeAlign c.sfmt = 0) &&
    decide (c.ssy % codeAlign c.sfmt = 0) && decide (c.dst % codeAlign c.dfmt = 0) &&
    decide (c.dsy % codeAlign c.dfmt = 0)

/-- A CPY's card (R323, R324). -/
def Card.cpyOk (c : Card) (bs : List Byte) : Bool :=
  c.common bs 1 && c.kind == 0 && c.set == 0 && decide (c.ssz % codeAlign c.sfmt = 0) &&
    decide (c.dsz % codeAlign c.dfmt = 0)

/-- GATH's IBOUND and IDX (R323). -/
def Card.ibound (c : Card) : Nat := unsigned32 c.ssz
def Card.idx (c : Card) : Nat := unsigned32 c.dsz

/-- A GATH's card (R323, R325). -/
def Card.gathOk (c : Card) (bs : List Byte) : Bool :=
  c.common bs 2 && c.kind == 0 && c.set == 0 && c.nz == 1 && decide (0 < c.ssy) && decide (1 ≤ c.ibound) &&
    decide (c.idx % 4 = 0)

/-- Whether a COLL's set is of modules; the operation (R323). -/
def Card.modSet (c : Card) : Bool := bitOf c.kind 2
def Card.op (c : Card) : Nat := c.kind % 4

/-- A member's rank and the number of members (R326, R404); none when the card is invalid. -/
def State.collPlace (s : State) (die : Nat) (c : Card) : Option (Nat × Nat) :=
  if c.modSet then
    let e := s.mgmtReg (0x91000 + 8 * c.set)
    if c.set < 16 ∧ bitOf e 0 then some (bitsOf e 55 48, bitsOf e 63 56) else none
  else if c.set < 512 ∧ bitOf c.set die then
    some (((List.range die).filter (bitOf c.set)).length, ((List.range 9).filter (bitOf c.set)).length)
  else none

/-- A COLL's card (R323, R326): the fields that it does not use are 0. -/
def Card.collOk (c : Card) (bs : List Byte) (p : Nat) : Bool :=
  c.common bs 3 && c.sfmt == c.dfmt && (c.sfmt == 0 || c.sfmt == 2) && c.ny == 1 && c.nz == 1 && decide (c.kind < 8) &&
    c.op != 3 && (c.op != 2 || decide (c.nx % p = 0)) && c.rnd == 0 && !c.sat && !c.fixed && c.fexp == 0 &&
    [c.ssy, c.ssz, c.dsy, c.dsz, c.sscl, c.dscl].all (· == 0)

/-- Source and destination vectors: their number, and elements that a COLL writes (R326). -/
def Card.vectors (c : Card) : Nat := c.ny * c.nz
def Card.outLen (c : Card) (p : Nat) : Nat := if c.op = 1 then p * c.nx else if c.op = 2 then c.nx / p else c.nx

/-- The footprint of a CPY (R327). -/
def Card.cpyReads (c : Card) : List Reach :=
  let b := runBytes c.sfmt c.nx
  reach c.sglob c.src [(c.ny, c.ssy), (c.nz, c.ssz)] b.1 ::
    (if isMx c.sfmt then [reach c.sglob (c.src + c.sscl) [] (c.vectors * b.2)] else [])
def Card.cpyWrites (c : Card) : List Reach :=
  let b := runBytes c.dfmt c.nx
  reach c.dglob c.dst [(c.ny, c.dsy), (c.nz, if c.type = 1 then c.dsz else 0)] b.1 ::
    (if isMx c.dfmt then [reach c.dglob (c.dst + c.dscl) [] (c.vectors * b.2)] else [])

/-- The footprint of a GATH (R327). -/
def Card.gathReads (c : Card) : List Reach :=
  let b := runBytes c.sfmt c.nx
  reach c.sglob c.src [(c.ibound, c.ssy)] b.1 ::
    ((if isMx c.sfmt then [reach c.sglob (c.src + c.sscl) [] (c.ibound * b.2)] else []) ++
     [reach false c.idx [] (4 * c.ny)])

/-- Check a card's ranges and barrier object, then queue the job (R311 steps 6 to 8). -/
def Thread.cardJob (t : Thread) (f : EnF) (addr : Dword) (c : Card) (kind : JobKind) (rs ws : List Reach)
    (pre : Thread → Thread) : Res :=
  let bar := if c.bar = 0xFFFFFFFF then none else some c.bar
  t.checked ((rs ++ ws).map t.reachCheck ++ [bar.bind fun b => t.reachCheck ⟨false, b, b + 16⟩]) fun t =>
    if (t.s.freeEntry t.core).isNone || t.ctrFull .en then .again t
    else
      let t := pre t
      t.enqueue (t.job kind addr (rs.map Reach.extent) (ws.map Reach.extent)
        (stoSeed (match kind with | .copy _ => c.seed | _ => 0)) (t.latchOp f) bar)

/-- CPY (R324). -/
def execCpy (f : EnF) (s : State) : Host.Outcome State Fault Refusal :=
  issue (.cpy f) (enOpds f false f.sc.toNat (if f.cs then 2 else 1)) true (fun t =>
    t.engine fun t => t.readCard f 1 fun t addr bs =>
      let c := cardOf bs
      if !c.cpyOk bs then .trap t 0x10 addr 0
      else t.cardJob f addr c (.copy c) c.cpyReads c.cpyWrites id) s

/-- GATH (R325). -/
def execGath (f : EnF) (s : State) : Host.Outcome State Fault Refusal :=
  issue (.gath f) (enOpds f false f.sc.toNat (if f.cs then 2 else 1)) true (fun t =>
    t.engine fun t => t.readCard f 1 fun t addr bs =>
      let c := cardOf bs
      if !c.gathOk bs then .trap t 0x10 addr 0
      else t.cardJob f addr c (.copy c) c.gathReads c.cpyWrites id) s

/-- The number of collectives that a die has issued for a context, GROUP and kind of set (R326). -/
def collCount (l : List ((Nat × Nat) × Nat × Nat)) (die ctx group : Nat) : Nat :=
  (l.findSome? fun e => if e.1 = (die, ctx) ∧ e.2.1 = group then some e.2.2 else none).getD 0
def collBump (l : List ((Nat × Nat) × Nat × Nat)) (die ctx group : Nat) : List ((Nat × Nat) × Nat × Nat) :=
  ((die, ctx), group, collCount l die ctx group + 1) :: l.filter fun e => !decide (e.1 = (die, ctx) ∧ e.2.1 = group)

/-- COLL (R326). -/
def execColl (f : EnF) (s : State) : Host.Outcome State Fault Refusal :=
  issue (.coll f) (enOpds f false f.sc.toNat (if f.cs then 2 else 1)) true (fun t =>
    t.engine fun t => t.readCard f 1 fun t addr bs =>
      let c := cardOf bs
      match t.s.collPlace t.die c with
      | none => .trap t 0x10 addr 0
      | some (_, p) =>
        if !c.collOk bs p then .trap t 0x10 addr 0
        else
          let k := collCount t.s.collNo t.die t.ctx.slot c.seed
          t.cardJob f addr c (.coll c k) [reach c.sglob c.src [] (runBytes c.sfmt c.nx).1]
            [reach c.dglob c.dst [] (runBytes c.dfmt (c.outLen p)).1]
            (fun t => { t with s := { t.s with collNo := collBump t.s.collNo t.die t.ctx.slot c.seed } })) s

/-! The chunks of CPY and GATH -/

/-- The destination address of vector `v`, and of its scales (R324, R325). -/
def Card.vecDst (c : Card) (v : Nat) : Int :=
  c.dst + ((v % c.ny : Nat) : Int) * c.dsy + (if c.type = 1 then ((v / c.ny : Nat) : Int) * c.dsz else 0)
def Card.sclDst (c : Card) (v : Nat) : Int := c.dst + c.dscl + ((v * (c.nx / 32) : Nat) : Int)

/-- The source row of vector `v` (R324, R325): none for an index out of bound. -/
def Card.rowOf (c : Card) (data : List Byte) (v : Nat) : Option Nat :=
  if c.type = 1 then some v
  else
    let j := fieldAt data (4 * v) 4
    if j < c.ibound then some j else none

/-- The source address of a row, and of its scales. -/
def Card.vecSrc (c : Card) (r : Nat) : Int :=
  if c.type = 1 then c.src + ((r % c.ny : Nat) : Int) * c.ssy + ((r / c.ny : Nat) : Int) * c.ssz else c.src + (r : Int) * c.ssy
def Card.sclSrc (c : Card) (r : Nat) : Int := c.src + c.sscl + ((r * (c.nx / 32) : Nat) : Int)

/-- The lowest destination byte at or above `pos` (R141). -/
def Card.nextByte (c : Card) (pos : Int) : Option Int :=
  let b := runBytes c.dfmt c.nx
  let areas : List (Int × Nat) := (List.range c.vectors).flatMap fun v => [(c.vecDst v, b.1), (c.sclDst v, b.2)]
  let at_ : List Int := areas.filterMap fun a => if a.2 = 0 ∨ a.1 + a.2 ≤ pos then none else some (max a.1 pos)
  at_.foldl (fun best x => match best with
    | none => some x
    | some y => some (min x y)) none

/-- The vector that determines a destination byte, the highest ordinal: whether it is a scale byte, and its offset
(R324). DESIGN CHOICE (log 58): scale bytes and element bytes count alike, and within one vector the scale byte wins. -/
def Card.byteOf (c : Card) (a : Int) : Option (Nat × Bool × Nat) :=
  let b := runBytes c.dfmt c.nx
  (List.range c.vectors).foldl (fun best v =>
    let s := c.sclDst v
    let d := c.vecDst v
    if s ≤ a ∧ a < s + b.2 then some (v, true, (a - s).toNat)
    else if d ≤ a ∧ a < d + b.1 then some (v, false, (a - d).toNat)
    else best) none

/-- The group of 32 elements that a destination byte belongs to. -/
def Card.groupOf (c : Card) (x : Nat × Bool × Nat) : Nat × Nat :=
  (x.1, if x.2.1 then x.2.2 else x.2.2 / (runBytes c.dfmt 32).1)

/-- The STO state before element `e` of vector `v` (R324, R325). -/
def Card.stoAt (c : Card) (data : List Byte) (q : Word) (v e : Nat) : Word :=
  if c.sfmt = c.dfmt ∨ (isIntCode c.sfmt ∧ isIntCode c.dfmt) ∨ c.rnd ≠ 6 then q
  else
    let n := ((List.range v).filter fun y => (c.rowOf data y).isSome).length
    Nat.repeat lfsrNext (n * c.nx + e) q

/-- How a card encodes (R324). -/
def Card.ctl (c : Card) : EncCtl := ⟨engineMode c.rnd, c.sat, c.fixed, c.fexp, false⟩

/-- The destination bytes and scale bytes of a group (R324, R325), read at its source. -/
def State.cardGroup (s : State) (uid : Nat) (j : Job) (c : Card) (v g : Nat)
    (k : State → List Byte × List Byte → JobAcc) : JobAcc :=
  let n := min 32 (c.nx - 32 * g)
  match c.rowOf j.data v with
  | none =>
    let b := runBytes c.dfmt n
    k s (List.replicate b.1 0, List.replicate b.2 0)
  | some r =>
    let b := runBytes c.sfmt n
    let src := c.vecSrc r + ((runBytes c.sfmt (32 * g)).1 : Int)
    let scl := c.sclSrc r + (g : Int)
    match s.jobRead uid j c.sglob src.toNat b.1 with
    | .ok s bs =>
      match s.jobRead uid j c.sglob scl.toNat b.2 with
      | .ok s sc =>
        if c.sfmt = c.dfmt then k s (bs, sc)
        else
          let r := encodeRun c.ctl (isIntCode c.sfmt) c.dfmt (c.stoAt j.data j.sto v (32 * g)) (decodeRun c.sfmt n bs sc)
          k s (r.1, r.2.1)
      | x => x
    | x => x

/-- The bytes of a chunk, group by group. -/
def State.cardGroups (s : State) (uid : Nat) (j : Job) (c : Card) :
    List (Nat × Nat) → List ((Nat × Nat) × List Byte × List Byte) →
      (State → List ((Nat × Nat) × List Byte × List Byte) → JobAcc) → JobAcc
  | [], acc, k => k s acc
  | x :: r, acc, k => s.cardGroup uid j c x.1 x.2 fun s b => s.cardGroups uid j c r ((x, b) :: acc) k

/-- The byte of a group's bytes that stands at a place of its vector. -/
def Card.pick (c : Card) (gs : List ((Nat × Nat) × List Byte × List Byte)) (x : Nat × Bool × Nat) : Byte :=
  let g := c.groupOf x
  match gs.find? fun e => e.1 == g with
  | some (_, bs, sc) => if x.2.1 then sc.headD 0 else bs.getD (x.2.2 % (runBytes c.dfmt 32).1) 0
  | none => 0

/-- The 32-byte destination chunk from `pos` (R141): performed as a whole, then the job stands after it. -/
def State.cardChunk (s : State) (uid : Nat) (j : Job) (c : Card) (pos : Nat) : State :=
  match c.nextByte pos with
  | none => s.putJob uid { j with pos := none }
  | some a =>
    let base := a.toNat / 32 * 32
    let xs := (List.range 32).filterMap fun i =>
      if base + i < pos then none else (c.byteOf (base + i : Nat)).map fun x => (base + i, x)
    let gs := (xs.map fun x => c.groupOf x.2).eraseDups
    let r := s.cardGroups uid j c gs [] fun s gs =>
      s.jobWrite uid j c.dglob (xs.map fun x => (x.1, c.pick gs x.2))
    r.go uid j fun s _ =>
      s.chunkDone uid { j with pos := (c.nextByte (base + 32 : Nat)).map fun _ => base + 32 } xs.length

/-! Collectives -/

/-- The dies that take part in a card's collective, as far as they are dies of this module (R326): a module set's member here is
the die that issues it (R404). -/
def Card.dies (c : Card) (die : Nat) : List Nat := if c.modSet then [die] else (List.range 9).filter (bitOf c.set)

/-- Whether the `k`-th job of a die for a context and GROUP belongs to a match (R326): some member names it, or the other way round. -/
def Coll.takes (x : Coll) (ctx group k die : Nat) (c : Card) : Bool :=
  x.ctx == ctx && x.group == group && x.k == k && !(x.members.any fun m => m.die == die) &&
    (x.set.contains die || x.members.any fun m => (c.dies die).contains m.die)

/-- Whether matched jobs agree (R326). -/
def Card.agrees (a b : Card) : Bool :=
  a.op == b.op && a.sfmt == b.sfmt && a.dfmt == b.dfmt && a.nx == b.nx && a.set == b.set && a.modSet == b.modSet

/-- Join a match, or open one (R326). A module set's other members are outside the module. -/
def collJoin (uid die rank : Nat) (j : Job) (c : Card) (k : Nat) (data : List Byte) : List Coll → List Coll
  | [] => [⟨j.ctx, c.seed, k, c, c.dies die, [⟨die, rank, uid, data⟩], none⟩]
  | x :: r =>
    if x.takes j.ctx c.seed k die c then
      { x with members := x.members ++ [⟨die, rank, uid, data⟩], set := (x.set ++ c.dies die).eraseDups
               failed := if c.agrees x.card then x.failed else some (x.failed.getD 0x10) } :: r
    else x :: collJoin uid die rank j c k data r

/-- The match of a job. -/
def State.collOf (s : State) (uid : Nat) : Option Coll := s.colls.find? fun x => x.members.any fun m => m.job == uid

/-- The source bytes of the member with a rank; of a member outside the module a free value (log 2). -/
def Coll.source (x : Coll) (rank n : Nat) : List Byte :=
  match x.members.find? fun m => m.rank == rank with
  | some m => m.data
  | none => (List.range n).map fun i => Config.memberByte (x.k * 65536 + x.group) rank i

/-- Whether every member has started (R326). -/
def Coll.full (x : Coll) (p : Nat) : Bool := x.card.modSet || decide (x.members.length = p)

/-- Whether a member's job is saved: the others wait for it (R328). -/
def State.collWaits (s : State) (x : Coll) : Bool := x.members.any fun m => (mapFind s.jobs m.job).any fun j => j.saved

/-- Element `i` of a member's source, as an f32 value (R326). -/
def collElem (fmt : Nat) (bs : List Byte) (i : Nat) : FVal :=
  if fmt = 0 then fdecode fmtF32 (fieldAt bs (4 * i) 4) else fdecode fmtBf16 (fieldAt bs (2 * i) 2)

/-- The sum of elements in ascending rank (R326): RNE in f32 at each addition; bf16 rounded once at the end. -/
def collSum (fmt : Nat) (vs : List FVal) : Nat :=
  match vs with
  | [] => 0
  | v :: r =>
    let enc (v : FVal) : Nat := (fencode fmtF32 .rne false false 0 v).1
  let x := r.foldl (fun a b => enc (fsumExact .rne [fdecode fmtF32 a, b]).1) (enc v)
    if fmt = 0 then x else (fencode fmtBf16 .rne false false 0 (fdecode fmtF32 x)).1

/-- The destination bytes of rank `q` (R326). -/
def Coll.result (x : Coll) (q p : Nat) : List Byte :=
  let c := x.card
  let w := plainBytes c.sfmt
  let src := (List.range p).map fun r => x.source r (c.nx * w)
  if c.op = 1 then src.flatten
  else
    let first := if c.op = 2 then q * (c.nx / p) else 0
    (List.range (c.outLen p)).flatMap fun i => leBytes w (collSum c.sfmt (src.map fun bs => collElem c.sfmt bs (first + i)))

/-- A match ends for each of its members (R326, R404). It is kept as failed until the last live die that a member has named has joined,
so that no member waits for it. -/
def State.collFail (s : State) (x : Coll) (cause : Nat) : State :=
  let left := x.set.any fun d => !s.isOffline d && !(x.members.any fun m => m.die == d)
  let rest := s.colls.filter fun y => y != x
  let s : State := { s with colls := if left then rest ++ [{ x with failed := some cause }] else rest }
  x.members.foldl (fun s m => match mapFind s.jobs m.job with
    | some j => s.jobFail m.job j cause j.card 0
    | none => s) s

/-- What a match is to fail with as its newest member joins (R326): a member's die may be gone. -/
def State.collCause (s : State) (x : Coll) : Option Nat :=
  if x.set.any s.isOffline then some (x.failed.getD 0x0E) else x.failed

/-- The 32-byte chunk of a collective's destination from `pos`. -/
def State.collChunk (s : State) (uid : Nat) (j : Job) (c : Card) (pos : Nat) : State :=
  match s.collOf uid, s.collPlace (j.core / 96) c with
  | some x, some (q, p) =>
    if !x.full p || s.collWaits x then s
    else
      let out := x.result q p
      let stop := min (pos / 32 * 32 + 32) (c.dst + out.length)
      let bytes := (List.range (stop - pos)).map fun i => (pos + i, out.getD (pos + i - c.dst) 0)
      (s.jobWrite uid j c.dglob bytes).go uid j fun s _ =>
        s.chunkDone uid { j with pos := if stop < c.dst + out.length then some stop else none } bytes.length
  | _, _ => s

/-! The events of a job -/

/-- A job starts (R143, R309): GATH reads its indices (R325), COLL its source (R326). -/
def State.startJob (s : State) (uid : Nat) (j : Job) : State :=
  match j.kind with
  | .copy c =>
    (if c.type = 2 then s.jobRead uid j false c.idx (4 * c.ny) else .ok s []).go uid j fun s data =>
      s.putJob uid { j with started := true, data := data, pos := (c.nextByte 0).map Int.toNat }
  | .coll c k =>
    (s.jobRead uid j c.sglob c.src (runBytes c.sfmt c.nx).1).go uid j fun s bs =>
      match s.collPlace (j.core / 96) c with
      | none => s.jobFail uid j 0x10 j.card 0
      | some (q, _) =>
        let s : State := { s with colls := collJoin uid (j.core / 96) q j c k bs s.colls }
        let s := s.putJob uid { j with started := true, pos := some c.dst }
        match s.collOf uid with
        | some x =>
          match s.collCause x with
          | some cause => s.collFail x cause
          | none => s
        | none => s
  | _ => s.startMatrix uid j

/-- ENGINE_JOB_START (R143, R144, R309). -/
def execEngineJobStart (job : Nat) (s : State) : Host.Outcome State Fault Refusal :=
  event true (fun s =>
    match mapFind s.jobs job with
    | some j => if s.jobReady job j then s.startJob job j else s
    | none => s) s

/-- The first chunk of the images that a job has still to write (R316, R321). -/
def State.imageChunk (s : State) (uid : Nat) (j : Job) : State :=
  match j.imgs with
  | [] => s
  | [] :: r => s.putJob uid { j with imgs := r }
  | ((a, b) :: m) :: r =>
    let (now, later) := ((a, b) :: m).partition fun e => e.1 / 32 == a / 32
    let glob := match j.kind with
      | .drain d => d.glob
      | .nest n .. => n.oglob
      | _ => false
    (s.jobWrite uid j glob now).go uid j fun s _ =>
      s.chunkDone uid { j with imgs := if later.isEmpty then r else later :: r } now.length

/-- ENGINE_CHUNK (R141, R317): the job's next destination chunk. -/
def execEngineChunk (job : Nat) (s : State) : Host.Outcome State Fault Refusal :=
  event true (fun s =>
    match mapFind s.jobs job with
    | some j =>
      if j.started ∧ !j.saved ∧ j.park.isNone then
        match j.kind, j.pos with
        | .copy c, some p => s.cardChunk job j c p
        | .coll c _, some p => s.collChunk job j c p
        | _, _ => s.imageChunk job j
      else s
    | none => s) s

/-- Whether a job's last chunk has been performed (R311). -/
def Job.allDone (j : Job) : Bool := j.started && !j.saved && j.park.isNone && j.pos.isNone && j.imgs.isEmpty && j.idx.isNone

/-- A match that a completed job leaves is gone with its last member. -/
def State.collLeave (s : State) (uid : Nat) : State :=
  match s.collOf uid with
  | none => s
  | some x =>
    if x.members.all fun m => m.job == uid || (mapFind s.jobs m.job).isNone then
      { s with colls := s.colls.filter fun y => y != x }
    else s

/-- A job's last step (R311): its latch, if any, is updated; then it is complete. -/
def State.finishJob (s : State) (uid : Nat) (j : Job) : State :=
  match j.latch with
  | none => (s.jobEnd uid j).collLeave uid
  | some l =>
    (s.jobAddress uid j 2 l.va.toNat 16 fun s pa => .ok s (leBytes 8 pa)).go uid j fun s bs =>
      let pa := leNat bs
      if s.viewNat (pa + 8) 8 ≠ 0 then s.jobFail uid j 0x02 l.va 0
      else ((s.latchUpdate pa l.value l.set (j.core / 96)).jobEnd uid j).collLeave uid

/-- ENGINE_JOB_COMPLETE (R311). -/
def execEngineJobComplete (job : Nat) (s : State) : Host.Outcome State Fault Refusal :=
  event true (fun s =>
    match mapFind s.jobs job with
    | some j => if j.allDone then s.finishJob job j else s
    | none => s) s

/-- COLL_PORT_TIMEOUT (R404): a port of a ring has been down for 1 ms while matches are open. -/
def execCollPortTimeout (port : Nat) (s : State) : Host.Outcome State Fault Refusal :=
  event (decide (port < 18)) (fun s =>
    (s.colls.filter fun x => x.card.modSet &&
      (let e := s.mgmtReg (0x91000 + 8 * x.card.set)
       bitsOf e 47 43 == port || bitsOf e 42 38 == port)).foldl (fun s x => s.collFail x 0x0E) s) s

end Sys2Proof.Machine
end

