-- ==== Sys2Proof/Machine/Vector.lean ====
section
/-! DEFINITION. The V3 and LONG instructions (spec 10 R237 to R253, 08 R185 to R188). -/

namespace Sys2Proof.Machine

/-- What an opcode does: a function of each lane, with how many registers it reads from va (R237), whether operand b
is 64 bits wide, and how many registers it writes; a comparison; a selection; an index. -/
inductive V3Kind where
  | lanes (fn : LaneIn → LaneOut) (aN : Nat) (bWide : Bool) (dN : Nat)
  | cmp (cc : Nat)
  | sel
  | idx

/-- The opcodes of R238. `va` is CVT's control field, `k` the constant of PACK8 and UNPK8. -/
def v3Kind (op va k : Nat) : V3Kind :=
  match op with
  | 0x01 => .lanes laneMov 0 false 1
  | 0x02 => .lanes laneAdd 1 false 1
  | 0x03 => .lanes laneSub 1 false 1
  | 0x04 => .lanes laneMul 1 false 1
  | 0x05 => .lanes laneMulh 1 false 1
  | 0x06 => .lanes laneMad 1 false 1
  | 0x07 => .lanes laneMin 1 false 1
  | 0x08 => .lanes laneMax 1 false 1
  | 0x09 => .lanes laneAbs 0 false 1
  | 0x0A => .lanes laneNeg 0 false 1
  | 0x0B => .lanes laneAnd 1 false 1
  | 0x0C => .lanes laneOr 1 false 1
  | 0x0D => .lanes laneXor 1 false 1
  | 0x0E => .lanes laneNot 0 false 1
  | 0x0F => .lanes laneShl 1 false 1
  | 0x10 => .lanes laneShr 1 false 1
  | 0x11 => .lanes laneSar 1 false 1
  | 0x12 => .lanes laneRot 1 false 1
  | 0x13 => .lanes laneBfe 1 false 1
  | 0x14 => .lanes laneBfi 1 false 1
  | 0x15 => .lanes lanePopc 0 false 1
  | 0x16 => .lanes laneClz 0 false 1
  | 0x17 => .lanes laneBrev 0 false 1
  | 0x18 => .lanes laneAdd64 2 true 2
  | 0x19 => .lanes laneSub64 2 true 2
  | 0x1A => .lanes laneMulw 1 false 2
  | 0x1B => .sel
  | 0x28 => .lanes laneClass 0 false 1
  | 0x32 => .lanes laneSqrt 0 false 1
  | 0x37 => .lanes laneDiv 1 false 1
  | 0x40 => .lanes (laneCvt va) 0 false 1
  | 0x41 => .lanes (lanePack8 (k % 16)) 4 false 1
  | 0x42 => .lanes (laneUnpk8 (k % 16)) 1 false 4
  | 0x43 => .lanes lanePack4 8 false 1
  | 0x44 => .lanes laneUnpk4 1 false 8
  | 0x48 => .lanes laneDot4 1 false 1
  | 0x49 => .lanes laneDot2 1 false 1
  | 0x50 => .idx
  | n => if 0x20 ≤ n ∧ n < 0x28 then .cmp (n - 0x20) else .lanes (laneTrans n) 0 false 1

/-- The constant of PACK8, UNPK8 and VIDX (R238): bsel 2's immediate, or the long form's word, as it stands (log 15). -/
def v3Const (f : V3F) (lit : Option Word) : Word := lit.getD (f.vb.signExtend 32)

/-- Whether an opcode takes its operand b as a constant. -/
def v3IsConst (op : Nat) : Bool := op == 0x41 || op == 0x42 || op == 0x50

/-- The destination of a V3 opcode: VMAD, VBFI, VDOT4 and VDOT2 also read it (R237). -/
def v3Dest (op : Nat) (f : V3F) (n : Nat) : Opd :=
  if op = 0x06 ∨ op = 0x14 ∨ op = 0x48 ∨ op = 0x49 then .v f.vd.toNat n n else .dv f.vd.toNat n n

/-- The register operands of a V3 instruction (R198, R237). -/
def v3Opds (op : Nat) (f : V3F) (long : Bool) : List Opd :=
  let b (wide : Bool) : List Opd := if long || v3IsConst op then [] else opdB f.bsel f.vb wide
  guardOpd f.gen f.gs ++
  (match v3Kind op f.va.toNat 0 with
   | .lanes _ aN w dN =>
     (if aN = 0 then [] else [.v f.va.toNat aN aN]) ++ b w ++ [v3Dest op f dN]
   | .cmp _ => [.v f.va.toNat 1 1] ++ b false ++ [.dm f.vd.toNat]
   | .sel => [.v f.va.toNat 1 1] ++ b false ++ [.dv f.vd.toNat 1 1]
   | .idx => [.dv f.vd.toNat 1 1])

/-- The limits of the constants (R249, R253). -/
def v3Limit (op : Nat) (f : V3F) (lit : Option Word) : Bool :=
  let k := (v3Const f lit).toNat
  if op = 0x41 ∨ op = 0x42 then
    let c := k % 16
    c == 6 || c == 7 || ((c == 3 || c == 4) && f.ty == 2)
  else if op = 0x50 then decide (k ≤ 5) else true

/-- What a lane of an instruction reads (R185, R187): operand a, operand b, the old vd or operand c. -/
def Thread.laneArgs (t : Thread) (f : V3F) (b : OpB) (aN : Nat) (wide : Bool) (d : Word) (l : Nat) : LaneIn :=
  let neg (on : Bool) (w : Word) : Word := if on then w ^^^ signBits f.ty.toNat else w
  let bv := t.laneB b wide l
  { a := (t.vregs l f.va.toNat aN).map (neg f.na)
    b := if f.nb then (neg true (loWord bv)).setWidth 64 else bv
    d := d, ty := f.ty.toNat, e := fpEnvOf t.w.mode f.rnd.toNat f.sat, q := t.lane l, na := f.na }

/-- Write what the lanes produced (R237, R243). -/
def Thread.putLanes (t : Thread) (vd : Nat) (os : List (Nat × LaneOut)) : Thread :=
  os.foldl (fun t o => (t.setVregs o.1 vd o.2.ws).setLane o.1 o.2.q) t

/-- The exceptions of all lanes together (R241). -/
def laneFlags (os : List (Nat × LaneOut)) : BitVec 5 := os.foldl (fun fl o => fl ||| o.2.fl) 0

/-- A per-lane instruction: every active lane computes from the registers as they stood, then all are written (R237,
R241). `d` is what a lane reads as vd or operand c. -/
def Thread.perLane (t : Thread) (f : V3F) (b : OpB) (fn : LaneIn → LaneOut) (aN : Nat) (wide : Bool)
    (d : Nat → Word) : Res :=
  let os := (lanesOf t.w.width (t.w.active f.gen f.ginv f.gs.toNat)).map fun l =>
    (l, fn (t.laneArgs f b aN wide (d l) l))
  t.arith (laneFlags os) fun t => .next (t.putLanes f.vd.toNat os)

/-- VCMP (R244): the group is 0 for lanes that are not active. -/
def Thread.compare (t : Thread) (f : V3F) (b : OpB) (cc : Nat) : Res :=
  let rs := (lanesOf t.w.width (t.w.active f.gen f.ginv f.gs.toNat)).map fun l =>
    (l, laneCmp cc (t.laneArgs f b 1 false 0 l))
  t.arith (rs.foldl (fun fl r => fl ||| r.2.2) 0) fun t =>
    .next { t with w := t.w.setGroup f.vd.toNat (laneMaskOf ((rs.filter fun r => r.2.1).map (·.1))) }

/-- VSEL (R240): the guard chooses; the active lanes are exec alone. -/
def Thread.select (t : Thread) (f : V3F) (b : OpB) : Res :=
  let g := t.w.active true f.ginv f.gs.toNat
  let os := (lanesOf t.w.width t.w.exec).map fun l =>
    let x := t.laneArgs f b 1 false 0 l
    (l, if laneIn g l then (⟨x.a, 0, x.q⟩ : LaneOut) else ⟨[loWord x.b], 0, x.q⟩)
  .next (t.putLanes f.vd.toNat os)

/-- What VIDX gives a lane (R253, R366): the lane's place in its quad counts from the warp's first lane. -/
def Thread.index (t : Thread) (k l : Nat) : Nat :=
  let fr := mapFind t.g.frags (t.w.fam l)
  match k with
  | 0 => l
  | 1 => match fr with
    | some f => match f.quad with
      | some q => q - t.w.famOff + 256 * f.pos
      | none => 0x7F
    | none => 0x7F
  | 2 => (fr.map Frag.px).getD 0
  | 3 => (fr.map Frag.py).getD 0
  | 4 => (fr.map Frag.smp).getD 0
  | _ => t.w.fam l

/-- The effect of a V3 opcode with its operand b. -/
def Thread.v3 (t : Thread) (op : Nat) (f : V3F) (k : Word) (b : OpB) : Res :=
  match v3Kind op f.va.toNat k.toNat with
  | .lanes fn aN w _ => t.perLane f b fn aN w fun l => t.vreg l f.vd.toNat
  | .cmp cc => t.compare f b cc
  | .sel => t.select f b
  | .idx =>
    let os := (lanesOf t.w.width (t.w.active f.gen f.ginv f.gs.toNat)).map fun l =>
      (l, (⟨[BitVec.ofNat 32 (t.index k.toNat l)], 0, t.lane l⟩ : LaneOut))
    .next (t.putLanes f.vd.toNat os)

/-- A V3 opcode, with operand b by bsel or, in the long immediate form, a word (R188). -/
def v3Exec (i : Instr) (op : Nat) (f : V3F) (lit : Option Word) (s : State) : Host.Outcome State Fault Refusal :=
  issue i (v3Opds op f lit.isSome) (v3Limit op f lit) (fun t =>
    let wide := op == 0x18 || op == 0x19
    match lit with
    | some w => t.v3 op f w (.val (litOf wide w.toNat))
    | none =>
      if v3IsConst op then t.v3 op f (v3Const f none) (.val ((v3Const f none).setWidth 64))
      else
        match t.operandB f.bsel f.vb f.ty.toNat wide with
        | .error r => r
        | .ok (t, b) => t.v3 op f 0 b) s

/-- VMOV (R239). Copies operand b into vd in every active lane. -/
def execVmov (f : V3F) (s : State) : Host.Outcome State Fault Refusal := v3Exec (.vmov f) 0x01 f none s

/-- VADD (R239). Adds operands a and b per element, wrapping or saturating for integers and rounding once for floats. -/
def execVadd (f : V3F) (s : State) : Host.Outcome State Fault Refusal := v3Exec (.vadd f) 0x02 f none s

/-- VSUB (R239). Subtracts operand b from operand a per element. -/
def execVsub (f : V3F) (s : State) : Host.Outcome State Fault Refusal := v3Exec (.vsub f) 0x03 f none s

/-- VMUL (R239). Multiplies operands a and b per element, keeping the low bits for integers. -/
def execVmul (f : V3F) (s : State) : Host.Outcome State Fault Refusal := v3Exec (.vmul f) 0x04 f none s

/-- VMULH (R239). Writes the high half of each integer element product. -/
def execVmulh (f : V3F) (s : State) : Host.Outcome State Fault Refusal := v3Exec (.vmulh f) 0x05 f none s

/-- VMAD (R239). Computes A times B plus the old vd, fused and rounded once for floats. -/
def execVmad (f : V3F) (s : State) : Host.Outcome State Fault Refusal := v3Exec (.vmad f) 0x06 f none s

/-- VMIN (R239). Writes the element minimum, minimumNumber for floats. -/
def execVmin (f : V3F) (s : State) : Host.Outcome State Fault Refusal := v3Exec (.vmin f) 0x07 f none s

/-- VMAX (R239). Writes the element maximum, maximumNumber for floats. -/
def execVmax (f : V3F) (s : State) : Host.Outcome State Fault Refusal := v3Exec (.vmax f) 0x08 f none s

/-- VABS (R242). Writes the absolute value of B, clearing only the sign bit for floats. -/
def execVabs (f : V3F) (s : State) : Host.Outcome State Fault Refusal := v3Exec (.vabs f) 0x09 f none s

/-- VNEG (R242). Writes minus B, inverting only the sign bit for floats. -/
def execVneg (f : V3F) (s : State) : Host.Outcome State Fault Refusal := v3Exec (.vneg f) 0x0A f none s

/-- VAND (R239). Bitwise AND of operands a and b. -/
def execVand (f : V3F) (s : State) : Host.Outcome State Fault Refusal := v3Exec (.vand f) 0x0B f none s

/-- VOR (R239). Bitwise OR of operands a and b. -/
def execVor (f : V3F) (s : State) : Host.Outcome State Fault Refusal := v3Exec (.vor f) 0x0C f none s

/-- VXOR (R239). Bitwise XOR of operands a and b. -/
def execVxor (f : V3F) (s : State) : Host.Outcome State Fault Refusal := v3Exec (.vxor f) 0x0D f none s

/-- VNOT (R239). Bitwise complement of operand b. -/
def execVnot (f : V3F) (s : State) : Host.Outcome State Fault Refusal := v3Exec (.vnot f) 0x0E f none s

/-- VSHL (R239). Shifts A left by B mod the element width. -/
def execVshl (f : V3F) (s : State) : Host.Outcome State Fault Refusal := v3Exec (.vshl f) 0x0F f none s

/-- VSHR (R239). Shifts A right logically by B mod the element width. -/
def execVshr (f : V3F) (s : State) : Host.Outcome State Fault Refusal := v3Exec (.vshr f) 0x10 f none s

/-- VSAR (R239). Shifts A right arithmetically by B mod the element width. -/
def execVsar (f : V3F) (s : State) : Host.Outcome State Fault Refusal := v3Exec (.vsar f) 0x11 f none s

/-- VROT (R239). Rotates A left by B mod the element width. -/
def execVrot (f : V3F) (s : State) : Host.Outcome State Fault Refusal := v3Exec (.vrot f) 0x12 f none s

/-- VBFE (R239). Extracts a bit field of A described by the lane's operand b. -/
def execVbfe (f : V3F) (s : State) : Host.Outcome State Fault Refusal := v3Exec (.vbfe f) 0x13 f none s

/-- VBFI (R239). Inserts A into a bit field of the old vd described by operand b. -/
def execVbfi (f : V3F) (s : State) : Host.Outcome State Fault Refusal := v3Exec (.vbfi f) 0x14 f none s

/-- VPOPC (R239). Counts the set bits of B. -/
def execVpopc (f : V3F) (s : State) : Host.Outcome State Fault Refusal := v3Exec (.vpopc f) 0x15 f none s

/-- VCLZ (R239). Counts the leading zero bits of B. -/
def execVclz (f : V3F) (s : State) : Host.Outcome State Fault Refusal := v3Exec (.vclz f) 0x16 f none s

/-- VBREV (R239). Reverses the bit order of B. -/
def execVbrev (f : V3F) (s : State) : Host.Outcome State Fault Refusal := v3Exec (.vbrev f) 0x17 f none s

/-- VADD64 (R239). Adds two 64-bit register pairs modulo 2^64. -/
def execVadd64 (f : V3F) (s : State) : Host.Outcome State Fault Refusal := v3Exec (.vadd64 f) 0x18 f none s

/-- VSUB64 (R239). Subtracts two 64-bit register pairs modulo 2^64. -/
def execVsub64 (f : V3F) (s : State) : Host.Outcome State Fault Refusal := v3Exec (.vsub64 f) 0x19 f none s

/-- VMULW (R239). Writes the full 64-bit product of two 32-bit operands to a pair. -/
def execVmulw (f : V3F) (s : State) : Host.Outcome State Fault Refusal := v3Exec (.vmulw f) 0x1A f none s

/-- VSEL (R240). Writes A or B per lane according to the guard bit, acting on exec alone. -/
def execVsel (f : V3F) (s : State) : Host.Outcome State Fault Refusal := v3Exec (.vsel f) 0x1B f none s

/-- VCMP_EQ (R244). Writes a mask group of lanes where A equals B. -/
def execVcmpEq (f : V3F) (s : State) : Host.Outcome State Fault Refusal := v3Exec (.vcmpEq f) 0x20 f none s

/-- VCMP_NE (R244). Writes a mask group of lanes where A differs from B or is unordered. -/
def execVcmpNe (f : V3F) (s : State) : Host.Outcome State Fault Refusal := v3Exec (.vcmpNe f) 0x21 f none s

/-- VCMP_LT (R244). Writes a mask group of lanes where A is less than B. -/
def execVcmpLt (f : V3F) (s : State) : Host.Outcome State Fault Refusal := v3Exec (.vcmpLt f) 0x22 f none s

/-- VCMP_LE (R244). Writes a mask group of lanes where A is at most B. -/
def execVcmpLe (f : V3F) (s : State) : Host.Outcome State Fault Refusal := v3Exec (.vcmpLe f) 0x23 f none s

/-- VCMP_GT (R244). Writes a mask group of lanes where A is greater than B. -/
def execVcmpGt (f : V3F) (s : State) : Host.Outcome State Fault Refusal := v3Exec (.vcmpGt f) 0x24 f none s

/-- VCMP_GE (R244). Writes a mask group of lanes where A is at least B. -/
def execVcmpGe (f : V3F) (s : State) : Host.Outcome State Fault Refusal := v3Exec (.vcmpGe f) 0x25 f none s

/-- VCMP_UO (R244). Writes a mask group of lanes where either f32 operand is NaN. -/
def execVcmpUo (f : V3F) (s : State) : Host.Outcome State Fault Refusal := v3Exec (.vcmpUo f) 0x26 f none s

/-- VCMP_OR (R244). Writes a mask group of lanes where neither f32 operand is NaN. -/
def execVcmpOr (f : V3F) (s : State) : Host.Outcome State Fault Refusal := v3Exec (.vcmpOr f) 0x27 f none s

/-- VCLASS (R245). Writes a one-hot class mask of each f32 operand. -/
def execVclass (f : V3F) (s : State) : Host.Outcome State Fault Refusal := v3Exec (.vclass f) 0x28 f none s

/-- VRCP (R246). Computes 1/x within 1 ulp. -/
def execVrcp (f : V3F) (s : State) : Host.Outcome State Fault Refusal := v3Exec (.vrcp f) 0x30 f none s

/-- VRSQ (R246). Computes 1/sqrt(x) within 1 ulp. -/
def execVrsq (f : V3F) (s : State) : Host.Outcome State Fault Refusal := v3Exec (.vrsq f) 0x31 f none s

/-- VSQRT (R246). Computes a correctly rounded square root. -/
def execVsqrt (f : V3F) (s : State) : Host.Outcome State Fault Refusal := v3Exec (.vsqrt f) 0x32 f none s

/-- VEXP2 (R246). Computes 2^x within 2 ulp. -/
def execVexp2 (f : V3F) (s : State) : Host.Outcome State Fault Refusal := v3Exec (.vexp2 f) 0x33 f none s

/-- VLOG2 (R246). Computes log2 x within 2 ulp. -/
def execVlog2 (f : V3F) (s : State) : Host.Outcome State Fault Refusal := v3Exec (.vlog2 f) 0x34 f none s

/-- VSIN (R246). Computes sin(pi x) within 2 ulp. -/
def execVsin (f : V3F) (s : State) : Host.Outcome State Fault Refusal := v3Exec (.vsin f) 0x35 f none s

/-- VCOS (R246). Computes cos(pi x) within 2 ulp. -/
def execVcos (f : V3F) (s : State) : Host.Outcome State Fault Refusal := v3Exec (.vcos f) 0x36 f none s

/-- VDIV (R246). Computes a correctly rounded a/b. -/
def execVdiv (f : V3F) (s : State) : Host.Outcome State Fault Refusal := v3Exec (.vdiv f) 0x37 f none s

/-- VTANH (R246). Computes tanh x within 3 ulp. -/
def execVtanh (f : V3F) (s : State) : Host.Outcome State Fault Refusal := v3Exec (.vtanh f) 0x38 f none s

/-- CVT (R248). Converts one element per lane between the format codes named in its control field. -/
def execCvt (f : V3F) (s : State) : Host.Outcome State Fault Refusal := v3Exec (.cvt f) 0x40 f none s

/-- PACK8 (R249). Converts four registers into the four bytes of vd. -/
def execPack8 (f : V3F) (s : State) : Host.Outcome State Fault Refusal := v3Exec (.pack8 f) 0x41 f none s

/-- UNPK8 (R249). Converts the four bytes of a register exactly into four registers. -/
def execUnpk8 (f : V3F) (s : State) : Host.Outcome State Fault Refusal := v3Exec (.unpk8 f) 0x42 f none s

/-- PACK4 (R250). Encodes eight f32 registers as E2M1 nibbles under an E8M0 scale. -/
def execPack4 (f : V3F) (s : State) : Host.Outcome State Fault Refusal := v3Exec (.pack4 f) 0x43 f none s

/-- UNPK4 (R250). Decodes eight E2M1 nibbles under an E8M0 scale into eight registers. -/
def execUnpk4 (f : V3F) (s : State) : Host.Outcome State Fault Refusal := v3Exec (.unpk4 f) 0x44 f none s

/-- VDOT4 (R251). Accumulates a four-byte integer dot product into vd. -/
def execVdot4 (f : V3F) (s : State) : Host.Outcome State Fault Refusal := v3Exec (.vdot4 f) 0x48 f none s

/-- VDOT2 (R251). Accumulates a two-element dot product into vd. -/
def execVdot2 (f : V3F) (s : State) : Host.Outcome State Fault Refusal := v3Exec (.vdot2 f) 0x49 f none s

/-- VIDX (R253). Writes each active lane an index value chosen by a constant selector. -/
def execVidx (f : V3F) (s : State) : Host.Outcome State Fault Refusal := v3Exec (.vidx f) 0x50 f none s

/-- VMAD4 (R252): A × B + C with C a vector or a scalar register; the old vd is not read. -/
def execVmad4 (f : V3F) (csel : BitVec 2) (vc : BitVec 10) (s : State) : Host.Outcome State Fault Refusal :=
  let c : List Opd := if csel = 0 then [.v vc.toNat 1 1] else [.s vc.toNat 1 1]
  issue (.vmad4 f csel vc) (guardOpd f.gen f.gs ++ ([.v f.va.toNat 1 1] ++ opdB f.bsel f.vb false ++ [.dv f.vd.toNat 1 1]) ++ c) true (fun t =>
    match t.operandB f.bsel f.vb f.ty.toNat false with
    | .error r => r
    | .ok (t, b) => t.perLane f b laneMad 1 false fun l =>
        if csel = 0 then t.vreg l vc.toNat else t.w.sreg vc.toNat) s

/-- The long immediate form (R188): V3 OP `op` with a word as operand b. -/
def execLongImmediateForm (op : BitVec 7) (f : V3F) (imm : Word) (s : State) : Host.Outcome State Fault Refusal :=
  v3Exec (.longImmediateForm op f imm) op.toNat f (some imm) s

end Sys2Proof.Machine
end

