-- ==== Sys2Proof/Machine/CrossLane.lean ====
section
/-! DEFINITION. The cross-lane instructions (spec 10 R254 to R258, 15 R383). -/

namespace Sys2Proof.Machine

/-- The sub-group size of a G code at a width (R189). -/
def groupSize (code w : Nat) : Nat := if code = 7 then w else 2 ^ (code + 1)

/-- The register operands of an XL instruction: operand a when `a`, operand b, the destination (R198, R254). `m` for
a tos result that is a mask group. -/
def xlOpds (f : XlF) (a m : Bool) : List Opd :=
  guardOpd f.gen f.gs ++ (if a then [.v f.va.toNat 1 1] else []) ++ opdB f.bsel f.vb false ++
    [if f.tos then (if m then .dm f.vd.toNat else .ds f.vd.toNat 1 1) else .dv f.vd.toNat 1 1]

/-- The lanes that an XL instruction writes. -/
def Thread.xlActive (t : Thread) (f : XlF) : LaneMask := t.w.active f.gen f.ginv f.gs.toNat

/-- The limits of G that are illegal operands at a width (R254, R258): step 5 of R184. -/
def xlLimit (f : XlF) (small : Bool) (w : Nat) : Bool :=
  let g := groupSize f.g.toNat w
  !(f.tos && decide (g < w)) && !(small && !f.tos && decide (32 < g))

/-- Run an XL instruction: the limits of G, then the width error, then operand b; `k` receives G and operand b of each lane. -/
def xlRun (i : Instr) (f : XlF) (a m : Bool) (small : Bool) (k : Thread → Nat → (Nat → Word) → Res) (s : State) :
    Host.Outcome State Fault Refusal :=
  issue i (xlOpds f a m) (xlLimit f small s.width) (fun t =>
    let g := groupSize f.g.toNat t.w.width
    if t.w.width < g then .trap t 0x08 (word0 i) 0
    else
      match t.operandB f.bsel f.vb f.ty.toNat false with
      | .error r => r
      | .ok (t, b) => k t g fun l => loWord (t.laneB b false l)) s

/-- Write one word in each lane of a list. -/
def Thread.putWords (t : Thread) (vd : Nat) (ws : List (Nat × Word)) : Thread :=
  ws.foldl (fun t e => t.setVregs e.1 vd [e.2]) t

/-- The shuffles and BCST (R256): `src` gives the source member from the lane's own member and index; a source outside
the sub-group gives the lane's own value. -/
def xlShuffle (i : Instr) (f : XlF) (src : Nat → Nat → Option Nat) (s : State) : Host.Outcome State Fault Refusal :=
  xlRun i f true false false (fun t g b =>
    .next (t.putWords f.vd.toNat ((lanesOf t.w.width (t.xlActive f)).map fun l =>
      let x := l % g
      match src x (b l).toNat with
      | some k => (l, t.vreg (if k < g then l - x + k else l) f.va.toNat)
      | none => (l, t.vreg l f.va.toNat)))) s

/-- An operation of a reduction or scan on two values, with its exceptions (R257). -/
def xlOp (t : Thread) (f : XlF) (fn : LaneIn → LaneOut) (x y : Word) : Word × BitVec 5 :=
  let o := fn { a := [x], b := y.setWidth 64, d := 0, ty := f.ty.toNat, e := fpEnvNoSto t.w.mode, q := 0 }
  (o.ws.headD 0, o.fl)

/-- One step of the reduction tree on neighbours (R257): the list halves. -/
def pairUp (op : Word → Word → Word × BitVec 5) : List Word → List Word × BitVec 5
  | x :: y :: r =>
    let (z, fl) := op x y
    let (zs, fl') := pairUp op r
    (z :: zs, fl ||| fl')
  | l => (l, 0)

/-- The fixed tree of a reduction (R257): t[i] with t[i + d] for d = 1, 2, 4 and so on, which pairs neighbours of the
values left. -/
def treeFold (op : Word → Word → Word × BitVec 5) : Nat → List Word → List Word × BitVec 5
  | 0, l => (l, 0)
  | n + 1, l =>
    let (l', fl) := pairUp op l
    let (r, fl') := treeFold op n l'
    (r, fl ||| fl')

/-- The steps of a scan (R257): t[i] := op(t[i − d], t[i]) from the old values. -/
def scanSteps (op : Word → Word → Word × BitVec 5) : Nat → Nat → List Word → List Word × BitVec 5
  | 0, _, l => (l, 0)
  | n + 1, d, l =>
    let new := (List.range l.length).map fun i =>
      if d ≤ i then op (l.getD (i - d) 0) (l.getD i 0) else (l.getD i 0, 0)
    let (r, fl) := scanSteps op n (2 * d) (new.map (·.1))
    (r, new.foldl (fun fl e => fl ||| e.2) 0 ||| fl)

/-- The values of a sub-group, the identity standing for lanes that are not active (R257). -/
def subValues (act : LaneMask) (b : Nat → Word) (ident : Word) (base g : Nat) : List Word :=
  (List.range g).map fun i => if laneIn act (base + i) then b (base + i) else ident

/-- The identities of R257. -/
def idAdd (ty : Nat) : Word := if ty = 2 then 0x80000000#32 else if ty = 3 ∨ ty = 4 then 0x80008000#32 else 0
def idMin (ty : Nat) : Word := if ty = 2 then 0x7F800000#32 else if ty = 1 then 0xFFFFFFFF#32 else 0x7FFFFFFF#32
def idMax (ty : Nat) : Word := if ty = 2 then 0xFF800000#32 else if ty = 1 then 0 else 0x80000000#32

/-- A reduction (R257): every active lane of a sub-group, or the scalar register, receives t[0]. -/
def xlReduce (i : Instr) (f : XlF) (fn : LaneIn → LaneOut) (ident : Word) (s : State) : Host.Outcome State Fault Refusal :=
  xlRun i f false false false (fun t g b =>
    let act := t.xlActive f
    let res := (List.range (t.w.width / g)).map fun k =>
      let (l, fl) := treeFold (xlOp t f fn) g.log2 (subValues act b ident (k * g) g)
      (l.headD ident, fl)
    t.arith (res.foldl (fun fl e => fl ||| e.2) 0) fun t =>
      if f.tos then .next { t with w := t.w.setSreg f.vd.toNat ((res.map Prod.fst).headD ident) }
      else .next (t.putWords f.vd.toNat ((lanesOf t.w.width act).map fun l =>
        (l, (res.map Prod.fst).getD (l / g) ident)))) s

/-- A scan (R257), exclusive for SCANX. DESIGN CHOICE (log 83): the exceptions of every step of the tree count, also at
members that are not active and at the last t of SCANX, which no member receives. -/
def xlScan (i : Instr) (f : XlF) (fn : LaneIn → LaneOut) (ident : Word) (excl : Bool) (s : State) :
    Host.Outcome State Fault Refusal :=
  xlRun i f false false false (fun t g b =>
    let act := t.xlActive f
    let res := (List.range (t.w.width / g)).map fun k =>
      scanSteps (xlOp t f fn) g.log2 1 (subValues act b ident (k * g) g)
    t.arith (res.foldl (fun fl e => fl ||| e.2) 0) fun t =>
      .next (t.putWords f.vd.toNat ((lanesOf t.w.width act).map fun l =>
        let r := (res.map Prod.fst).getD (l / g) []
        let x := l % g
        (l, if excl then (if x = 0 then ident else r.getD (x - 1) ident) else r.getD x ident)))) s

/-- The members of a sub-group that meet a test, as bits. -/
def subMask (g base : Nat) (p : Nat → Bool) : Word :=
  (List.range g).foldl (fun m i => if p (base + i) then m ||| BitVec.ofNat 32 (2 ^ i) else m) 0

/-- VOTE (R258). -/
def xlVote (i : Instr) (f : XlF) (s : State) : Host.Outcome State Fault Refusal :=
  xlRun i f false true true (fun t g b =>
    let act := t.xlActive f
    let yes (l : Nat) : Bool := laneIn act l && b l != 0
    if f.tos then
      .next { t with w := t.w.setGroup f.vd.toNat (laneMaskOf ((List.range t.w.width).filter yes)) }
    else
      .next (t.putWords f.vd.toNat ((lanesOf t.w.width act).map fun l => (l, subMask g (l - l % g) yes)))) s

/-- MATCH (R258). -/
def xlMatch (i : Instr) (f : XlF) (s : State) : Host.Outcome State Fault Refusal :=
  xlRun i f false false true (fun t g b =>
    let act := t.xlActive f
    .next (t.putWords f.vd.toNat ((lanesOf t.w.width act).map fun l =>
      (l, subMask g (l - l % g) fun k => laneIn act k && b k == b l)))) s

/-- DDX and DDY (R383): the difference along the lane's row or column of its quad, RNE; +0.0 without a quad. -/
def xlDeriv (i : Instr) (f : XlF) (vertical : Bool) (s : State) : Host.Outcome State Fault Refusal :=
  xlRun i f false false false (fun t _ b =>
    let e := { fpEnvNoSto t.w.mode with md := .rne }
    let res := (lanesOf t.w.width (t.xlActive f)).map fun l =>
      match (mapFind t.g.frags (t.w.fam l)).bind fun fr => fr.quad.map fun q => (q - t.w.famOff, fr.pos) with
      | some (q, pos) =>
        let lo := if vertical then q + pos % 2 else q + pos / 2 * 2
        let hi := if vertical then lo + 2 else lo + 1
        let o := laneSub { a := [b hi], b := (b lo).setWidth 64, d := 0, ty := 2, e := e, q := 0 }
        (l, o.ws.headD 0, o.fl)
      | none => (l, 0, 0)
    t.arith (res.foldl (fun fl r => fl ||| r.2.2) 0) fun t =>
      .next (t.putWords f.vd.toNat (res.map fun r => (r.1, r.2.1)))) s

/-- SHFL (R256). Reads operand a from sub-group member given by the lane's index. -/
def execShfl (f : XlF) (s : State) : Host.Outcome State Fault Refusal := xlShuffle (.shfl f) f (fun _ j => some j) s

/-- SHFLX (R256). Reads operand a from the member at own index XOR the mask. -/
def execShflx (f : XlF) (s : State) : Host.Outcome State Fault Refusal := xlShuffle (.shflx f) f (fun x j => some (x ^^^ j)) s

/-- SHFLUP (R256). Reads operand a from the member delta below. -/
def execShflup (f : XlF) (s : State) : Host.Outcome State Fault Refusal := xlShuffle (.shflup f) f (fun x j => if j ≤ x then some (x - j) else none) s

/-- SHFLDN (R256). Reads operand a from the member delta above. -/
def execShfldn (f : XlF) (s : State) : Host.Outcome State Fault Refusal := xlShuffle (.shfldn f) f (fun x j => some (x + j)) s

/-- BCST (R256). Broadcasts operand a of one member to the sub-group. -/
def execBcst (f : XlF) (s : State) : Host.Outcome State Fault Refusal := xlShuffle (.bcst f) f (fun _ j => some j) s

/-- REDADD (R257). Sums the sub-group in a fixed tree. -/
def execRedadd (f : XlF) (s : State) : Host.Outcome State Fault Refusal := xlReduce (.redadd f) f laneAdd (idAdd f.ty.toNat) s

/-- REDMIN (R257). Reduces the sub-group to its minimum. -/
def execRedmin (f : XlF) (s : State) : Host.Outcome State Fault Refusal := xlReduce (.redmin f) f laneMin (idMin f.ty.toNat) s

/-- REDMAX (R257). Reduces the sub-group to its maximum. -/
def execRedmax (f : XlF) (s : State) : Host.Outcome State Fault Refusal := xlReduce (.redmax f) f laneMax (idMax f.ty.toNat) s

/-- REDAND (R257). Reduces the sub-group with bitwise AND. -/
def execRedand (f : XlF) (s : State) : Host.Outcome State Fault Refusal := xlReduce (.redand f) f laneAnd 0xFFFFFFFF#32 s

/-- REDOR (R257). Reduces the sub-group with bitwise OR. -/
def execRedor (f : XlF) (s : State) : Host.Outcome State Fault Refusal := xlReduce (.redor f) f laneOr 0 s

/-- REDXOR (R257). Reduces the sub-group with bitwise XOR. -/
def execRedxor (f : XlF) (s : State) : Host.Outcome State Fault Refusal := xlReduce (.redxor f) f laneXor 0 s

/-- SCAN (R257). Inclusive prefix sum over the sub-group. -/
def execScan (f : XlF) (s : State) : Host.Outcome State Fault Refusal := xlScan (.scan f) f laneAdd (idAdd f.ty.toNat) false s

/-- SCANX (R257). Exclusive prefix sum over the sub-group. -/
def execScanx (f : XlF) (s : State) : Host.Outcome State Fault Refusal := xlScan (.scanx f) f laneAdd (idAdd f.ty.toNat) true s

/-- SCANMAX (R257). Inclusive prefix maximum over the sub-group. -/
def execScanmax (f : XlF) (s : State) : Host.Outcome State Fault Refusal := xlScan (.scanmax f) f laneMax (idMax f.ty.toNat) false s

/-- VOTE (R258). Writes the ballot of nonzero operands as a lane mask. -/
def execVote (f : XlF) (s : State) : Host.Outcome State Fault Refusal := xlVote (.vote f) f s

/-- MATCH (R258). Writes each lane the mask of members with an equal operand. -/
def execMatchLanes (f : XlF) (s : State) : Host.Outcome State Fault Refusal := xlMatch (.matchLanes f) f s

/-- DDX (R383). Writes the horizontal quad difference of operand b. -/
def execDdx (f : XlF) (s : State) : Host.Outcome State Fault Refusal := xlDeriv (.ddx f) f false s

/-- DDY (R383). Writes the vertical quad difference of operand b. -/
def execDdy (f : XlF) (s : State) : Host.Outcome State Fault Refusal := xlDeriv (.ddy f) f true s

end Sys2Proof.Machine
end

