-- ==== Sys2Proof/Machine/Queues.lean ====
section
/-! DEFINITION. Deques, scratch queues and NEXT (spec 14 R337, R338, R355 to R357, 13 R318). -/

namespace Sys2Proof.Machine

/-- A core's deque (R337). -/
def Deque.empty : Deque := ⟨0, []⟩
def State.deque (s : State) (core : Nat) : Deque := storeGet Deque.empty s.deques core
def State.setDeque (s : State) (core : Nat) (q : Deque) : State :=
  { s with deques := storeSet Deque.empty s.deques core (if q.items = [] then Deque.empty else q) }

/-- Whether a deque takes an item of a context: the code of DQPUSH (R356). -/
def Deque.pushCode (q : Deque) (ctx : Nat) : Nat :=
  if q.items ≠ [] ∧ q.ctx ≠ ctx then 3 else if 256 ≤ q.items.length then 2 else 0
def Deque.push (q : Deque) (ctx : Nat) (x : List Word) : Deque := ⟨ctx, q.items ++ [x]⟩

/-- The newest item, the oldest item, for a context (R356). -/
def Deque.pop (q : Deque) (ctx : Nat) : Option (List Word × Deque) :=
  if q.ctx = ctx then
    match q.items.getLast? with
    | some x => some (x, { q with items := q.items.dropLast })
    | none => none
  else none
def Deque.steal (q : Deque) (ctx : Nat) : Option (List Word × Deque) :=
  if q.ctx = ctx then
    match q.items with
    | x :: r => some (x, { q with items := r })
    | [] => none
  else none

/-- `n` scalar registers from `r` up, and their update. -/
def Warp.sregsAt (w : Warp) (r n : Nat) : List Word := (List.range n).map fun i => w.sreg (r + i)
def Warp.setSregs (w : Warp) (r : Nat) (ws : List Word) : Warp := { w with sregs := putRegs w.sregs r ws }

/-- A WQ instruction whose codes and results are written as it issues (R351): WQ rises and falls. -/
def Thread.wqDone (t : Thread) (k : Thread → Thread) : Res :=
  if t.ctrFull .wq then .again t
  else
    let (s, uid) := t.s.newUid
    .next (k (({ t with s := s } : Thread).ctrPulse .wq uid))

/-- NEXT (R355). -/
def execNextIter (f : WqF) (s : State) : Host.Outcome State Fault Refusal :=
  issue (.nextIter f) [.ds f.sD.toNat 1 1] true (fun t => t.barrier (.nextIter f) (.next f.sD.toNat)) s

/-- DQPUSH (R337, R356). -/
def execDqpush (f : WqF) (s : State) : Host.Outcome State Fault Refusal :=
  issue (.dqpush f) [.s f.sB.toNat 16 16, .ds f.sD.toNat 1 1] true (fun t =>
    if t.w.exec &&& t.w.live = 0 then .next t
    else
      t.stallOn (t.storeWaits 4) fun t =>
        t.wqDone fun t =>
          let q := t.s.deque t.core
          let c := q.pushCode t.ctx.slot
          let w := t.w.setSreg f.sD.toNat (BitVec.ofNat 32 c)
          if c = 0 then { t with s := t.s.setDeque t.core (q.push t.ctx.slot (t.w.sregsAt f.sB.toNat 16)), w := w }
          else { t with w := w }) s

/-- Item `i` of a core's deque is read by an instruction (R100, R101): one that fails is lost and traps, with no address (log 38);
its sectors hold free values from then on (log 2). -/
def Thread.dqRead (t : Thread) (core i : Nat) (k : Thread → Res) : Res :=
  let q := t.s.deque core
  if t.ctrFull .wq then .again t
  else if q.ctx ≠ t.ctx.slot ∨ q.items.length ≤ i then k t
  else
    match t.s.sramRead (.deque core) i 0x0F true with
    | (s, 0) => k { t with s := s.badRemove (.deque core) i }
    | (s, m) =>
      let lost (x : List Word) : List Word := x.zipIdx.map fun e =>
        if m.getLsbD (e.2 / 4) then (wordsOf 1 (lostBytes s.tick (4 * i + e.2) 4)).headD 0 else e.1
      .trap { t with s := s.setDeque core { q with items := listModify lost q.items i } } 0x0D 0 0

/-- An item that was taken, or EMPTY (R356). -/
def Thread.dqTake (t : Thread) (f : WqF) (core : Nat) (r : Option (List Word × Deque)) : Thread :=
  match r with
  | some (x, q) => { t with s := t.s.setDeque core q, w := (t.w.setSregs f.sB.toNat x).setSreg f.sD.toNat 0 }
  | none => { t with w := t.w.setSreg f.sD.toNat 1 }

/-- DQPOP (R337, R356). -/
def execDqpop (f : WqF) (s : State) : Host.Outcome State Fault Refusal :=
  issue (.dqpop f) [.ds f.sB.toNat 16 16, .ds f.sD.toNat 1 1] true (fun t =>
    t.dqRead t.core ((t.s.deque t.core).items.length - 1) fun t =>
      t.wqDone fun t => t.dqTake f t.core ((t.s.deque t.core).pop t.ctx.slot)) s

/-- The victim of a DQSTEAL.any: a free value among the die's other cores (R356, log 2). -/
def Thread.anyVictim (t : Thread) : Nat :=
  let k := Config.freshPick t.s.freshCount % 95
  t.die * 96 + (if k < t.core % 96 then k else k + 1)

/-- DQSTEAL (R337, R356). -/
def execDqsteal (f : WqF) (s : State) : Host.Outcome State Fault Refusal :=
  issue (.dqsteal f) ([.ds f.sB.toNat 16 16, .ds f.sD.toNat 1 1] ++ (if f.imm.getLsbD 0 then [] else [.s f.sA.toNat 1 1]))
    true (fun t =>
    let v := (t.w.sreg f.sA.toNat).toNat
    if f.imm.getLsbD 0 then
      let core := t.anyVictim
      t.dqRead core 0 fun t => t.wqDone fun t =>
        let t := { t with s := { t.s with freshCount := t.s.freshCount + 1 } }
        t.dqTake f core ((t.s.deque core).steal t.ctx.slot)
    else if 96 ≤ v then .trap t 0x02 (word0 (.dqsteal f)) 0
    else
      let core := t.die * 96 + v
      t.dqRead core 0 fun t => t.wqDone fun t =>
        t.dqTake f core ((t.s.deque core).steal t.ctx.slot)) s

/-! Scratch queues -/

/-- A queue control word (R318) with the workgroup and offset where it lies. -/
structure QueueWord where
  wg : Nat
  off : Nat
  base : Nat
  depth : Nat
  esize : Nat
  head : Nat
  tail : Nat
  deriving DecidableEq, Repr

def queueWordOf (wg off x : Nat) : QueueWord where
  wg := wg
  off := off
  base := x % 2 ^ 32
  depth := bitsOf x 47 32
  esize := bitsOf x 50 48
  head := bitsOf x 95 64
  tail := bitsOf x 127 96

/-- Bytes of an element; where slot `i` lies. -/
def QueueWord.size (q : QueueWord) : Nat := 4 * 2 ^ q.esize
def QueueWord.slot (q : QueueWord) (i : Nat) : Nat := q.base + i % q.depth * q.size

/-- The elements held (R318). -/
def QueueWord.count (q : QueueWord) : Nat := (q.tail + 2 ^ 32 - q.head) % 2 ^ 32

/-- A workgroup's scratch, for a thread: its own workgroup is the thread's. -/
def Thread.scratchOf (t : Thread) (wg : Nat) : FMap Byte :=
  if wg = t.w.wg then t.g.scratch
  else match mapFind t.s.wgs wg with
    | some g => g.scratch
    | none => []
def Thread.setScratch (t : Thread) (wg : Nat) (m : FMap Byte) : Thread :=
  if wg = t.w.wg then { t with g := { t.g with scratch := m } }
  else { t with s := t.s.modWg wg fun g => { g with scratch := m } }

/-- One lane of a QPUSH or QPOP (R357): the lanes done so far are counted. -/
def Thread.qLane (t : Thread) (f : WqF) (push : Bool) (q : QueueWord) (l : Nat) : Thread × QueueWord × Bool :=
  let n := 2 ^ q.esize
  let m := t.scratchOf q.wg
  let code (t : Thread) (c : Nat) : Thread := t.setVregs l f.vb.toNat [BitVec.ofNat 32 c]
  if push then
    if q.count < q.depth then
      let t := t.setScratch q.wg (putScratch m (q.slot q.tail) (regBytes (t.vregs l f.va.toNat n) (4 * n)))
      (code t 0, { q with tail := (q.tail + 1) % 2 ^ 32 }, true)
    else (code t 2, q, false)
  else if q.tail ≠ q.head then
    let t := t.setVregs l f.va.toNat (wordsOf n (getScratch m (q.slot q.head) (4 * n)))
    (code t 0, { q with head := (q.head + 1) % 2 ^ 32 }, true)
  else (code t 1, q, false)

/-- The lanes in ascending order. -/
def Thread.qLanes (t : Thread) (f : WqF) (push : Bool) (q : QueueWord) : List Nat → Nat → Thread × QueueWord × Nat
  | [], n => (t, q, n)
  | l :: r, n =>
    let (t, q, b) := t.qLane f push q l
    t.qLanes f push q r (if b then n + 1 else n)

/-- QPUSH and QPOP (R338, R357). -/
def Thread.queueOp (t : Thread) (i : Instr) (f : WqF) (push : Bool) : Res :=
  -- helper lanes enqueue nothing (R367)
  let m := if push then t.w.exec &&& t.w.live else t.w.exec
  if m = 0 then .next t
  else
    let space := if f.imm.getLsbD 0 then 2 else 1
    let ea := (t.w.sreg f.sA.toNat).setWidth 64
    match t.spaceCheck space 16 16 ea with
    | some c => .trap t c ea 0
    | none =>
      match t.scratchPlace space ea with
      | .pa _ => .next t
      | .scratch wg o =>
        let gone := match mapFind t.s.wgs wg with
          | some g => decide (g.phase = .saved)
          | none => false
        if gone || t.accPending (.scratch wg o) 16 then .again t
        else
          match t.scratchSound 16 [.scratch wg o] with
          | .error r => r
          | .ok t =>
          let q := queueWordOf wg o (leNat (getScratch (t.scratchOf wg) o 16))
          let n := 2 ^ q.esize
          if 5 ≤ q.esize ∨ q.depth = 0 then .trap t 0x02 (word0 i) 0
          else if t.g.alloc < q.base + q.depth * q.size then .trap t 0x06 (BitVec.ofNat 64 q.base) 0
          else if f.va.toNat % n ≠ 0 ∨ t.g.k < f.va.toNat + n then .trap t 0x02 (word0 i) 0
          else
            let go (t : Thread) : Res :=
              t.wqDone fun t =>
                let (t, q', k) := t.qLanes f push q (lanesOf t.w.width m) 0
                let m' := putScratch (t.scratchOf wg) (o + 8) (leBytes 4 q'.head ++ leBytes 4 q'.tail)
                let t := t.setScratch wg m'
                { t with w := t.w.setSreg f.sD.toNat (BitVec.ofNat 32 k) }
            if push then t.stallOn (t.storeWaits 2) go
            else if t.accPending (.scratch wg q.base) (q.depth * q.size) then .again t
            else
              let taken := min q.count (lanesOf t.w.width m).length
              match t.scratchSound q.size ((List.range taken).map fun i => .scratch wg (q.slot (q.head + i))) with
              | .error r => r
              | .ok t => go t

/-- QPUSH (R338, R357). -/
def execQpush (f : WqF) (s : State) : Host.Outcome State Fault Refusal :=
  issue (.qpush f) [.v f.va.toNat 1 1, .dv f.vb.toNat 1 1, .s f.sA.toNat 1 1, .ds f.sD.toNat 1 1] true
    (fun t => t.queueOp (.qpush f) f true) s

/-- QPOP (R338, R357). -/
def execQpop (f : WqF) (s : State) : Host.Outcome State Fault Refusal :=
  issue (.qpop f) [.dv f.va.toNat 1 1, .dv f.vb.toNat 1 1, .s f.sA.toNat 1 1, .ds f.sD.toNat 1 1] true
    (fun t => t.queueOp (.qpop f) f false) s

end Sys2Proof.Machine
end

