-- ==== Sys2Proof/Machine/Shape.lean ====
section
/-! DEFINITION. Changing a warp's width (spec 07 R158, R173 to R178, 10 R259 to R261): slots and rectangles of a core,
SPLIT and FUSE. -/

namespace Sys2Proof.Machine

/-! Slots and rectangles -/

/-- Whether a workgroup is on its core. -/
def Workgroup.resident (g : Workgroup) : Bool :=
  decide (g.phase = .placed) || decide (g.phase = .growing) || decide (g.phase = .draining)

/-- The warps on a core, with the number of their registers. -/
def State.warpsOn (s : State) (core : Nat) : List (Nat × Warp × Nat) :=
  s.warps.filterMap fun e =>
    match mapFind s.wgs e.2.wg with
    | some g => if g.core = core ∧ g.resident then some (e.1, e.2, g.k) else none
    | none => none

/-- The partition of a column of a pair (R158). -/
def partOf (pair col : Nat) : Nat := 2 * pair + col / 64

/-- The slots in use on a core, partition × 16 + slot. -/
def State.slotsUsed (s : State) (core : Nat) : List Nat := (s.warpsOn core).flatMap fun e => e.2.1.slots

/-- The free slots of a partition, lowest first. -/
def freeSlots (used : List Nat) (p : Nat) : List Nat :=
  ((List.range 16).map fun i => 16 * p + i).filter fun x => !used.contains x

/-- A rectangle (R158): pair, first column, width, first row, rows. -/
structure Rect where
  pair : Nat
  col : Nat
  width : Nat
  row : Nat
  rows : Nat
  deriving DecidableEq, Repr

/-- Whether two rectangles share a cell. -/
def Rect.meets (a b : Rect) : Bool :=
  a.pair == b.pair && decide (a.col < b.col + b.width) && decide (b.col < a.col + a.width) &&
    decide (a.row < b.row + b.rows) && decide (b.row < a.row + a.rows)

/-- A warp's rectangle. -/
def Warp.rect (w : Warp) (k : Nat) : Rect := ⟨w.pair, w.col, w.width, w.row0, k⟩

/-- A warp's sibling (R175). -/
def State.sibling (s : State) (id : Nat) (w : Warp) : Option (Nat × Warp) :=
  (s.warpsOf w.wg).find? fun e =>
    e.1 != id && !e.2.ended && e.2.width == w.width && e.2.famOff == w.famOff ^^^ w.width

/-- The lower of two siblings first. -/
def lowerFirst (a b : Nat × Warp) : (Nat × Warp) × (Nat × Warp) := if a.2.famOff < b.2.famOff then (a, b) else (b, a)

/-- Whether two siblings' rectangles are adjacent (R176). -/
def adjacent (lo up : Warp) : Bool :=
  lo.col % (2 * lo.width) == 0 && up.col == lo.col + lo.width && up.pair == lo.pair && up.row0 == lo.row0

/-- Where the upper sibling's rectangle moves under `.m` (R176). -/
def Warp.moveTo (lo : Warp) (k : Nat) : Rect := ⟨lo.pair, lo.col + lo.width, lo.width, lo.row0, k⟩

/-- The rectangles in use on a core; the place to which a rendezvous is to move a rectangle counts (R260). -/
def State.rects (s : State) (core : Nat) : List Rect :=
  (s.warpsOn core).flatMap fun e =>
    e.2.1.rect e.2.2 ::
      (match e.2.1.fuse, s.sibling e.1 e.2.1 with
       | some a, some m =>
         match m.2.fuse with
         | some b =>
           let (lo, up) := lowerFirst (e.1, e.2.1) m
           if a.target = b.target ∧ !adjacent lo.2 up.2 ∧ (a.move ∨ b.move) then [lo.2.moveTo e.2.2] else []
         | none => []
       | _, _ => [])

/-! SPLIT -/

/-- Lanes `sh` up to `sh + n` of a mask as lanes 0 up (R174). -/
def maskCut (m : LaneMask) (sh n : Nat) : LaneMask := (m >>> sh) &&& laneAll n

/-- A park is forgotten when its requester is no longer where its record says, since its instruction has not been executed
(R53); one on an offline home goes on (R397), and one that has its answer keeps it. -/
def Park.saved (p : Park) : Option Park := if p.ftype = 6 ∨ p.answer.isSome then some p else none

/-- Child `i` of a split, before its entries are evaluated (R174, R78); `sd` already holds its code. Faults of parked paths
stay with child 0, which keeps the slot that their records name; the others translate again. -/
def Warp.child (w : Warp) (i n : Nat) (slots : List Nat) (warpid now : Nat) : Warp :=
  let sh := i * n
  let cut (p : Path) : Path :=
    { p with
      mask := maskCut p.mask sh n
      park := if i = 0 then p.park else p.park.bind Park.saved
      kind := match p.kind with
        | .join r => .join (maskCut r sh n)
        | k => k }
  { w with
    width := n
    famOff := w.famOff + sh
    warpid := warpid
    splitIdx := i
    col := w.col + sh
    slots := slots
    pc := w.pc + 8
    exec := maskCut w.exec sh n
    live := maskCut w.live sh n
    helper := maskCut w.helper sh n
    paths := (w.paths.map cut).filter fun p => decide (p.mask ≠ 0)
    held := if i = 0 then w.held else []
    offl := (w.offl.map fun o => { o with mask := maskCut o.mask sh n }).filter fun o => decide (o.mask ≠ 0)
    wake := 0
    notBefore := if i = 0 then 0 else now + 16 * i
    slice := now
    stall := none, fetched := [] }

/-- The slots of the children (R158, R173): the parent's first, then the lowest free; none when one is missing. -/
def childSlots (own used : List Nat) (pair col n : Nat) : Nat → Nat → Option (List (List Nat))
  | 0, _ => some []
  | k + 1, i =>
    let p := partOf pair (col + i * n)
    match (own.filter fun x => decide (x / 16 = p)) ++ freeSlots used p with
    | x :: _ =>
      (childSlots (own.filter (· != x)) (x :: used) pair col n k (i + 1)).map fun r => [x] :: r
    | [] => none

/-- The lowest warp number that is free in a workgroup (R161). -/
def freeWarpid (ids : List Nat) : Nat := ((List.range 33).find? fun i => !ids.contains i).getD 32

/-- Put the children with numbers from `i` up into the state. -/
def State.addChildren (s : State) (id : Nat) (w : Warp) (n now : Nat) : List (List Nat) → Nat → State
  | [], _ => s
  | sl :: r, i =>
    let c := w.child i n sl (if i = 0 then w.warpid else freeWarpid ((s.warpsOf w.wg).map fun e => e.2.warpid)) now
    let cid := if i = 0 then id else s.nextUid
    let accs := s.accs.map fun e => if e.2.owners.contains id then (e.1, { e.2 with owners := e.2.owners ++ [cid] }) else e
    let s : State := { s with
      nextUid := if i = 0 then s.nextUid else s.nextUid + 1
      warps := mapPut s.warps cid (({ c with age := if i = 0 then w.age else cid } : Warp).leave now)
      accs := if i = 0 then s.accs else accs }
    (s.addChildren id w n now r (i + 1)).divergence cid w.pc 0

/-- The limit on w at a width (R259): step 5 of R184. -/
def splitLimit (f : WqF) (width : Nat) : Bool :=
  let n := f.imm.toNat
  (n == 8 || n == 16 || n == 32 || n == 64) && decide (n < width)

/-- SPLIT (R173, R174, R259): the limit on w comes before handler mode, which is run-time state (R184). -/
def execSplitWarp (f : WqF) (s : State) : Host.Outcome State Fault Refusal :=
  issue (.splitWarp f) [.ds f.sD.toNat 1 1] (splitLimit f s.width) (fun t =>
    let n := f.imm.toNat
    let w := t.w
    if w.handler then .trap t 0x01 (word0 (.splitWarp f)) 0
    else
      let s := t.put
      let held := ((s.warpsOf w.wg).map fun e => e.2.slots.length).foldl (· + ·) 0
      let kids := w.width / n
      match childSlots w.slots (s.slotsUsed t.core) w.pair w.col n kids 0 with
      | none => .next { t with w := w.setSreg f.sD.toNat 1 }
      | some sl =>
        if 32 < held - w.slots.length + kids then .next { t with w := w.setSreg f.sD.toNat 1 }
        else
          let s := ({ t with s := s }.touch).put
          .state ((s.addChildren t.id (w.setSreg f.sD.toNat 0) n s.clock sl 0).settle w.wg)) s

/-- SPLIT_CHILD_READY (R174): 16 × i clocks after the SPLIT. -/
def execSplitChildReady (warp : Nat) (s : State) : Host.Outcome State Fault Refusal :=
  event true (fun s => s.modWarp warp fun w =>
    { w with notBefore := if w.notBefore ≤ s.clock then 0 else w.notBefore }) s

/-! FUSE -/

/-- A warp leaves FUSE with a code (R176). -/
def Warp.fuseCode (w : Warp) (code : Word) : Warp :=
  match w.fuse with
  | some f => { (w.setSreg f.sd code) with fuse := none, pc := w.pc + 8 }
  | none => w

/-- Whether a warp is convergent (R176). -/
def Warp.convergent (w : Warp) : Bool := w.paths.isEmpty && decide (w.exec = w.present)

/-- The slot that the fused warp holds in the second partition of its pair (R158, R177): the upper sibling's, or a free
one when the upper has moved. -/
def fuseSlot (used : List Nat) (lo up : Warp) : Option (List Nat) :=
  if lo.width = 64 then
    let p := partOf lo.pair 64
    match (up.slots.filter fun x => decide (x / 16 = p)) ++ freeSlots used p with
    | x :: _ => some (lo.slots ++ [x])
    | [] => none
  else some lo.slots

/-- The code of two siblings that have both reached FUSE (R176); none when every check passes. -/
def State.fuseCheck (s : State) (core k : Nat) (a b : Nat × Warp) (fa fb : FuseWait) : Option Word :=
  let (lo, up) := lowerFirst a b
  if fa.target ≠ fb.target then some 3
  else if adjacent lo.2 up.2 then none
  else if !(fa.move || fb.move) then some 2
  else if lo.2.col % (2 * lo.2.width) ≠ 0 then some 6
  else if (s.warpsOn core).any fun e => e.1 != up.1 && (e.2.1.rect e.2.2).meets (lo.2.moveTo k) then some 6
  else if (fuseSlot (s.slotsUsed core) lo.2 up.2).isNone then some 6
  else none

/-- FUSE (R175, R176, R260). DESIGN CHOICE (log 83): in handler mode R261's 0x01 comes before the 0x08 that R260 gives at
W = 128. -/
def execFuseWarp (f : WqF) (s : State) : Host.Outcome State Fault Refusal :=
  issue (.fuseWarp f) [.ds f.sD.toNat 1 1] true (fun t =>
    let w := t.w
    let sd := f.sD.toNat
    let target := w.pc + (f.vb ++ f.va).signExtend 64
    let mine : FuseWait := ⟨sd, target, f.imm.getLsbD 0⟩
    let mate := (t.s.sibling t.id w).bind fun m => m.2.fuse.map fun x => (m, x)
    let both (code : Word) : Res :=
      match mate with
      | some (m, _) => .next { t with s := t.s.modWarp m.1 fun w => w.fuseCode code, w := w.setSreg sd code }
      | none => .next { t with w := w.setSreg sd code }
    if w.handler then .trap t 0x01 (word0 (.fuseWarp f)) 0
    else if w.width = 128 then .trap t 0x08 (word0 (.fuseWarp f)) 0
    else if !w.convergent then both 5
    else if !t.s.siblingLive t.id w then .next { t with w := w.setSreg sd 1 }
    else
      match mate with
      | none =>
        if f.imm.getLsbD 1 then .next { t with w := w.setSreg sd 4 }
        else .left { t with w := { w with fuse := some mine } }
      | some (m, fm) =>
        match t.s.fuseCheck t.core t.g.k (t.id, w) m mine fm with
        | some code => both code
        | none => .left { t with w := { w with fuse := some mine } }) s

/-- The fused warp (R177). -/
def fusedWarp (lo up : Warp) (f : FuseWait) (slots : List Nat) (wake now : Nat) : Warp :=
  let join (a b : LaneMask) : LaneMask := a ||| (b <<< lo.width)
  { (lo.setSreg f.sd 0) with
    width := 2 * lo.width
    splitIdx := lo.splitIdx / 2
    slots := slots
    pc := f.target
    live := join lo.live up.live
    helper := join lo.helper up.helper
    exec := join lo.exec up.exec
    paths := []
    pend := []
    held := lo.held ++ up.held
    wake := 0
    notBefore := wake
    slice := now
    fuse := none
    stall := none, fetched := [] }

/-- The accesses of a warp are also another's (R128). -/
def takeOver (l : FMap Access) (old new : Nat) : FMap Access :=
  l.map fun e => if e.2.owners.contains old then (e.1, { e.2 with owners := e.2.owners ++ [new] }) else e

/-- FUSE_RENDEZVOUS (R177): both siblings wait in FUSE, every check passes, every counter is 0. -/
def execFuseRendezvous (warp : Nat) (s : State) : Host.Outcome State Fault Refusal :=
  event true (fun s =>
    match mapFind s.warps warp with
    | none => s
    | some w =>
      match w.fuse, s.sibling warp w, mapFind s.wgs w.wg with
      | some fw, some m, some g =>
        match m.2.fuse with
        | none => s
        | some fm =>
          if !w.pend.isEmpty ∨ !m.2.pend.isEmpty ∨ !w.offl.isEmpty ∨ !m.2.offl.isEmpty ∨ (s.fuseCheck g.core g.k (warp, w) m fw fm).isSome then s
          else
            let (lo, up) := lowerFirst (warp, w) m
            let f := if lo.1 = warp then fw else fm
            match fuseSlot (s.slotsUsed g.core) lo.2 up.2 with
            | none => s
            | some sl =>
              let wake := if adjacent lo.2 up.2 then 0 else s.clock + g.k * lo.2.width / 64
              let s := { s with
                warps := mapPut (mapDel s.warps up.1) lo.1 (fusedWarp lo.2 up.2 f sl wake s.clock)
                accs := takeOver s.accs up.1 lo.1 }
              s.settle w.wg
      | _, _, _ => s) s

end Sys2Proof.Machine
end

