-- ==== Sys2Proof/Machine/Walks.lean ====
section
/-! DEFINITION. Contexts, walks and shootdowns (spec 02 R36, R41 to R44, R48, R49, R55, R56), the coherence messages as
events (04 R88 to R99), and translation for the units that are no core. -/

namespace Sys2Proof.Machine

/-! Contexts -/

/-- A descriptor of the context table (R36); none when it is invalid. -/
def ctxOfBytes (slot x : Nat) : Option Ctx :=
  let w (i : Nat) : Nat := x / 2 ^ (64 * i) % 2 ^ 64
  let mode := bitsOf (w 0) 63 60
  if (mode = 9 ∨ mode = 10) ∧ bitsOf (w 1) 55 52 ≤ 10 ∧ bitsOf (w 1) 51 48 = 0 ∧ bitsOf (w 1) 11 0 = 0 ∧
      w 2 % 4096 = 0 ∧ w 3 / 4 = 0 ∧ bitOf (w 3) 0 ∧ x / 2 ^ 256 = 0 then
    some { slot := slot, sv57 := mode == 10, asid := bitsOf (w 0) 59 44, root := bitsOf (w 0) 43 0
           fqvec := bitsOf (w 1) 63 56, fqsize := bitsOf (w 1) 55 52, fqbase := bitsOf (w 1) 47 12
           regtab := BitVec.ofNat 64 (w 2), nofq := bitOf (w 3) 1 }
  else none

/-- Read a context's descriptor (R36). -/
def State.readCtx (s : State) (slot : Nat) : Option Ctx :=
  let pa := s.mgmtReg 0x10000 + 64 * slot
  if slot < 256 ∧ paOpen s.attic s.window pa then ctxOfBytes slot (s.viewNat pa 64) else none

/-- The context of a slot as the part knows it: as the last accepted launch in it read it, else as the table holds it. -/
def State.ctxFor (s : State) (slot : Nat) : Ctx :=
  match (s.launches.filter fun e => e.2.ctx.slot == slot).foldl (fun (b : Option Launch) e => match b with
      | some l => if l.order < e.2.order then some e.2 else b
      | none => some e.2) none with
  | some l => l.ctx
  | none => (s.readCtx slot).getD { Ctx.empty with slot := slot }

/-! Walks -/

/-- PAGE_WALK_COMPLETE (R38 to R44): the walk of the `k`-th miss of a die ends. -/
def execPageWalkComplete (die k : Nat) (s : State) : Host.Outcome State Fault Refusal :=
  event (decide (die < 9)) (fun s => s.walkEnd die k) s

/-! Fault queues -/

/-- FQHEAD_WRITE (R48, R49, R415): held records are written in order. -/
def execFqheadWrite (die slot : Nat) (v : Dword) (s : State) : Host.Outcome State Fault Refusal :=
  event (decide (die < 9) && decide (slot < 256)) (fun s =>
    let d := s.die die
    let s := s.setDie die (d.setFq slot { d.fq slot with head := v.toNat % 2 ^ 32 })
    State.flushHeld 512 s die (s.ctxFor slot)) s

/-- FAULT_QUEUE_MSI_REPEAT (R48): 10 µs after the last raise. -/
def execFaultQueueMsiRepeat (die slot : Nat) (s : State) : Host.Outcome State Fault Refusal :=
  event (decide (die < 9) && decide (slot < 256)) (fun s =>
    let q := (s.die die).fq slot
    let c := s.ctxFor slot
    match q.lastMsi with
    | some t =>
      if q.tail ≠ q.head % c.fqLen ∧ t + 10000 ≤ s.tick then
        (s.setDie die ((s.die die).setFq slot { q with lastMsi := some s.tick })).msi (.faultQueue slot) c.fqvec
      else s
    | none => s) s

/-! Shootdowns -/

/-- Whether a command removes a leaf (R55). -/
def InvCmd.removes (i : InvCmd) (c : Ctx) (e : TlbEntry) : Bool :=
  match i.kind with
  | 0 => true
  | 1 => !e.glob && e.asid == i.asid
  | 2 => e.covers i.asid (c.vpn i.va)
  | _ => e.vpn / 2 ^ e.span == c.vpn i.va / 2 ^ e.span

/-- Whether a command removes walk-cache entries of an address space (R55). -/
def InvCmd.walks (i : InvCmd) (asid : Nat) : Bool := i.kind == 0 || i.kind == 3 || i.asid == asid

/-- Virtual page numbers are compared at the width of Sv57; a mode that is narrower has the same low bits. -/
def wideCtx : Ctx := { Ctx.empty with sv57 := true }

/-- Every walk restarts, those too whose fault has not been taken yet (R56): what waits for one page waits in one entry. -/
def restartWalks (l : List Miss) : List Miss :=
  l.foldl (fun acc m =>
    match listIndex (fun x : Miss => x.pends m.ctx.asid m.vpn) acc with
    | some i => listModify (fun x => { x with waits := x.waits ++ m.waits.filter fun w => !x.waits.contains w }) acc i
    | none => acc ++ [{ m with res := none }]) []

/-- Remove what a command covers, on every die (R55, R56): the entries of Sv48 hold 36 bits of page number. -/
def State.shoot (s : State) (i : InvCmd) : State :=
  let hit (e : TlbEntry) : Bool := i.removes Ctx.empty e || i.removes wideCtx e
  { s with
    cores := (s.cores.map fun e => (e.1, { e.2 with utlb := e.2.utlb.filter fun x => !hit x })).filter fun e =>
      decide (e.2 ≠ Core.reset)
    dies := (s.dies.map fun e => (e.1, { e.2 with
      tlb := e.2.tlb.filter fun x => !hit x
      walkc := e.2.walkc.filter fun x => !i.walks x.asid
      miss := restartWalks e.2.miss })).filter fun e => decide (e.2 ≠ Die.reset) }

/-- An INVCMD store (R55, R399): by the die with the management role; a 17th command waits. DESIGN CHOICE (log 83): nonzero MBZ
bits of the value have no effect, and the command is carried out. -/
def State.invCmd (s : State) (die kind : Nat) (v : BitVec 62) : State :=
  if die ≠ s.mdl.mgmt ∨ 16 ≤ s.mdl.inv.length then s
  else
    let i : InvCmd := ⟨kind, bitsOf v.toNat 59 44, BitVec.ofNat 64 (s.reg die 0x10200), v.toNat % 2 ^ 32⟩
    ({ s with mdl := { s.mdl with inv := s.mdl.inv ++ [i] } } : State).shoot i

/-- INVCMD_ALL (R55). -/
def execInvcmdAll (die : Nat) (v : BitVec 62) (s : State) : Host.Outcome State Fault Refusal :=
  event (decide (die < 9)) (fun s => s.invCmd die 0 v) s

/-- INVCMD_ASID (R55). -/
def execInvcmdAsid (die : Nat) (v : BitVec 62) (s : State) : Host.Outcome State Fault Refusal :=
  event (decide (die < 9)) (fun s => s.invCmd die 1 v) s

/-- INVCMD_PAGE_ASID (R55). -/
def execInvcmdPageAsid (die : Nat) (v : BitVec 62) (s : State) : Host.Outcome State Fault Refusal :=
  event (decide (die < 9)) (fun s => s.invCmd die 2 v) s

/-- INVCMD_PAGE_ALL (R55). -/
def execInvcmdPageAll (die : Nat) (v : BitVec 62) (s : State) : Host.Outcome State Fault Refusal :=
  event (decide (die < 9)) (fun s => s.invCmd die 3 v) s

/-- Whether an access at an address may have been translated with an entry that a command removes (R56). Which leaf it used is not
kept: no leaf covers more than 2^27 pages (R38), so that one page's command takes in what lies as near. -/
def InvCmd.mayCover (i : InvCmd) (asid : Nat) (va : Dword) : Bool :=
  if i.kind = 0 then true
  else if i.kind = 1 then i.asid == asid
  else va.toNat % 2 ^ 48 / 2 ^ 39 == i.va.toNat % 2 ^ 48 / 2 ^ 39

/-- Whether a command has still to wait for an access, or for a fragment in a blend queue (R56, R368): a parked requester holds no
translation. -/
def State.shootWaits (s : State) (i : InvCmd) : Bool :=
  (s.accs.any fun e => !s.parkedAcc e.1 && e.2.parts.any fun p => match p.at_ with
    | .pa _ => !p.done && i.mayCover e.2.asid p.va
    | .scratch _ _ => false) ||
  s.units.any fun e => (e.2.blend0 ++ e.2.blend1).any fun b => i.kind != 1 || (s.launch b.launch).ctx.asid == i.asid

/-- Whether a command lets a changed context descriptor take effect (R36). DEDUCED (log 89): one that covers the context's whole
address space. -/
def InvCmd.renews (i : InvCmd) (c : Ctx) : Bool := i.kind == 0 || (i.kind == 1 && c.asid == i.asid)

/-- A context as it is known after a shootdown: read again, unless its descriptor is invalid now (log 89). -/
def State.renewed (s : State) (i : InvCmd) (c : Ctx) : Ctx := if i.renews c then (s.readCtx c.slot).getD c else c

/-- What holds a copy of a context reads it again (R36). -/
def State.renewAll (s : State) (i : InvCmd) : State :=
  let f := s.renewed i
  let launches : FMap Launch := s.launches.map fun e => (e.1, { e.2 with ctx := f e.2.ctx })
  let graphs : FMap Graph := s.graphs.map fun e => (e.1, { e.2 with ctx := f e.2.ctx })
  let upds : FMap LatchUpd := s.upds.map fun e => (e.1, { e.2 with ctx := f e.2.ctx })
  let frame (u : DieUnit) : DieUnit := { u with frame := u.frame.map fun j => { j with ctx := f j.ctx } }
  let units : FMap DieUnit := s.units.map fun e => (e.1, frame e.2)
  let waits (d : Die) : Die := { d with miss := restartWalks (d.miss.map fun m => { m with ctx := f m.ctx }) }
  let dies : FMap Die := s.dies.map fun e => (e.1, waits e.2)
  let old := (s.launches.map fun e => e.2.ctx).eraseDups.filter fun c => decide (f c ≠ c)
  let s : State := { s with launches := launches, graphs := graphs, upds := upds, units := units, dies := dies }
  old.foldl (fun s c => s.spreadRegions (f c)) s

/-- SHOOTDOWN_COMPLETE (R56): the oldest command; the accesses that it may cover have been performed. -/
def execShootdownComplete (s : State) : Host.Outcome State Fault Refusal :=
  event true (fun s =>
    match s.mdl.inv with
    | [] => s
    | i :: r =>
      if s.shootWaits i then s
      else
        let s := (s.shoot i).renewAll i
        ({ s with mdl := { s.mdl with inv := r } } : State).setReg s.mdl.mgmt 0x10210 i.seq) s

/-! Coherence messages -/

/-- READSHARED (R90, R92). -/
def execReadshared (k : Nat) (s : State) : Host.Outcome State Fault Refusal :=
  event true (fun s => s.deliverAt .readShared k) s

/-- READOWN (R90, R92). -/
def execReadown (k : Nat) (s : State) : Host.Outcome State Fault Refusal :=
  event true (fun s => s.deliverAt .readOwn k) s

/-- UPGRADE (R90, R92). -/
def execUpgrade (k : Nat) (s : State) : Host.Outcome State Fault Refusal :=
  event true (fun s => s.deliverAt .upgrade k) s

/-- WRITEBACK (R94). -/
def execWriteback (k : Nat) (s : State) : Host.Outcome State Fault Refusal :=
  event true (fun s => s.deliverAt .writeBack k) s

/-- ATOMIC (R97). -/
def execAtomicMsg (k : Nat) (s : State) : Host.Outcome State Fault Refusal :=
  event true (fun s => s.deliverAt .atomic k) s

/-- READNC (R97). -/
def execReadnc (k : Nat) (s : State) : Host.Outcome State Fault Refusal :=
  event true (fun s => s.deliverAt .readNC k) s

/-- WRITENC (R97). -/
def execWritenc (k : Nat) (s : State) : Host.Outcome State Fault Refusal :=
  event true (fun s => s.deliverAt .writeNC k) s

/-- SNPSHARED (R93). -/
def execSnpshared (k : Nat) (s : State) : Host.Outcome State Fault Refusal :=
  event true (fun s => s.deliverAt .snpShared k) s

/-- SNPINV (R93). -/
def execSnpinv (k : Nat) (s : State) : Host.Outcome State Fault Refusal :=
  event true (fun s => s.deliverAt .snpInv k) s

/-- BACKINV (R87, R93). -/
def execBackinv (k : Nat) (s : State) : Host.Outcome State Fault Refusal :=
  event true (fun s => s.deliverAt .backInv k) s

/-- DATA (R91, R93). -/
def execDataMsg (k : Nat) (s : State) : Host.Outcome State Fault Refusal :=
  event true (fun s => s.deliverAt .data k) s

/-- DATAFWD (R91, R93). -/
def execDatafwd (k : Nat) (s : State) : Host.Outcome State Fault Refusal :=
  event true (fun s => s.deliverAt .dataFwd k) s

/-- ACK (R89). -/
def execAckMsg (k : Nat) (s : State) : Host.Outcome State Fault Refusal :=
  event true (fun s => s.deliverAt .ack k) s

/-- A requester learns that its home is offline (R54, R99): the request is gone, and the accesses that it served park. -/
def State.homeOfflineArrive (s : State) (m : CohMsg) : State :=
  let s := s.reqDel m.dst m.txn
  let mine (p : LaneAcc) : Bool := !p.done && (match p.at_ with | .pa a => a / 128 == m.line | .scratch _ _ => false)
  (s.accs.filter fun e => coreDie e.2.core == m.dst && e.2.parts.any mine).foldl (fun s e =>
    let a := { e.2 with parts := e.2.parts.map fun p => if mine p && p.txn == some m.txn then { p with txn := none } else p }
    let s : State := { s with accs := mapPut s.accs e.1 a }
    match listIndex (fun p => mine p && p.txn.isNone && s.partOffline a p && !s.mustWait e.1 a p) a.parts with
    | some i => s.partGo e.1 i
    | none => s) s

/-- HOMEOFFLINE (R99). -/
def execHomeoffline (k : Nat) (s : State) : Host.Outcome State Fault Refusal :=
  event true (fun s =>
    match s.net[k]? with
    | some m => if m.code = .homeOffline ∧ s.passes m = true then State.homeOfflineArrive { s with net := listRemove s.net k } m else s
    | none => s) s

end Sys2Proof.Machine
end

