-- ==== Sys2Proof/Machine/Launch.lean ====
section
/-! DEFINITION. Launches (spec 14 R329 to R334, 07 R149 to R157, 08 R206 to R208): records and images, their checks, room
on cores, completion latches, batches. -/

namespace Sys2Proof.Machine

/-! Level words -/

/-- Kind and extent of a level word (R149). -/
def levelOf (x : Nat) : Nat × Nat := (x % 4, x / 4 + 1)

/-- The used levels are a prefix, unused words are 0, kinds do not decrease (R150). -/
def levelsFormed : List Nat → Nat → Bool
  | [], _ => true
  | x :: r, k => if x % 4 = 0 then decide (x = 0) && r.all (· == 0) else decide (k ≤ x % 4) && levelsFormed r (x % 4)

/-- The used levels. -/
def levelsOf (ws : List Nat) : List (Nat × Nat) := (ws.filter fun x => decide (x % 4 ≠ 0)).map levelOf

/-- The loop checks of R150. -/
def loopsOk (ws imgKinds : List Nat) (cluster : Nat) : Bool :=
  let l := levelsOf ws
  levelsFormed ws 0 && (ws.map (· % 4)) == imgKinds &&
    [1, 2, 3].all (fun k => decide (levelProduct l k ≤ 2 ^ 32)) && levelProduct l 2 % cluster == 0

/-! Images -/

/-- An image's header (R207, R208) from its 128 bytes as a number; none when it is invalid. -/
def imageOf (base : Dword) (x : Nat) : Option Image :=
  let w (i n : Nat) : Nat := x / 2 ^ (8 * i) % 2 ^ (8 * n)
  let p := w 24 4
  let wcode := bitsOf p 11 9
  let width := 8 * 2 ^ wcode
  let n := bitsOf p 16 12 + 1
  let md := bitsOf p 8 4
  let code := w 32 8
  let entry := w 8 8
  let vec := w 16 8
  let inText (o : Nat) : Bool := o % 8 == 0 && decide (0x80 ≤ o) && decide (o < 0x80 + code)
  if w 0 4 = 0x314B565A ∧ w 4 2 = 1 ∧ w 6 2 = 0 ∧ w 56 8 = 0 ∧ w 88 40 = 0 ∧ wcode ≤ 4 ∧ md ≤ 24 ∧ n * width ≤ 2048 ∧
      (if width = 128 then 2 * n else n) ≤ 32 ∧ inText entry ∧ (vec = 0 ∨ inText vec) then
    some { base := base, entry := BitVec.ofNat 64 entry, trapvec := BitVec.ofNat 64 vec, scratch := w 28 4
           cluster := bitsOf p 31 29 + 1, sregs := 8 * (bitsOf p 28 24 + 1), vregs := 8 * (bitsOf p 23 17 + 1)
           nwarps := n, width := width, maxdepth := if md = 0 then 24 else md, prio := bitsOf p 3 1
           coopdie := bitOf p 0, codesize := BitVec.ofNat 64 code
           kinds := (List.range 6).map fun i => w (64 + 4 * i) 4 % 4 }
  else none

/-- What reading a header comes to (R208): a line of it is on its way; it is invalid; the image. -/
inductive ImgRes where
  | busy
  | bad
  | ok (i : Image)
  deriving DecidableEq, Repr

/-- The dispatcher reads a header in its context, as requester class 6 (R105, R208). -/
def State.readImage (s : State) (die : Nat) (c : Ctx) (va : Dword) : State × ImgRes :=
  if va.toNat % 4096 ≠ 0 then (s, .bad)
  else
    match s.partTranslate die c 3 va with
    | (s, .busy) => (s, .busy)
    | (s, .violation) | (s, .fault _ _ _) => (s, .bad)
    | (s, .ok pa) =>
      (s.homeTouch (some die) pa 6 false, match imageOf va (s.viewNat pa 128) with
        | some i => .ok i
        | none => .bad)

/-! Room on a core -/

/-- Granules of an image's allocation (R31, R59). -/
def Image.grans (i : Image) : Nat := (i.scratch + 4095) / 4096

/-- What is in use on a core: warp slots, rectangles, runs of granules (first and number). -/
structure CoreUse where
  slots : List Nat
  rects : List Rect
  grans : List (Nat × Nat)
  deriving DecidableEq, Repr

def CoreUse.empty : CoreUse := ⟨[], [], []⟩

/-- The runs of granules allocated on a core (R60). -/
def State.gransOn (s : State) (core : Nat) : List (Nat × Nat) :=
  (s.wgs.filter fun e => e.2.core == core && decide (e.2.phase ≠ .saved) && decide (0 < e.2.alloc)).map
    fun e => (e.2.gran, e.2.alloc / 4096)
def State.useOf (s : State) (core : Nat) : CoreUse := ⟨s.slotsUsed core, s.rects core, s.gransOn core⟩

/-- The base that R60 gives a run of `a` granules. -/
def CoreUse.run (u : CoreUse) (a : Nat) : Option Nat :=
  if a = 0 then some 0
  else (List.range (193 - a)).find? fun b => u.grans.all fun g => decide (g.1 + g.2 ≤ b) || decide (b + a ≤ g.1)

/-- The carve-out that R62 asks for. -/
def gransHi (l : List (Nat × Nat)) : Nat := l.foldl (fun m g => max m (g.1 + g.2)) 0
def carveOf (hi : Nat) : Nat := (hi + 15) / 16

/-- Where a warp goes: rectangle and slots. -/
structure Spot where
  pair : Nat
  col : Nat
  row : Nat
  slots : List Nat
  deriving DecidableEq, Repr

/-- The slots for a warp of width `w` at a column (R158): the lowest free. -/
def CoreUse.slotsAt (u : CoreUse) (pair col w : Nat) : Option (List Nat) :=
  if w = 128 then
    match (freeSlots u.slots (2 * pair)).head?, (freeSlots u.slots (2 * pair + 1)).head? with
    | some a, some b => some [a, b]
    | _, _ => none
  else (freeSlots u.slots (partOf pair col)).head?.map fun a => [a]

def CoreUse.add (u : CoreUse) (p : Spot) (w k : Nat) : CoreUse :=
  { u with slots := p.slots ++ u.slots, rects := ⟨p.pair, p.col, w, p.row, k⟩ :: u.rects }

/-- A free block for `m` warps of width `w` side by side, `k` rows (R158, R159): the lowest pair, then row, then column
(log 16). -/
def CoreUse.block (u : CoreUse) (w k m : Nat) : Option (List Spot) :=
  [0, 1].findSome? fun pair =>
    (List.range ((1024 - k) / 8 + 1)).findSome? fun r =>
      (List.range (128 / (w * m))).findSome? fun c =>
        let col := c * (w * m)
        if u.rects.any fun x => x.meets ⟨pair, col, w * m, 8 * r, k⟩ then none
        else
          match u.slotsAt pair col w with
          | none => none
          | some a =>
            let p : Spot := ⟨pair, col, 8 * r, a⟩
            if m = 1 then some [p]
            else
              match (u.add p w k).slotsAt pair (col + w) w with
              | some b => some [p, ⟨pair, col + w, 8 * r, b⟩]
              | none => none

/-- Places for `n` warps (R159): adjacent by twos where a block is free. -/
def placeWarps (w k : Nat) : Nat → CoreUse → Option (List Spot × CoreUse)
  | 0, u => some ([], u)
  | 1, u =>
    match u.block w k 1 with
    | some [a] => some ([a], u.add a w k)
    | _ => none
  | n + 2, u =>
    match (if w ≤ 64 then u.block w k 2 else none) with
    | some [a, b] => (placeWarps w k n ((u.add a w k).add b w k)).map fun r => (a :: b :: r.1, r.2)
    | _ =>
      match u.block w k 1 with
      | some [a] =>
        match (u.add a w k).block w k 1 with
        | some [b] => (placeWarps w k n ((u.add a w k).add b w k)).map fun r => (a :: b :: r.1, r.2)
        | _ => none
      | _ => none

/-- Where a workgroup goes on a core: its first granule, the places of its warps. -/
structure Fit where
  core : Nat
  gran : Nat
  spots : List Spot
  deriving DecidableEq, Repr

/-- Whether a core can take a workgroup (R62, R154), and what is in use after. -/
def Image.fit (i : Image) (core : Nat) (u : CoreUse) : Option (Fit × CoreUse) :=
  match u.run i.grans with
  | none => none
  | some b =>
    (placeWarps i.width i.vregs i.nwarps u).map fun r =>
      (⟨core, b, r.1⟩, { r.2 with grans := if i.grans = 0 then r.2.grans else (b, i.grans) :: r.2.grans })

/-- What is in use on the cores of a trial, where it differs from the state. -/
abbrev Trial := FMap CoreUse
def State.use (s : State) (t : Trial) (core : Nat) : CoreUse :=
  match mapFind t core with
  | some u => u
  | none => s.useOf core

/-- The cores of a list that can take a workgroup, fewest occupied slots first, lowest number on a tie (R335): the first
`n` of them. -/
def State.fits (s : State) (t : Trial) (i : Image) (cores : List Nat) (n : Nat) : List (Fit × CoreUse) :=
  let us := cores.map fun c => (c, s.use t c)
  ((List.range 65).flatMap fun k => (us.filter fun e => e.2.slots.length == k).filterMap fun e => i.fit e.1 e.2).take n

/-- Cores for one workgroup, or for the members of one cluster in order (R155, R335). -/
def State.chooseCores (s : State) (t : Trial) (die : Nat) (i : Image) : Option (List (Fit × CoreUse)) :=
  let groups := if i.cluster = 1 then [(List.range 96).map fun c => die * 96 + c]
    else (List.range 12).map fun h => (List.range 8).map fun c => die * 96 + 8 * h + c
  groups.findSome? fun g =>
    let l := s.fits t i g i.cluster
    if l.length = i.cluster then some l else none
def addTrial (t : Trial) (l : List (Fit × CoreUse)) : Trial := l.foldl (fun t e => mapPut t e.1.core e.2) t

/-- How many workgroups of an image an empty core takes (R154). -/
def Image.capacity (i : Image) : Nat → CoreUse → Nat
  | 0, _ => 0
  | n + 1, u =>
    match i.fit 0 u with
    | some (_, u) => i.capacity n u + 1
    | none => 0

/-- A batch's size (R152). -/
def batchSize (c : Nat) : Nat := 64 / c * c

/-- How many workgroups the dies of a set take in turn, batch by batch. -/
def coopLeft (room batch : Nat) : Nat → Nat → Nat → Nat
  | 0, left, _ => left
  | n + 1, left, got =>
    let b := min batch left
    if b = 0 ∨ room < got + b then left else coopLeft room batch n (left - b) (got + b)

/-- Whether a launch fits on empty dies as a whole (R157). -/
def Image.fitsCoop (i : Image) (cap k nd nc : Nat) (dLevels : Bool) : Bool :=
  let room := 12 * (8 * cap / i.cluster * i.cluster)
  if dLevels then (List.range (min k nd)).all fun j => decide ((nd - j + k - 1) / k * nc ≤ room)
  else (List.range k).foldl (fun left _ => coopLeft room (batchSize i.cluster) (room + 1) left 0) nc == 0

/-! Completion latches -/

/-- Count a completion latch that is skipped (R332, R415). -/
def State.latchSkip (s : State) (u : LatchUpd) : State :=
  match u.of_ with
  | .launch => s.count u.die 0x10400 true
  | .graph => s.count u.die 0x10418 false
  | .frame => s.count u.die 0x70040 true

/-- Park a unit that is no core on a fault (R45, R47, R49): the park, or none when the fault is rejected at once (R50),
or nothing yet when there is no room for its record. -/
inductive PartPark where
  | rejected
  | full
  | parked (s : State) (p : Park)
  deriving DecidableEq, Repr
def State.partPark (s : State) (unit die : Nat) (c : Ctx) (seq access ftype level home : Nat) (va : Dword) : PartPark :=
  let f (i : Nat) : Nat := (Config.partRecord unit i).toNat
  let side := if unit = 2 then 1 else f 2 % 16
  let p : Park := { ctx := c.slot, asid := c.asid, seq := (seq + 1) % 256, va := va, access := access, ftype := ftype
                    level := level, tick := s.tick, home := home, answer := none, side := side }
  if c.nofq ∧ ftype ≠ 6 then .rejected
  else if 512 ≤ (s.die die).fheld.length then .full
  else
    let r : FaultRec := { slot := c.slot, tick := s.tick, asid := c.asid, core := f 0 % 1024, unit := f 1 % 64, seq := p.seq
                          side := side, access := access, ftype := ftype, level := level
                          place := Config.partRecord unit 3, va := va }
    .parked (if c.nofq then s else s.putRecord die c r) p

/-- Try the update `uid` of a completion latch (R332). -/
def State.latchTry (s : State) (uid : Nat) (u : LatchUpd) : State :=
  let gone (s : State) : State := { s with upds := mapDel s.upds uid }
  let keep (s : State) (u : LatchUpd) : State := { s with upds := mapPut s.upds uid u }
  match s.partTranslate u.die u.ctx 2 u.va with
  | (s, .busy) => keep s u
  | (s, .violation) => gone (s.latchSkip u)
  | (_, .fault ft lv h) =>
    match s.partPark 0 u.die u.ctx u.seq 2 ft lv h u.va with
    | .rejected => gone (s.latchSkip u)
    | .full => keep s u
    | .parked s p => keep s { u with seq := p.seq, park := some p }
  | (s, .ok pa) =>
    let s := s.homeTouch (some u.die) pa 6 true
    if s.viewNat (pa + 8) 8 ≠ 0 then gone (s.latchSkip u) else gone (s.latchUpdate pa u.value true u.die)

/-- Update a completion latch (R332); no latch for address 0. -/
def State.latchRelease (s : State) (die : Nat) (c : Ctx) (va : Dword) (value : Nat) (o : LatchOf) : State :=
  if va = 0 then s
  else
    let (s, uid) := s.newUid
    s.latchTry uid ⟨die, c, va, value, o, none, 0⟩

/-- A status word (R332). -/
def statusWord (code die cause : Nat) : Nat := 2 ^ 31 + code * 2 ^ 16 + die * 2 ^ 8 + cause

/-! Ends of launches -/

/-- A ring that has not been used (R345). -/
def SlotRing.empty : SlotRing := ⟨0, []⟩

/-- Send a control-class message (R333). -/
def State.tell (s : State) (src dst : Nat) (b : CtlBody) : State := { s with ctl := s.ctl ++ [⟨src, dst, b⟩] }

/-- Free a slot of a ring (R344). -/
def State.freeSlot (s : State) (die cls slot : Nat) : State :=
  let u := s.unit die
  let r := storeGet SlotRing.empty u.pantry.rings cls
  let rings := storeSet SlotRing.empty u.pantry.rings cls { r with used := r.used.filter (· != slot) }
  s.setUnit die { u with pantry := { u.pantry with rings := rings } }

/-- What follows the end of a launch, or its rejection, with its status word (R344, R348, R359). -/
def State.launchEnds (s : State) (die : Nat) (p : LaunchFor) (status : Nat) : State :=
  match p with
  | .plain => s
  | .slot d c n => s.freeSlot d c n
  | .node g n gen =>
    match mapFind s.graphs g with
    | some x => s.tell die x.home (.graphDone g n gen)
    | none => s
  | .frame d =>
    let u := s.unit d
    match u.frame with
    | some j => s.setUnit d { u with frame := some { j with stage := .ended status } }
    | none => s

/-! The check -/

/-- What asks for a launch: the record's fields (R329), whether the host submitted it, the cap on its priority, what
follows it, and for a frame job the number of lanes (R366). -/
structure LaunchReq where
  image : Dword
  param : Dword
  latch : Dword
  levels : List Nat
  mask : Nat
  flags : Nat
  depth : Nat
  mbz : Bool
  host : Bool
  cap : Nat
  purpose : LaunchFor
  lanes : Option Nat
  deriving DecidableEq, Repr

/-- A launch record (R329). -/
def reqOf (ws : List Word) (host : Bool) (cap : Nat) (p : LaunchFor) : LaunchReq :=
  let w (i : Nat) : Word := ws.getD i 0
  let x := (w 12).toNat
  { image := pairOf (w 0) (w 1), param := pairOf (w 2) (w 3), latch := pairOf (w 4) (w 5)
    levels := (List.range 6).map fun i => (w (6 + i)).toNat
    mask := x % 512, flags := bitsOf x 20 16, depth := x / 2 ^ 24
    mbz := bitsOf x 15 9 != 0 || bitsOf x 23 21 != 0 || [13, 14, 15].any fun i => w i != 0
    host := host, cap := cap, purpose := p, lanes := none }

/-- What the check of a record comes to (R331). -/
inductive Judge where
  | busy
  | reject (s : State) (c : Option Ctx) (code : Nat)
  | ok (s : State) (l : Launch)
  deriving DecidableEq, Repr

/-- The die-spans at the check (R152): with D levels each has its combinations, without them none yet. -/
def spansOf (dies : List Nat) (nd nc : Nat) (dLevels : Bool) : List Span :=
  let k := dies.length
  dies.zipIdx.map fun e =>
    { die := e.1, rank := e.2, asked := false, since := none, blocking := false
      dry := dLevels
      todo := if dLevels ∧ e.2 < nd then [⟨e.2, e.2, 0, nc, (nd - e.2 + k - 1) / k - 1, k⟩] else [] }

/-- The checks of R331 on die `die` in context slot `slot`. -/
def State.judge (s : State) (die slot : Nat) (r : LaunchReq) : Judge :=
  match s.readCtx slot with
  | none => .reject s none 2
  | some c =>
    match s.readImage die c r.image with
    | (_, .busy) => .busy
    | (s, .bad) => .reject s (some c) 1
    | (s, .ok i) =>
      let words := match r.lanes with
        | some n => (((n + i.nwarps * i.width - 1) / (i.nwarps * i.width) - 1) * 4 + 2) :: List.replicate 5 0
        | none => r.levels
      let l := levelsOf words
      let nd := levelProduct l 1
      let nc := levelProduct l 2
      let hasD := l.any fun e => e.1 == 1
      let named := if r.mask = 0 then [die] else (List.range 9).filter (bitOf r.mask)
      let dies := named.filter fun d => !s.isOffline d
      let coop := bitOf r.flags 3
      let cap := i.capacity 65 CoreUse.empty
      if r.mbz ∨ (r.host ∧ r.depth ≠ 0) ∨ r.latch.toNat % 16 ≠ 0 then .reject s (some c) 3
      else if !loopsOk words i.kinds i.cluster then .reject s (some c) 4
      else if 786432 < i.scratch ∨ cap = 0 ∨ (coop ∧ !i.fitsCoop cap named.length nd nc hasD) then .reject s (some c) 5
      else if i.coopdie ∧ !coop then .reject s (some c) 6
      else if dies = [] ∨ (coop ∧ dies ≠ named) then .reject s (some c) 8
      else
        .ok s { ctx := c, image := i, param := r.param, latch := r.latch, levels := l
                prio := min (min (r.flags % 8) i.prio) r.cap
                coop := coop, reissue := bitOf r.flags 4, depth := r.depth, recv := die, order := 0
                spans := spansOf dies nd nc hasD, nspans := dies.length, nextIdx := if hasD then nc else 0, again := []
                batches := [], leader := dies.headD die, mirror := dies[1]?, kill := none, lost := false
                suspended := false, purpose := r.purpose }

/-- Accept a launch that has passed: forward it to the dies of its set (R331, R333). -/
def State.acceptLaunch (s : State) (die : Nat) (l : Launch) : State × Nat :=
  let (s, uid) := s.newUid
  let s : State := { s with launches := mapPut s.launches uid { l with order := uid } }
  ({ s with ctl := s.ctl ++ (l.spans.filter fun x => x.die != die).map fun x => ⟨die, x.die, .launchFwd uid⟩ }, uid)

/-- A record is refused (R331, R332): its latch is updated at once; with no context it is skipped. -/
def State.rejectLaunch (s : State) (die : Nat) (c : Option Ctx) (r : LaunchReq) (code : Nat) : State :=
  let s := match c with
    | some c => s.latchRelease die c r.latch (statusWord code 0 0) .launch
    | none => if r.latch = 0 then s else s.count die 0x10400 true
  s.launchEnds die r.purpose (statusWord code 0 0)

/-! Batches (R152, R334) -/

/-- Whether a LaunchFwd of the launch is on its way to a die. -/
def State.fwdPending (s : State) (l die : Nat) : Bool :=
  s.ctl.any fun m => m.dst == die && m.body == .launchFwd l

/-- The next batch of a launch (R152, R334): first what a lost die left, then new indices; none when there is none. -/
def Launch.nextBatch (l : Launch) : Option (Nat × Nat × Launch) :=
  if l.lost then none
  else
    match l.again with
    | (a, b) :: r => some (a, b, { l with again := r })
    | [] =>
      let nc := levelProduct l.levels 2
      if nc ≤ l.nextIdx then none
      else
        let hi := min nc (l.nextIdx + batchSize l.image.cluster)
        some (l.nextIdx, hi, { l with nextIdx := hi })

/-- Change a die's span. -/
def Launch.modSpan (l : Launch) (die : Nat) (f : Span → Span) : Launch :=
  { l with spans := l.spans.map fun x => if x.die = die then f x else x }

/-- A span receives a batch, or learns that there is none. -/
def Span.grant (x : Span) (lo hi : Nat) : Span :=
  { x with asked := false, todo := x.todo ++ [⟨x.rank, 0, lo, hi, 0, 1⟩] }

/-- The leader hands out a batch to a die (R334): recorded, mirrored, then granted. -/
def State.grantBatch (s : State) (lid die : Nat) : State :=
  let l := s.launch lid
  match l.nextBatch with
  | none => s.setLaunch lid (l.modSpan die fun x => { x with asked := false, dry := true })
  | some (lo, hi, l) =>
    let b : Batch := ⟨die, lo, hi, hi - lo, l.mirror.isNone⟩
    let l := { l with batches := l.batches ++ [b] }
    match l.mirror with
    | some m =>
      (s.setLaunch lid l).tell l.leader m (.batchMirror lid lo hi die)
    | none =>
      if die = l.leader then s.setLaunch lid (l.modSpan die fun x => x.grant lo hi)
      else (s.setLaunch lid l).tell l.leader die (.batchGrant lid lo hi)

/-- A die-span asks for a batch (R334). -/
def State.askBatch (s : State) (lid die : Nat) : State :=
  let l := s.launch lid
  let s := s.setLaunch lid (l.modSpan die fun x => { x with asked := true })
  if die = l.leader then s.grantBatch lid die
  else s.tell die l.leader (.batchReq lid)

/-- LAUNCHFWD (R331, R333): the die may begin to place the launch. -/
def execLaunchfwd (k : Nat) (s : State) : Host.Outcome State Fault Refusal :=
  event true (fun s => s.takeCtl k fun m s => match m.body with
    | .launchFwd _ => some s
    | _ => none) s

/-- BATCHREQ (R334). -/
def execBatchreq (k : Nat) (s : State) : Host.Outcome State Fault Refusal :=
  event true (fun s => s.takeCtl k fun m s => match m.body with
    | .batchReq l => some (s.grantBatch l m.src)
    | _ => none) s

/-- BATCHGRANT (R334). -/
def execBatchgrant (k : Nat) (s : State) : Host.Outcome State Fault Refusal :=
  event true (fun s => s.takeCtl k fun m s => match m.body with
    | .batchGrant l lo hi => some (s.setLaunch l ((s.launch l).modSpan m.dst fun x => x.grant lo hi))
    | _ => none) s

/-- BATCHMIRROR (R334): the mirror records the grant; its acknowledgement lets the leader send it (log 17). -/
def execBatchmirror (k : Nat) (s : State) : Host.Outcome State Fault Refusal :=
  event true (fun s => s.takeCtl k fun m s => match m.body with
    | .batchMirror l lo hi die =>
      let x := s.launch l
      let x := { x with batches := x.batches.map fun b =>
        if b.lo = lo ∧ b.die = die then { b with acked := true } else b }
      some (if die = x.leader then s.setLaunch l (x.modSpan die fun y => y.grant lo hi)
        else (s.setLaunch l x).tell x.leader die (.batchGrant l lo hi))
    | _ => none) s

/-- BATCHDONE (R333, R334): leader and mirror learn that a batch has ended. -/
def execBatchdone (k : Nat) (s : State) : Host.Outcome State Fault Refusal :=
  event true (fun s => s.takeCtl k fun m s => match m.body with
    | .batchDone l lo _ die =>
      let x := s.launch l
      some (if (mapFind s.launches l).isSome then
          s.setLaunch l { x with batches := x.batches.filter fun b => !(b.lo == lo && b.die == die) }
        else s)
    | _ => none) s

/-! Submission -/

/-- Records of class 0 in a die's pool (R346). -/
def State.poolLen (s : State) (die : Nat) : Nat := ((s.unit die).pantry.recs.filter fun r => r.cls == 0).length

/-- Whether a die can open no more records of class 0 (R339, R342, R346): the class's quota, and the Pantry's records. -/
def State.poolFull (s : State) (die : Nat) : Bool :=
  decide (4096 ≤ s.poolLen die) || decide (32768 ≤ (s.unit die).pantry.recs.length)

/-- Take an arbiter operation's stamp (R342). -/
def Pantry.tick (p : Pantry) : Pantry × Nat := ({ p with stamp := p.stamp + 1 }, p.stamp)

/-- Enqueue a launch record into class 0 of a die (R330, R340, R346). -/
def State.enqueueLaunch (s : State) (die slot cap : Nat) (host : Bool) (p : LaunchFor) (ws : List Word) : State :=
  let u := s.unit die
  let (q, st) := u.pantry.tick
  let r : PantryRec := ⟨0, st, ws, 1, 16, s.tick, st, some st, slot, cap, host, p, false⟩
  s.setUnit die { u with pantry := { q with recs := q.recs ++ [r] } }

/-- Words of bytes. -/
def bytesWords (n : Nat) (bs : List Byte) : List Word := wordsOf n bs

/-- LAUNCH (R346, R354). -/
def execLaunchInstr (f : WqF) (s : State) : Host.Outcome State Fault Refusal :=
  issue (.launchInstr f) [.s f.sB.toNat 16 16, .ds f.sD.toNat 1 1] true (fun t =>
    let l := t.launch
    let depth := l.depth + 1
    let code (t : Thread) (c : Word) : Thread := { t with w := t.w.setSreg f.sD.toNat c }
    let q := f.imm.getLsbD 0
    let ws := t.w.sregsAt f.sB.toNat 16
    let ws := listModify (fun w => (BitVec.ofNat 8 depth) ++ w.extractLsb' 0 24) ws 12
    let waits := t.storeWaits 4 ++ ((t.s.jobs.filter fun e => e.2.wg == t.w.wg && !e.2.writes.isEmpty).map fun e => e.1)
    if min 24 l.image.maxdepth < depth then
      if q then t.wqDone fun t => code t 4 else .trap t 0x11 0 (BitVec.ofNat 32 depth)
    else
      t.stallOn waits fun t =>
        if t.s.poolFull t.die then
          if q then t.wqDone fun t => code t 1 else .again t
        else
          t.wqDone fun t =>
            code { t with s := t.s.enqueueLaunch t.die t.ctx.slot l.prio false .plain ws } 0) s

/-- LAUNCH_SUBMISSION (R330, R346, R411): a store to an enqueue port. One that is no aligned 64-byte store is ignored and
counted; one that finds the pool full waits. -/
def execLaunchSubmission (die off : Nat) (data : List Byte) (s : State) : Host.Outcome State Fault Refusal :=
  event (decide (die < 9) && decide (0x100000 ≤ off) && decide (off < 0x104000)) (fun s =>
    if s.isOffline die ∨ s.resting die ∨ s.mdl.stopped then s
    else if off % 64 ≠ 0 ∨ data.length ≠ 64 then s.count die 0x10400 false
    else if s.poolFull die then s
    else s.enqueueLaunch die ((off - 0x100000) / 64) 7 true .plain (bytesWords 16 data)) s

end Sys2Proof.Machine
end

