-- ==== Sys2Proof/Machine/Pantry.lean ====
section
/-! DEFINITION. The Pantry (spec 14 R339 to R345, R351 to R353): class descriptors, enqueues, lifts, dispatch. -/

namespace Sys2Proof.Machine

/-! Class descriptors -/

/-- A class descriptor (R340). -/
structure PDesc where
  v : Bool
  target : Nat
  op : Nat
  wide : Bool
  sealAge : Bool
  prio : Nat
  quota : Nat
  sealVal : Nat
  ctx : Nat
  slots : Nat
  core : Nat
  kernel : Dword
  slotVa : Dword
  slotPa : Nat
  levels : List Nat
  deriving DecidableEq, Repr

/-- A descriptor from its 8 words; V is 0 when a value is invalid, a MBZ bit is set or QUOTA is out of range (R340). -/
def pdescOf (w : Nat → Nat) : PDesc :=
  let a := w 0
  let b := w 1
  let bad := bitsOf a 62 61 = 3 ∨ 13 ≤ bitsOf a 60 57 ∨ bitsOf a 51 48 ≠ 0 ∨ bitsOf a 47 32 = 0 ∨ 32768 < bitsOf a 47 32 ∨
    bitsOf b 55 20 ≠ 0 ∨ bitsOf b 15 7 ≠ 0 ∨ (bitsOf a 62 61 = 1 ∧ 95 < b % 128) ∨ w 4 % 4096 ≠ 0 ∨ w 3 % 4096 ≠ 0
  { v := bitOf a 63 && !decide bad, target := bitsOf a 62 61, op := bitsOf a 60 57, wide := bitOf a 56, sealAge := bitOf a 55
    prio := bitsOf a 54 52, quota := bitsOf a 47 32, sealVal := a % 2 ^ 32, ctx := bitsOf b 63 56, slots := bitsOf b 19 16
    core := b % 128, kernel := BitVec.ofNat 64 (w 2), slotVa := BitVec.ofNat 64 (w 3), slotPa := w 4
    levels := (List.range 6).map fun i => w (5 + i / 2) / 2 ^ (32 * (i % 2)) % 2 ^ 32 }
def Pantry.word (p : Pantry) (c k : Nat) : Nat := (storeGet 0 p.desc (c * 8 + k)).toNat
def Pantry.cls (p : Pantry) (c : Nat) : PDesc := pdescOf (p.word c)

/-- The bits of a descriptor's word that are not MBZ (R8, R340). -/
def descBits (k : Nat) : Nat :=
  let ones : Nat := 2 ^ 64 - 1
  if k = 0 then ones - 0xF * 2 ^ 48 else if k = 1 then ones - (2 ^ 56 - 2 ^ 20) - (2 ^ 16 - 2 ^ 7) else ones

/-- What a word of a descriptor reads as (R8, R340): V is 0 when what was written is invalid, and MBZ bits read as 0. -/
def Pantry.readWord (p : Pantry) (c k : Nat) : Nat :=
  if c = 0 then (if k = 0 then 0x9200100000000001 else 0)
  else
    let x := p.word c k &&& descBits k
    if k = 0 ∧ !(p.cls c).v then x % 2 ^ 63 else x

/-- Whether an enqueue may name a class (R341), and a PLIFT. -/
def Pantry.usable (p : Pantry) (c ctx : Nat) : Bool := decide (1 ≤ c) && decide (c ≤ 63) && (p.cls c).v && (p.cls c).ctx == ctx

/-- The hash of a key (R341), and the home of a key of a device-wide class by a die's STEER. -/
def keyHash (k : Nat) : Nat :=
  (List.range 7).foldl (fun h i => h ^^^ (k / 2 ^ (9 * i) % 512)) (k / 2 ^ 63 * 256)
def State.steer (s : State) (die h : Nat) : Nat := s.reg die (0x10800 + 8 * (h / 16)) / 2 ^ (4 * (h % 16)) % 16
def State.keyHome (s : State) (die key : Nat) : Nat := s.steer die (keyHash key)

/-! Folding -/

/-- The fold of one field (R343). -/
def foldOp (op : Nat) (a b : Word) : Word :=
  match op with
  | 0 => a + b
  | 1 => BitVec.ofNat 32 (fadd fmtF32 ⟨.rne, false, false, false, 0⟩ a.toNat b.toNat).1
  | 2 => if b.toInt < a.toInt then b else a
  | 3 => if a.toInt < b.toInt then b else a
  | 4 => if b.toNat < a.toNat then b else a
  | 5 => if a.toNat < b.toNat then b else a
  | 6 => a &&& b
  | 7 => a ||| b
  | 8 => a ^^^ b
  | 9 => a
  | _ => b

/-- The identity of an operator (R343). -/
def foldIdent (op : Nat) : Word :=
  match op with
  | 1 => 0x80000000#32
  | 2 => 0x7FFFFFFF#32
  | 3 => 0x80000000#32
  | 4 => 0xFFFFFFFF#32
  | 6 => 0xFFFFFFFF#32
  | _ => 0

/-- The lane values of a group combined in lane order (R343). -/
def combine (op : Nat) : List Word → Word
  | [] => 0
  | x :: r => r.foldl (foldOp op) x

/-- A group folded into a record's fields (R342, R343). -/
def foldFields (op : Nat) (new wide : Bool) (f : Nat) (vals : List (List Word)) (fs : List Word) : List Word :=
  let col (i : Nat) : List Word := vals.map fun v => v.getD i 0
  let put (c old : Word) : Word := if op = 9 then (if new then c else old) else foldOp op old c
  if op = 12 then
    let n := BitVec.ofNat 32 vals.length
    fs.zipIdx.map fun x =>
      if x.2 = 0 then x.1 + n else if wide ∧ new then (vals.headD []).getD x.2 0 else x.1
  else if wide then fs.zipIdx.map fun x => put (combine op (col x.2)) x.1
  else listModify (put (combine op (col 0))) fs f

/-! The arbiter -/

/-- Records of a class; how many more may open (R340, R342). -/
def Pantry.held (p : Pantry) (c : Nat) : Nat := (p.recs.filter fun r => r.cls == c).length
def Pantry.room (p : Pantry) (c : Nat) : Bool :=
  decide (p.held c < (p.cls c).quota) && decide (p.recs.length < 32768)

/-- The open record of a key. -/
def Pantry.openAt (p : Pantry) (c key : Nat) : Option Nat :=
  listIndex (fun r : PantryRec => r.cls == c && r.key == key && r.sealNo.isNone) p.recs

/-- A new record (R339, R343). -/
def Pantry.fresh (p : Pantry) (c key tick stamp : Nat) : PantryRec :=
  { cls := c, key := key, fields := List.replicate 16 (foldIdent (p.cls c).op), folds := 0, nfield := 0, opentick := tick
    stamp := stamp, sealNo := none, ctx := (p.cls c).ctx, prio := 0, host := false, purpose := .plain, counted := false }

/-- Seal a record if its class's policy asks for it (R340, R342). -/
def Pantry.policy (p : Pantry) (i stamp : Nat) : Pantry :=
  { p with recs := listModify (fun r : PantryRec =>
      let d := p.cls r.cls
      if r.sealNo.isNone && !d.sealAge && d.sealVal != 0 && decide (d.sealVal ≤ r.folds) then { r with sealNo := some stamp }
      else r) p.recs i }

/-- The tick at which an open record's class seals it by age (R340), if it does. -/
def Pantry.deadline (p : Pantry) (r : PantryRec) : Option Nat :=
  let d := p.cls r.cls
  if r.cls ≠ 0 ∧ r.sealNo.isNone ∧ d.sealAge ∧ d.sealVal ≠ 0 then some (r.opentick + d.sealVal) else none

/-- Seal the record at a position by age: an operation of the arbiter. -/
def Pantry.sealAt (p : Pantry) (i : Nat) : Pantry :=
  let (q, st) := p.tick
  { q with recs := listModify (fun r => { r with sealNo := some st }) q.recs i }

/-- The record whose age is due at a tick, the earliest first. -/
def Pantry.nextDue (p : Pantry) (tick : Nat) : Option Nat :=
  (p.recs.zipIdx.foldl (fun (b : Option (Nat × Nat)) x =>
    match p.deadline x.1, b with
    | some t, none => if t ≤ tick then some (t, x.2) else none
    | some t, some y => if t < y.1 then some (t, x.2) else b
    | none, _ => b) none).map fun y => y.2

/-- Seal every record whose age is due (R340): what comes later no longer folds into it. -/
def Pantry.sealDue (tick : Nat) : Nat → Pantry → Pantry
  | 0, p => p
  | fuel + 1, p =>
    match p.nextDue tick with
    | some i => Pantry.sealDue tick fuel (p.sealAt i)
    | none => p

/-- Append values one by one (R342, R343): the codes; values that find no record stay over. `last` is the stamp of the
record that this operation has written last, for FOLDS of the wide form. -/
def Pantry.append (c key tick stamp : Nat) (wide nb : Bool) :
    Pantry → List Word → Nat → Option Nat → List Nat → Pantry × List Nat × Nat
  | p, [], i, _, codes => (p.policy ((p.openAt c key).getD p.recs.length) stamp, codes, i)
  | p, x :: r, i, last, codes =>
    let put (p : Pantry) (k : Nat) (y : PantryRec) : Pantry :=
      let first := !(wide && last == some y.stamp)
      let y := { y with fields := listModify (fun _ => x) y.fields y.nfield, nfield := y.nfield + 1
                        folds := if first then y.folds + 1 else y.folds }
      let y := if y.nfield = 16 then { y with sealNo := some stamp } else y
      { p with recs := listModify (fun _ => y) p.recs k }
    match p.openAt c key with
    | some k =>
      match p.recs[k]? with
      | some y => Pantry.append c key tick stamp wide nb (put p k y) r (i + 1) (some y.stamp) (codes ++ [1])
      | none => (p, codes, i)
    | none =>
      if p.room c then
        let y := p.fresh c key tick (stamp * 64 + i)
        let p := { p with recs := p.recs ++ [y] }
        Pantry.append c key tick stamp wide nb (put p (p.recs.length - 1) y) r (i + 1) (some y.stamp)
          (codes ++ [if i = 0 then 0 else 2])
      else if nb then (p, codes ++ List.replicate (r.length + 1) 3, i + r.length + 1)
      else (p, codes, i)

/-- The values of a group that an APPEND takes one by one. -/
def EnqGroup.values (g : EnqGroup) (wide : Bool) : List Word :=
  if wide then (g.lanes.headD (0, [])).2 else g.lanes.map fun l => l.2.headD 0

/-- How many codes a group has in the end. -/
def EnqGroup.want (g : EnqGroup) (wide append : Bool) : Nat := if wide && append then 16 else g.lanes.length

/-- The arbiter takes a group as far as it goes (R342): the Pantry and the codes after. -/
def Pantry.take (p : Pantry) (c f : Nat) (wide nb : Bool) (tick : Nat) (g : EnqGroup) : Pantry × EnqGroup :=
  let p := p.sealDue tick p.recs.length
  let d := p.cls c
  let put (cs : List Nat) : EnqGroup := { g with codes := cs.zipIdx.map fun x => (x.2, x.1) }
  if d.op = 11 then
    let n := g.codes.length
    let (q, st) := p.tick
    let (q, cs, _) := q.append c g.key tick st wide nb ((g.values wide).drop n) n none (g.codes.map fun x => x.2)
    if cs.length = n then (p, g) else (q, put cs)
  else
    let vals := g.lanes.map fun l => l.2
    match p.openAt c g.key with
    | some k =>
      let (p, st) := p.tick
      let p := { p with recs := listModify (fun r : PantryRec =>
        { r with fields := foldFields d.op false wide f vals r.fields, folds := r.folds + vals.length }) p.recs k }
      (p.policy k st, put (vals.map fun _ => 1))
    | none =>
      if p.room c then
        let (p, st) := p.tick
        let r := p.fresh c g.key tick (st * 64)
        let r := { r with fields := foldFields d.op true wide f vals r.fields, folds := vals.length }
        (({ p with recs := p.recs ++ [r] } : Pantry).policy p.recs.length st, put (vals.zipIdx.map fun x => if x.2 = 0 then 0 else 1))
      else if nb then (p, put (vals.map fun _ => 3))
      else (p, g)

/-- Whether a group has all its codes. -/
def EnqGroup.over (g : EnqGroup) (wide append : Bool) : Bool := decide (g.want wide append ≤ g.codes.length)

/-- The code of a wide enqueue (R343). -/
def wideCode (cs : List Nat) : Nat :=
  if cs.contains 3 then 3 else if cs.contains 2 then 2 else if cs.headD 1 = 0 then 0 else 1

/-- The position of the group that an enqueue's home is to take next: the first of that home that is not over. -/
def Enq.nextAt (e : Enq) (home : Nat) (append : Bool) : Option Nat :=
  listIndex (fun g : EnqGroup => g.home == home && !g.over e.wide append) e.groups

/-- The enqueue whose group a home can take next, oldest first (R342): none that must come after an older one of its
warp, none that still waits for a record. -/
def State.nextEnq (s : State) (home : Nat) : List (Nat × Enq) → List Nat → List Nat → Option (Nat × Enq × Nat)
  | [], _, _ => none
  | (uid, e) :: r, warps, tried =>
    let app := decide (((s.unit home).pantry.cls e.cls).op = 11)
    match e.nextAt home app with
    | none => s.nextEnq home r warps tried
    | some i =>
      let blocked := e.warp != 0 && warps.contains e.warp
      let warps := e.warp :: warps
      match e.groups[i]? with
      | some g => if blocked || !g.arrived || tried.contains uid then s.nextEnq home r warps tried else some (uid, e, i)
      | none => s.nextEnq home r warps tried

/-- Write an enqueue's codes and complete it (R351, R352). -/
def State.enqDone (s : State) (uid : Nat) (e : Enq) : State :=
  let s : State := { s with enqs := mapDel s.enqs uid }
  match e.dest with
  | .lanes reg =>
    let codes := e.groups.flatMap fun g => g.codes.filterMap fun c => (g.lanes[c.1]?).map fun l => (l.1, c.2)
    let s := s.modWg e.wg fun g => { g with vregs := codes.foldl (fun m c =>
      storeSet 0 m (c.1 * 1024 + reg) (BitVec.ofNat 32 c.2)) g.vregs }
    (s.pendComplete uid).settle e.wg
  | .scal reg =>
    let c := wideCode ((e.groups.flatMap fun g => g.codes).map fun x => x.2)
    let mine (w : Warp) : Bool := w.pend.any fun p => p.uid == uid
    let s : State := { s with
      warps := s.warps.map fun x => if mine x.2 then (x.1, x.2.setSreg reg (BitVec.ofNat 32 c)) else x }
    (s.pendComplete uid).settle e.wg
  | .node g n gen =>
    match mapFind s.graphs g with
    | some x => s.tell e.die x.home (.graphDone g n gen)
    | none => s

/-- What follows a step of an enqueue: a home that has taken all its groups answers, and the enqueue may be complete. -/
def State.enqCheck (s : State) (uid : Nat) (home : Nat) : State :=
  match mapFind s.enqs uid with
  | none => s
  | some e =>
    let app (h : Nat) : Bool := decide (((s.unit h).pantry.cls e.cls).op = 11)
    let s := if (e.nextAt home (app home)).isNone ∧ e.waits.contains home ∧
        !(s.ctl.any fun m => m.src == home && m.body == .pantryCode uid) then
      s.tell home e.die (.pantryCode uid) else s
    if e.waits = [] ∧ e.groups.all (fun g => g.over e.wide (app g.home)) then s.enqDone uid e else s

/-- The arbiter of a die takes what it can, in order (R342, R352). -/
def State.pantryRun : Nat → State → Nat → List Nat → State
  | 0, s, _, _ => s
  | fuel + 1, s, home, tried =>
    match s.nextEnq home s.enqs [] tried with
    | none => s
    | some (uid, e, i) =>
      match e.groups[i]? with
      | none => s
      | some g =>
        let u := s.unit home
        let (p, g') := u.pantry.take e.cls e.field e.wide e.nb s.tick g
        let app := decide ((u.pantry.cls e.cls).op = 11)
        let s := s.setUnit home { u with pantry := p }
        let e := { e with groups := listModify (fun _ => g') e.groups i }
        let s : State := { s with enqs := mapPut s.enqs uid e }
        if g'.over e.wide app then State.pantryRun fuel (s.enqCheck uid home) home tried
        else State.pantryRun fuel s home (uid :: tried)

/-- Every enqueue that waits at a die is tried (R342). -/
def State.pantryGo (s : State) (home : Nat) : State :=
  s.pantryRun ((s.enqs.map fun e => e.2.groups.length + 1).foldl (· + ·) 1) home []

/-- Start an enqueue on a die: its groups go to the arbiters of their homes (R341, R342), the die's own among them. -/
def State.startEnq (s : State) (uid : Nat) (e : Enq) : State :=
  let homes := (e.groups.map fun g => g.home).eraseDups
  let s : State := { s with enqs := mapPut s.enqs uid { e with waits := homes } }
  homes.foldl (fun s h => s.tell e.die h (.pantryEnq uid)) s

/-- Lanes grouped by key, in order of the lowest lane (R342). -/
def groupLanes (home : Nat → Nat) : List (Nat × Nat × List Word) → List EnqGroup
  | [] => []
  | (l, k, v) :: r =>
    let gs := groupLanes home r
    match listIndex (fun g : EnqGroup => g.key == k) gs with
    | some i =>
      match gs[i]? with
      | some g => { g with lanes := (l, v) :: g.lanes } :: listRemove gs i
      | none => gs
    | none => ⟨home k, k, [(l, v)], [], false⟩ :: gs

/-- The enqueue instructions (R341, R351, R352). -/
def Thread.pantryPut (t : Thread) (f : WqF) (lanes : List (Nat × Nat × List Word)) (wide nb : Bool) (field : Nat)
    (dest : EnqDest) : Res :=
  let c := (t.w.sreg f.sA.toNat).toNat
  let p := (t.s.unit t.die).pantry
  if !p.usable c t.ctx.slot then .trap t 0x0F 0 (BitVec.ofNat 32 c)
  else if t.ctrFull .wq then .again t
  else
    let (s, uid) := t.s.newUid
    let home := if (p.cls c).wide then s.keyHome t.die else fun _ => t.die
    let e : Enq := { warp := t.id, wg := t.w.wg, die := t.die, cls := c, field := field, wide := wide, nb := nb
                     groups := groupLanes home lanes, dest := dest, waits := [] }
    let t := ({ t with s := s } : Thread).raiseCtr .wq uid
    let t := { t.touch with w := { t.w with pc := t.w.pc + 8, stall := none } }
    .state ((t.put.startEnq uid e).settle t.w.wg)

/-- PENQ, a value for each lane (R342, R352). -/
def execPenq (f : WqF) (s : State) : Host.Outcome State Fault Refusal :=
  issue (.penq f) [.v f.va.toNat 2 2, .v f.vb.toNat 1 1, .s f.sA.toNat 1 1] true (fun t =>
    match lanesOf t.w.width (t.w.exec &&& t.w.live) with
    | [] => .next t
    | ls =>
      t.pantryPut f (ls.map fun l => (t.w.fam l, (pairOf (t.vreg l f.va.toNat) (t.vreg l (f.va.toNat + 1))).toNat,
        [t.vreg l f.vb.toNat])) false (f.imm.getLsbD 4) (f.imm.toNat % 16) (.lanes f.vb.toNat)) s

/-- PENQ.w, a payload of 16 fields (R343, R352). -/
def execPenqW (f : WqF) (s : State) : Host.Outcome State Fault Refusal :=
  issue (.penqW f) [.s f.va.toNat 2 2, .s f.sA.toNat 1 1, .s f.sB.toNat 16 16, .ds f.sD.toNat 1 1] true (fun t =>
    if t.w.exec &&& t.w.live = 0 then .next t
    else
      t.pantryPut f [(0, (t.w.spair f.va.toNat).toNat, t.w.sregsAt f.sB.toNat 16)] true (f.imm.getLsbD 4) 0 (.scal f.sD.toNat)) s

/-- Send an enqueue's groups whose home has gone offline to their new home (R341). -/
def State.resteer (s : State) (uid home : Nat) : State :=
  match mapFind s.enqs uid with
  | none => s
  | some e =>
    let app (h : Nat) : Bool := decide (((s.unit h).pantry.cls e.cls).op = 11)
    let moved := e.groups.map fun g =>
      if g.home = home ∧ !g.over e.wide (app home) then { g with home := s.keyHome e.die g.key, arrived := false } else g
    let homes := ((moved.filter fun g => !g.arrived && !g.over e.wide (app g.home)).map fun g => g.home).eraseDups
    let e := { e with waits := (e.waits.filter (· != home) ++ homes).eraseDups, groups := moved }
    let s : State := { s with enqs := mapPut s.enqs uid e }
    let s := homes.foldl (fun s h =>
      if s.ctl.any fun m => m.dst == h && m.body == .pantryEnq uid then s else s.tell e.die h (.pantryEnq uid)) s
    s.enqCheck uid e.die

/-- PANTRYENQ (R341, R342): enqueues arrive at their home. -/
def execPantryenq (k : Nat) (s : State) : Host.Outcome State Fault Refusal :=
  event true (fun s => s.takeCtl k fun m s => match m.body with
    | .pantryEnq uid =>
      match mapFind s.enqs uid with
      | none => some s
      | some e =>
        if s.isOffline m.dst then some (s.resteer uid m.dst)
        else
          let e := { e with groups := e.groups.map fun g => if g.home = m.dst then { g with arrived := true } else g }
          some (({ s with enqs := mapPut s.enqs uid e } : State).pantryGo m.dst)
    | _ => none) s

/-- PANTRYCODE (R333): the codes of a device-wide enqueue come back. -/
def execPantrycode (k : Nat) (s : State) : Host.Outcome State Fault Refusal :=
  event true (fun s => s.takeCtl k fun m s => match m.body with
    | .pantryCode uid =>
      match mapFind s.enqs uid with
      | none => some s
      | some e =>
        let e := { e with waits := e.waits.filter (· != m.src) }
        some (({ s with enqs := mapPut s.enqs uid e } : State).enqCheck uid m.src)
    | _ => none) s

/-! Lifts -/

/-- The next slot of a ring (R345): the first free one from where the search begins, and the ring after. -/
def SlotRing.lift (r : SlotRing) (slots : Nat) : Option (Nat × SlotRing) :=
  let n := 2 ^ slots
  ((List.range n).map fun i => (r.next + i) % n).findSome? fun i =>
    if r.used.contains i then none else some (i, ⟨(i + 1) % n, i :: r.used⟩)

/-- The bytes of a slot (R345). -/
def PantryRec.slotBytes (r : PantryRec) (op tick : Nat) : List Byte :=
  leBytes 8 r.key ++ leBytes 4 r.folds ++ leBytes 1 r.cls ++ leBytes 1 (if op = 11 then r.nfield else 16) ++
    List.replicate 2 0 ++ leBytes 8 tick ++ leBytes 8 r.opentick ++ List.replicate 32 0 ++
    regBytes r.fields 64

/-- The payload of record `i` is read (R100): what an error has taken holds free values (log 2). -/
def State.recRead (s : State) (die i : Nat) (r : PantryRec) : State × PantryRec :=
  match s.sramRead (.pantry die) i 0xFF true with
  | (s, 0) => (s, r)
  | (s, m) =>
    let lost (e : Word × Nat) : Word :=
      if m.getLsbD (e.2 / 4) then (wordsOf 1 (lostBytes s.tick (32 * i + e.2) 4)).headD 0 else e.1
    (s, { r with fields := r.fields.zipIdx.map lost })

/-- Take record `i` off a die's Pantry (R339). -/
def State.dropRec (s : State) (die i : Nat) : State :=
  let u := s.unit die
  (s.setUnit die { u with pantry := { u.pantry with recs := listRemove u.pantry.recs i } }).badRemove (.pantry die) i

/-- Lift the record at position `i` into a slot of its class (R344, R345): the slot and the state after, in which no enqueue has taken
the record's room yet; none while the ring is full or the slot's line is on its way. -/
def State.liftSlot (s : State) (die i : Nat) : Option (State × Nat) :=
  let u := s.unit die
  match u.pantry.recs[i]? with
  | none => none
  | some r =>
    let d := u.pantry.cls r.cls
    match (storeGet SlotRing.empty u.pantry.rings r.cls).lift d.slots with
    | none => none
    | some (k, ring) =>
      let pa := d.slotPa + 128 * k
      if s.paBusy pa then none
      else
        let (p, _) := u.pantry.tick
        let (s, r) := s.recRead die i r
        let s := (s.setUnit die { s.unit die with pantry := { p with rings := storeSet SlotRing.empty p.rings r.cls ring } }).dropRec die i
        let s := if paOpen s.attic s.window pa then (s.homeTouch (some die) pa 6 true).sysWrite pa (r.slotBytes d.op s.tick) else s
        some (s, k)

/-- The same, and an enqueue may find room (R339). -/
def State.liftRec (s : State) (die i : Nat) : Option (State × Nat) := (s.liftSlot die i).map fun x => (x.1.pantryGo die, x.2)

/-- The record that a PLIFT takes (R353): the oldest seal, else with F the oldest open one. -/
def Pantry.pull (p : Pantry) (c : Nat) (f : Bool) : Option Nat :=
  let best (key : PantryRec → Option Nat) : Option Nat :=
    (p.recs.zipIdx.foldl (fun (b : Option (Nat × Nat)) x =>
      match key x.1, b with
      | some k, none => some (k, x.2)
      | some k, some y => if k < y.1 then some (k, x.2) else b
      | none, _ => b) none).map fun y => y.2
  match best fun r => if r.cls = c then r.sealNo else none with
  | some i => some i
  | none => if f then best fun r => if r.cls = c ∧ r.sealNo.isNone then some r.stamp else none else none

/-- Read a lifted slot into the group (R353). -/
def Thread.liftRead (t : Thread) (f : WqF) (c k : Nat) : Res :=
  let d := (t.s.unit t.die).pantry.cls c
  match t.address 0 0 128 (d.slotVa + BitVec.ofNat 64 (128 * k)) with
  | .error r => r
  | .ok (t, pa, _) =>
    if t.s.paBusy pa then .again t
    else
      let ws := bytesWords 32 (leBytes 128 (t.s.viewNat pa 128))
      t.wqDone fun t =>
        let s := (t.s.homeTouch (some t.die) pa 6 false).freeSlot t.die c k
        let s : State := { s with lifts := s.lifts.filter fun x => !(x.warp == t.id && x.pc == t.w.pc) }
        { t with s := s, w := (t.w.setSregs f.sB.toNat ws).setSreg f.sD.toNat 0 }

/-- The open records of a die whose time has come are sealed before a PLIFT looks for one (R340). -/
def State.sealAges (s : State) (die : Nat) : State :=
  let u := s.unit die
  if (u.pantry.nextDue s.tick).isNone then s
  else s.setUnit die { u with pantry := u.pantry.sealDue s.tick u.pantry.recs.length }

/-- PLIFT (R340, R341, R344, R345, R353). -/
def execPlift (f : WqF) (s : State) : Host.Outcome State Fault Refusal :=
  issue (.plift f) [.s f.sA.toNat 1 1, .ds f.sB.toNat 32 32, .ds f.sD.toNat 1 1] true (fun t =>
    match t.s.lifts.find? fun x => x.warp == t.id && x.pc == t.w.pc with
    | some x => t.liftRead f x.cls x.slot
    | none =>
      let t := { t with s := t.s.sealAges t.die }
      let c := (t.w.sreg f.sA.toNat).toNat
      let p := (t.s.unit t.die).pantry
      if !p.usable c t.ctx.slot || (p.cls c).target != 2 then .trap t 0x0F 0 (BitVec.ofNat 32 c)
      else
        match p.pull c (f.imm.getLsbD 0) with
        | none => t.wqDone fun t => { t with w := t.w.setSreg f.sD.toNat 1 }
        | some i =>
          if t.ctrFull .wq then .again t
          else
            -- what completes when a record is freed may change this warp: it is read again
            let s := t.put
            match s.liftRec t.die i with
            | none => .again t
            | some (s, k) =>
              let s : State := { s with lifts := s.lifts ++ [⟨t.id, t.w.pc, c, k⟩] }
              match mapFind s.warps t.id, mapFind s.wgs t.w.wg with
              | some w, some g => ({ t with s := s, w := w, g := g } : Thread).liftRead f c k
              | _, _ => .state s) s

/-! Sealing and dispatch -/

/-- RECORD_SEAL_AGE (R340). -/
def execRecordSealAge (die k : Nat) (s : State) : Host.Outcome State Fault Refusal :=
  event (decide (die < 9)) (fun s =>
    let u := s.unit die
    match u.pantry.recs[k]? with
    | none => s
    | some r =>
      match u.pantry.deadline r with
      | some t => if t ≤ s.tick then s.setUnit die { u with pantry := u.pantry.sealAt k } else s
      | none => s) s

/-- Whether a sealed record may be dispatched, with its priority and the order of its seal (R344). -/
def Pantry.ready (p : Pantry) (r : PantryRec) : Option (Nat × Nat) :=
  r.sealNo.bind fun n =>
    if r.cls = 0 then some (0, n)
    else
      let d := p.cls r.cls
      if d.v ∧ d.target ≤ 1 then some (d.prio, n) else none

/-- The positions of the records that wait for dispatch, in order (R344): priority, then the oldest seal. -/
def Pantry.dispatchOrder (p : Pantry) : List Nat :=
  let l := p.recs.zipIdx.filterMap fun x => (p.ready x.1).map fun k => (k.1, k.2, x.2)
  let before (a b : Nat × Nat × Nat) : Bool := decide (b.1 < a.1) || (a.1 == b.1 && decide (a.2.1 ≤ b.2.1))
  let ins (x : Nat × Nat × Nat) (l : List (Nat × Nat × Nat)) : List (Nat × Nat × Nat) :=
    (l.takeWhile fun y => before y x) ++ x :: (l.dropWhile fun y => before y x)
  (l.foldl (fun acc x => ins x acc) []).map fun x => x.2.2

/-- The launch record of a kernel target (R344). -/
def PDesc.launchWords (d : PDesc) (die slot : Nat) : List Word :=
  let va := d.slotVa + BitVec.ofNat 64 (128 * slot)
  [loWord d.kernel, hiWord d.kernel, loWord va, hiWord va, 0, 0] ++ d.levels.map (BitVec.ofNat 32) ++
    [BitVec.ofNat 32 (2 ^ die + d.prio * 2 ^ 16), 0, 0, 0]

/-- Remove a record (R339); an enqueue may now find room. -/
def State.freeRec (s : State) (die i : Nat) : State := (s.dropRec die i).pantryGo die

/-- What dispatching the record at position `i` comes to (R331, R344): none while its target cannot take it. -/
def State.dispatchRec (s : State) (die i : Nat) : Option State :=
  let u := s.unit die
  match u.pantry.recs[i]? with
  | none => none
  | some r =>
    let d := u.pantry.cls r.cls
    let (s, r) := s.recRead die i r
    if r.cls = 0 then
      let q := reqOf r.fields r.host r.prio r.purpose
      match s.judge die r.ctx q with
      | .busy => none
      | .reject s c code => some ((s.freeRec die i).rejectLaunch die c q code)
      | .ok s l => some ((s.freeRec die i).acceptLaunch die l).1
    else if d.target = 0 then
      if 4096 ≤ s.poolLen die then none
      else
        -- the launch's record takes the room of the one that has been lifted (R339)
        (s.liftSlot die i).map fun x =>
          (x.1.enqueueLaunch die d.ctx 7 false (.slot die r.cls x.2) (d.launchWords die x.2)).pantryGo die
    else
      let core := die * 96 + d.core
      let q := s.deque core
      if q.pushCode d.ctx = 0 then
        let (p, _) := u.pantry.tick
        some (((s.setUnit die { s.unit die with pantry := p }).setDeque core (q.push d.ctx r.fields)).freeRec die i)
      else none

/-- A deque dispatch that is held because the deque holds another context's items is counted once (R344, R415). -/
def State.countHeld (s : State) (die i : Nat) : State :=
  let u := s.unit die
  match u.pantry.recs[i]? with
  | none => s
  | some r =>
    let d := u.pantry.cls r.cls
    if r.cls ≠ 0 ∧ d.target = 1 ∧ !r.counted ∧ (s.deque (die * 96 + d.core)).pushCode d.ctx = 3 then
      let recs := listModify (fun r : PantryRec => { r with counted := true }) u.pantry.recs i
      (s.setUnit die { u with pantry := { u.pantry with recs := recs } }).count die 0x10408 true
    else s

/-- RECORD_DISPATCH (R344): the first record in dispatch order whose target can take it. -/
def execRecordDispatch (die : Nat) (s : State) : Host.Outcome State Fault Refusal :=
  event (decide (die < 9)) (fun s =>
    if s.isOffline die ∨ s.mdl.stopped then s
    else
      let order := (s.unit die).pantry.dispatchOrder
      let s := order.foldl (fun s i => s.countHeld die i) s
      match order.findSome? fun i => s.dispatchRec die i with
      | some s => s
      | none => s) s

/-- PANTRY_CLASS_DESCRIPTOR_WRITE (R340, R345): class 0 ignores it. -/
def execPantryClassDescriptorWrite (die c word : Nat) (v : Dword) (s : State) : Host.Outcome State Fault Refusal :=
  event (decide (die < 9) && decide (c < 64) && decide (word < 8)) (fun s =>
    if c = 0 ∨ s.isOffline die then s
    else
      let u := s.unit die
      let ring := storeGet SlotRing.empty u.pantry.rings c
      let p := { u.pantry with desc := storeSet 0 u.pantry.desc (c * 8 + word) v
                               rings := storeSet SlotRing.empty u.pantry.rings c { ring with next := 0 } }
      (s.setUnit die { u with pantry := p }).pantryGo die) s

end Sys2Proof.Machine
end

