-- ==== Sys2Proof/Machine/PartIo.lean ====
section
/-! DEFINITION. Reads and writes by the units that are no core (spec 14 R347, 15 R360): through a context's translation,
as requesters of their own. -/

namespace Sys2Proof.Machine

/-- Why an access of such a unit does not happen: a line of it is on its way; no access is permitted there (R25, R30);
it faults. -/
inductive PartStop where
  | busy
  | violation
  | fault (access ftype level home : Nat) (va : Dword)
  | bad (i : Nat)
  deriving DecidableEq, Repr

/-- What a step of such a unit comes to. -/
abbrev PartIo (α : Type) := Except PartStop α

/-- Go on with an address, as an access of requester class `cls` (R105). -/
def State.partAddr {α : Type} (s : State) (cls die : Nat) (c : Ctx) (access : Nat) (va : Dword) (k : State → Nat → PartIo α) :
    PartIo α :=
  match s.partTranslate die c access va with
  | (_, .busy) => .error .busy
  | (_, .violation) => .error .violation
  | (_, .fault ft lv h) => .error (.fault access ft lv h va)
  | (s, .ok pa) => k (s.homeTouch (some die) pa cls (access != 0)) pa

/-- Read `n` bytes, a line at a time. -/
def partReadFrom (cls die : Nat) (c : Ctx) : Nat → State → Dword → Nat → List Byte → PartIo (State × List Byte)
  | 0, s, _, _, acc => .ok (s, acc)
  | fuel + 1, s, va, n, acc =>
    if n = 0 then .ok (s, acc)
    else
      let m := min n (128 - va.toNat % 128)
      s.partAddr cls die c 0 va fun s pa =>
        partReadFrom cls die c fuel s (va + BitVec.ofNat 64 m) (n - m) (acc ++ leBytes m (s.viewNat pa m))
def State.partRead (s : State) (cls die : Nat) (c : Ctx) (va : Dword) (n : Nat) : PartIo (State × List Byte) :=
  partReadFrom cls die c (n / 128 + 2) s va n []

/-- Write bytes, a line at a time. -/
def partWriteFrom (cls die : Nat) (c : Ctx) : Nat → State → Dword → List Byte → PartIo State
  | 0, s, _, _ => .ok s
  | fuel + 1, s, va, bs =>
    if bs = [] then .ok s
    else
      let m := min bs.length (128 - va.toNat % 128)
      s.partAddr cls die c 1 va fun s pa =>
        partWriteFrom cls die c fuel (s.sysWrite pa (bs.take m)) (va + BitVec.ofNat 64 m) (bs.drop m)
def State.partWrite (s : State) (cls die : Nat) (c : Ctx) (va : Dword) (bs : List Byte) : PartIo State :=
  partWriteFrom cls die c (bs.length / 128 + 2) s va bs

/-- An address from a 64-bit base and an offset. -/
def vaAdd (va : Dword) (n : Nat) : Dword := va + BitVec.ofNat 64 n

/-- Eight bytes from byte `i`. -/
def dwordAt (bs : List Byte) (i : Nat) : Dword := BitVec.ofNat 64 (fieldAt bs i 8)

end Sys2Proof.Machine
end

