-- ==== Sys2Proof/Machine/Graphs.lean ====
section
/-! DEFINITION. Graphs (spec 14 R347 to R350, R358): replays, runs, nodes, deadlines. -/

namespace Sys2Proof.Machine

/-! Tables -/

/-- Whether a header passes the checks of R358. -/
def headerOk (h : List Byte) : Bool :=
  let w := fieldAt h
  let len := w 32 4
  decide (w 0 4 = 0x4847_4E5A) && decide (w 48 16 = 0) && decide (w 14 2 = 0) && decide (w 12 1 < 2) && decide (w 13 1 ≤ 8) &&
    decide (1 ≤ w 8 4) && decide (w 8 4 ≤ 65536) && decide (w 16 8 % 8 = 0) &&
    (decide (w 24 8 = 0) || (decide (w 24 8 % 16 = 0) && decide (len ≠ 0) && decide (2 ^ len.log2 = len))) &&
    decide (w 40 8 % 16 = 0)

/-- A node of a graph (R347). -/
structure Node where
  action : Nat
  deps : Nat
  succVa : Dword
  nsucc : Nat
  rel : Nat
  dead : Nat
  arg : Dword
  key : Nat
  cls : Nat
  deriving DecidableEq, Repr

/-- A node from its 64 bytes; none when its ACTION is invalid or a MBZ bit is set. -/
def nodeOf (b : List Byte) : Option Node :=
  let w := fieldAt b
  if 3 < w 0 1 ∨ w 1 3 ≠ 0 ∨ w 28 4 ≠ 0 ∨ w 50 14 ≠ 0 then none
  else some { action := w 0 1, deps := w 4 4, succVa := dwordAt b 8, nsucc := w 16 4, rel := w 20 4, dead := w 24 4
              arg := dwordAt b 32, key := w 40 8, cls := w 48 2 }

def Graph.header (g : Graph) (s : State) : PartIo (State × List Byte) := s.partRead 6 g.home g.ctx g.table 64
def Graph.nodeVa (g : Graph) (i : Nat) : Dword := vaAdd g.table (64 + 64 * i)

/-- Read node `i`; an invalid one stops. -/
def Graph.node (g : Graph) (s : State) (i : Nat) : PartIo (State × Node) :=
  (s.partRead 6 g.home g.ctx (g.nodeVa i) 64).bind fun r =>
    match nodeOf r.2 with
    | some n => .ok (r.1, n)
    | none => .error (.bad i)

/-! Replays -/

/-- Put a graph into the state. -/
def State.putGraph (s : State) (uid : Nat) (g : Graph) : State := { s with graphs := mapPut s.graphs uid g }

/-- Whether a graph is among the 256 that its home's engine tracks (R350): fewer of the home's are older. -/
def State.trackedAt (s : State) (home uid : Nat) : Bool :=
  decide ((s.graphs.filter fun e => e.2.home == home && decide (e.1 < uid)).length < 256)

/-- A replay arrives at its home (R348, R350): the code of R358. -/
def State.replay (s : State) (home : Nat) (c : Ctx) (table : Dword) (framed : Bool) : State × Nat :=
  let r : Replay := ⟨s.tick, framed, none, false⟩
  match s.graphs.find? fun e => e.2.home == home && e.2.ctx.slot == c.slot && e.2.table == table with
  | some (uid, g) =>
    if g.held.isSome then (s.count home 0x10410 true, 1) else (s.putGraph uid { g with held := some r }, 0)
  | none =>
    let (s, uid) := s.newUid
    let r := { r with waited := !s.trackedAt home uid }
    (s.putGraph uid { home := home, ctx := c, table := table, run := none, held := some r, park := none, seq := 0, at_ := 0
                      ending := none }, 0)

/-- A frame-lock edge at tick `at_`, which starts a frame, reaches a die's graph engine (R348, R407): held FRAMED replays that
name no edge name this one, but for those that arrived in the edge's tick or after it. -/
def State.graphEdge (s : State) (die at_ frame : Nat) : State :=
  let name (r : Replay) : Replay := if r.framed ∧ r.edge.isNone ∧ r.arrived < at_ then { r with edge := some (at_, frame) } else r
  { s with graphs := s.graphs.map fun e => if e.2.home = die then (e.1, { e.2 with held := e.2.held.map name }) else e }

/-- The frame of a run that a replay starts now (R349). -/
def State.runFrame (s : State) (home : Nat) (r : Replay) : Nat :=
  match r.edge with
  | some e => e.2
  | none => (storeGet 0 s.frames home).toNat

/-- A run is over (R348): a held replay may take effect; otherwise the graph is tracked no more. -/
def State.runOver (s : State) (uid : Nat) (g : Graph) : State :=
  match g.held with
  | none => { s with graphs := mapDel s.graphs uid }
  | some r => s.putGraph uid { g with run := none, held := some (if r.framed then r else { r with arrived := s.tick }) }

/-- Write a slip entry (R349). -/
def Graph.slip (g : Graph) (s : State) (frame node late : Nat) : PartIo State :=
  (g.header s).bind fun r =>
    let va := dwordAt r.2 24
    let len := fieldAt r.2 32 4
    let idx := fieldAt r.2 36 4
    if va = 0 ∨ len = 0 then .ok r.1
    else
      (r.1.partWrite 6 g.home g.ctx (vaAdd va (16 * (idx % len)))
        (leBytes 4 frame ++ leBytes 4 node ++ leBytes 4 late ++ leBytes 4 0)).bind fun s =>
          s.partWrite 6 g.home g.ctx (vaAdd g.table 36) (leBytes 4 (idx + 1))

/-- The slip entry of a run that ends early is written, and the run is over (R347): the engine waits for a line or a page of the slip
log that it can still have. -/
def State.endRun (s : State) (uid : Nat) (g : Graph) (node frame : Nat) : State :=
  let done (s : State) : State := s.runOver uid { g with ending := none }
  let wait (s : State) (g : Graph) : State := s.putGraph uid { g with ending := some (node, frame) }
  match g.slip s frame node 0xFFFFFFFF with
  | .ok s => done s
  | .error .busy => wait s g
  | .error (.fault access ft lv h va) =>
    match s.partPark 1 g.home g.ctx g.seq access ft lv h va with
    | .rejected => done s
    | .full => wait s g
    | .parked s p => wait s { g with seq := p.seq, park := some p, at_ := node }
  | .error _ => done s

/-- A run ends early at a node (R347); one that has not begun takes its replay with it. One whose slip entry meets an error itself
leaves it out. -/
def State.endEarly (s : State) (uid : Nat) (g : Graph) (node : Nat) : State :=
  if g.ending.isSome then s.runOver uid { g with ending := none }
  else
    let frame := match g.run, g.held with
      | some r, _ => r.frame
      | none, some r => s.runFrame g.home r
      | none, none => 0
    s.endRun uid (if g.run.isSome then g else { g with held := none }) node frame

/-- Go on with a step of a graph's engine (R347): a fault parks the engine at the step, which is made again; a rejected
one, an access that is not permitted, and an invalid node end the run early. -/
def State.graphStep (s : State) (uid : Nat) (g : Graph) (node : Nat) (r : PartIo State) : State :=
  match r with
  | .ok s => s
  | .error .busy => s
  | .error .violation => s.endEarly uid g node
  | .error (.bad i) => s.endEarly uid g i
  | .error (.fault access ft lv h va) =>
    match s.partPark 1 g.home g.ctx g.seq access ft lv h va with
    | .rejected => s.endEarly uid g node
    | .full => s
    | .parked s p => s.putGraph uid { g with seq := p.seq, park := some p, at_ := node }

/-! Runs -/

/-- The nodes of a table from `i` up that are ready at the start (R348). -/
def Graph.roots (g : Graph) : Nat → State → Nat → List Nat → PartIo (State × List Nat)
  | 0, s, _, acc => .ok (s, acc)
  | k + 1, s, i, acc =>
    (g.node s i).bind fun r => g.roots k r.1 (i + 1) (if r.2.deps = 0 then acc ++ [i] else acc)

/-- Begin a run (R348): the generation and the start. -/
def Graph.begin_ (g : Graph) (s : State) (uid start : Nat) (r : Replay) : PartIo State :=
  (g.header s).bind fun h =>
    let gen := (fieldAt h.2 4 4 + 1) % 2 ^ 32
    (h.1.partWrite 6 g.home g.ctx (vaAdd g.table 4) (leBytes 4 gen)).bind fun s =>
      .ok (s.putGraph uid { g with
        held := none
        run := some { gen := gen, start := start, frame := s.runFrame g.home r, ready := [], issued := [], finished := [], late := []
                      rooted := false, notify := [] } })

/-- Find the nodes of a run that are ready from the start (R348). -/
def Graph.root (g : Graph) (s : State) (uid : Nat) (r : Run) : PartIo State :=
  (g.header s).bind fun h =>
    let n := fieldAt h.2 8 4
    if n = 0 ∨ 65536 < n then .error (.bad 0)
    else (g.roots n h.1 0 []).bind fun x => .ok (x.1.putGraph uid { g with run := some { r with ready := x.2, rooted := true } })

/-- Go on with the start of a run that has begun. -/
def State.graphRoot (s : State) (k : Nat) : State :=
  match mapFind s.graphs k with
  | none => s
  | some g =>
    match g.run with
    | none => s
    | some r => if r.rooted ∨ g.park.isSome ∨ g.ending.isSome ∨ s.isOffline g.home then s else s.graphStep k g 0 (g.root s k r)

/-- GRAPH_RUN_START (R348). A fault leaves the replay held, or the run with its start to go on from; a run that ends early ends
first. -/
def execGraphRunStart (k : Nat) (s : State) : Host.Outcome State Fault Refusal :=
  event true (fun s =>
    match mapFind s.graphs k with
    | none => s
    | some g =>
      match g.ending, g.run, g.held with
      | some e, _, _ => if g.park.isSome ∨ s.isOffline g.home then s else s.endRun k g e.1 e.2
      | none, some _, _ => s.graphRoot k
      | none, none, none => s
      | none, none, some r =>
        if g.park.isSome ∨ !s.trackedAt g.home k ∨ s.isOffline g.home then s
        else
          match (if r.framed then r.edge.map fun e => e.1 else some (if r.waited then s.tick else r.arrived)) with
          | none => s
          | some start => if s.tick < start then s else (s.graphStep k g 0 (g.begin_ s k start r)).graphRoot k) s

/-- Issue a ready node's action (R347, R348). -/
def Graph.issue_ (g : Graph) (s : State) (uid : Nat) (r : Run) (i : Nat) (n : Node) : PartIo State :=
  let put (s : State) : State :=
    s.putGraph uid { g with run := some { r with
      ready := r.ready.filter (· != i), issued := r.issued ++ [i], notify := if n.action = 3 then r.notify ++ [i] else r.notify } }
  match n.action with
  | 0 => .ok ((put s).tell g.home g.home (.graphDone uid i r.gen))
  | 1 =>
    if s.poolFull g.home then .error .busy
    else
      (s.partRead 6 g.home g.ctx n.arg 64).bind fun x =>
        .ok ((put x.1).enqueueLaunch g.home g.ctx.slot 7 true (.node uid i r.gen) (bytesWords 16 x.2))
  | 2 =>
    if !(s.unit g.home).pantry.usable n.cls g.ctx.slot then .error (.bad i)
    else
      (s.partRead 6 g.home g.ctx n.arg 64).bind fun x =>
        let (s, e) := (put x.1).newUid
        let home := if ((s.unit g.home).pantry.cls n.cls).wide then s.keyHome g.home n.key else g.home
        .ok (s.startEnq e { warp := 0, wg := 0, die := g.home, cls := n.cls, field := 0, wide := true, nb := false
                            groups := [⟨home, n.key, [(0, bytesWords 16 x.2)], [], false⟩], dest := .node uid i r.gen, waits := [] })
  | _ => .ok ((put s).msi .graph (n.arg.toNat % 256))

/-- GRAPH_NODE_RELEASE (R348): at start + RELOFF. -/
def execGraphNodeRelease (k node : Nat) (s : State) : Host.Outcome State Fault Refusal :=
  event true (fun s =>
    match mapFind s.graphs k with
    | none => s
    | some g =>
      match g.run with
      | none => s
      | some r =>
        if !r.ready.contains node ∨ g.park.isSome ∨ g.ending.isSome ∨ s.isOffline g.home then s
        else
          s.graphStep k g node ((g.node s node).bind fun x =>
            if s.tick < r.start + x.2.rel then .ok s else g.issue_ x.1 k r node x.2)) s

/-- Decrement the counters of a node's successors from the `j`-th up (R348): those that become ready, and the extra
decrements. -/
def Graph.decrement (g : Graph) (cnt : Dword) (gen nodes i : Nat) (n : Node) :
    Nat → State → Nat → List Nat → Nat → PartIo (State × List Nat × Nat)
  | 0, s, _, acc, extra => .ok (s, acc, extra)
  | k + 1, s, j, acc, extra =>
    (s.partRead 6 g.home g.ctx (vaAdd n.succVa (4 * j)) 4).bind fun x =>
      let t := leNat x.2
      if nodes ≤ t then .error (.bad i)
      else
        (x.1.partRead 6 g.home g.ctx (vaAdd cnt (8 * t)) 8).bind fun y =>
          let c := leNat y.2
          (if c % 2 ^ 32 = gen then .ok (y.1, c / 2 ^ 32) else (g.node y.1 t).map fun z => (z.1, z.2.deps)).bind fun z =>
            let rem := z.2 - 1
            (z.1.partWrite 6 g.home g.ctx (vaAdd cnt (8 * t)) (leBytes 4 gen ++ leBytes 4 rem)).bind fun s =>
              -- an index that the list names twice becomes ready once
              g.decrement cnt gen nodes i n k s (j + 1)
                (if z.2 ≠ 0 ∧ rem = 0 ∧ !acc.contains t then acc ++ [t] else acc) (if z.2 = 0 then extra + 1 else extra)

/-- `n` counts of one kind (R415). -/
def State.counts (s : State) (die off : Nat) (high : Bool) : Nat → State
  | 0 => s
  | n + 1 => (s.count die off high).counts die off high n

/-- A node completes (R348, R349): its slip entry when it is late, its successors, the end of the run. -/
def Graph.nodeDone (g : Graph) (s : State) (uid : Nat) (r : Run) (i : Nat) : PartIo State :=
  (g.header s).bind fun h =>
    (g.node h.1 i).bind fun n =>
      let nodes := fieldAt h.2 8 4
      let due := r.start + n.2.dead
      let late := r.late.contains i || (decide (n.2.dead ≠ 0xFFFFFFFF) && decide (due < s.tick))
      (if late then g.slip n.1 r.frame i (s.tick - due) else .ok n.1).bind fun s =>
        (g.decrement (dwordAt h.2 16) r.gen nodes i n.2 n.2.nsucc s 0 [] 0).bind fun x =>
          let s := x.1.counts g.home 0x10410 false x.2.2
          let r := { r with finished := r.finished ++ [i], late := r.late.filter (· != i)
                            ready := r.ready ++ x.2.1.filter fun t => !r.ready.contains t && !r.issued.contains t }
          let g := { g with run := some r }
          if nodes ≤ r.finished.length then
            .ok ((s.latchRelease g.home g.ctx (dwordAt h.2 40) r.gen .graph).runOver uid g)
          else .ok (s.putGraph uid g)

/-- GRAPHDONE (R333, R348): the home engine learns that a node has completed. -/
def execGraphdone (k : Nat) (s : State) : Host.Outcome State Fault Refusal :=
  event true (fun s =>
    match s.ctl[k]? with
    | some ⟨src, dst, .graphDone uid node gen⟩ =>
      if !s.routed src dst then s
      else
      let drop (s : State) : State := { s with ctl := listRemove s.ctl k }
      match mapFind s.graphs uid with
      | none => drop s
      | some g =>
        match g.run with
        | none => drop s
        | some r =>
          if g.ending.isSome ∨ r.gen ≠ gen ∨ !r.issued.contains node ∨ r.finished.contains node then drop s
          else if g.park.isSome ∨ s.isOffline g.home then s
          else s.graphStep uid g node (g.nodeDone (drop s) uid r node)
    | _ => s) s

/-- GRAPH_DEADLINE_SLIP (R349): a node that is not complete at start + DEADOFF is late. -/
def execGraphDeadlineSlip (k node : Nat) (s : State) : Host.Outcome State Fault Refusal :=
  event true (fun s =>
    match mapFind s.graphs k with
    | none => s
    | some g =>
      match g.run, g.header s with
      | some r, .ok h =>
        if r.finished.contains node ∨ r.late.contains node ∨ fieldAt h.2 8 4 ≤ node then s
        else
          match g.node h.1 node with
          | .ok n =>
            if n.2.dead ≠ 0xFFFFFFFF ∧ r.start + n.2.dead ≤ s.tick then
              n.1.putGraph k { g with run := some { r with late := r.late ++ [node] } }
            else s
          | .error _ => s
      | _, _ => s) s

/-! GSIG -/

/-- Read and check a graph header (R358). -/
def Thread.graphHeader (t : Thread) (f : WqF) (k : Thread → Dword → List Byte → Res) : Res :=
  let va := t.w.spair f.sA.toNat
  if va.toNat % 64 ≠ 0 then .trap t 0x03 va 0
  else
    match t.address 0 0 64 va with
    | .error r => r
    | .ok (t, pa, _) =>
      if t.s.paBusy pa || t.accPending (.pa pa) 64 then .again t
      else
        let h := leBytes 64 (t.s.viewNat pa 64)
        let t := { t with s := t.s.homeTouch (some t.die) pa 6 false }
        if !headerOk h then .trap t 0x10 va 0
        else if t.s.isOffline (fieldAt h 13 1) then .again t
        else k t va h

/-- GSIG_REPLAY (R358). -/
def execGsigReplay (f : WqF) (s : State) : Host.Outcome State Fault Refusal :=
  issue (.gsigReplay f) [.s f.sA.toNat 2 2, .ds f.sD.toNat 1 1] true (fun t =>
    t.graphHeader f fun t va h =>
      t.wqDone fun t =>
        let (s, c) := t.s.replay (fieldAt h 13 1) t.ctx va (fieldAt h 12 1 == 1)
        { t with s := s, w := t.w.setSreg f.sD.toNat (BitVec.ofNat 32 c) }) s

/-- Whether a node waits for its GSIG.done (R358): issued in the run, a notify, not complete. -/
def State.notifyWaits (s : State) (uid : Nat) (g : Graph) (node : Nat) : Option Nat :=
  match g.run with
  | none => none
  | some r =>
    if g.ending.isNone ∧ r.notify.contains node ∧ !r.finished.contains node ∧ !(s.ctl.any fun m => m.body == .graphDone uid node r.gen) then
      some r.gen
    else none

/-- GSIG_DONE (R358). -/
def execGsigDone (f : WqF) (s : State) : Host.Outcome State Fault Refusal :=
  issue (.gsigDone f) [.s f.sA.toNat 2 2, .s f.sB.toNat 1 1, .ds f.sD.toNat 1 1] true (fun t =>
    t.graphHeader f fun t va h =>
      let home := fieldAt h 13 1
      let node := (t.w.sreg f.sB.toNat).toNat
      t.wqDone fun t =>
        let hit := (t.s.graphs.find? fun e => e.2.home == home && e.2.ctx.slot == t.ctx.slot && e.2.table == va).bind fun e =>
          (t.s.notifyWaits e.1 e.2 node).map fun gen => (e.1, gen)
        match hit with
        | some (uid, gen) =>
          { t with s := t.s.tell t.die home (.graphDone uid node gen), w := t.w.setSreg f.sD.toNat 0 }
        | none => { t with w := t.w.setSreg f.sD.toNat 2 }) s

/-- GRAPH_REPLAY_PORT (R358, R415): a store that cannot be served is ignored and counted. -/
def execGraphReplayPort (die slot : Nat) (v : Dword) (s : State) : Host.Outcome State Fault Refusal :=
  event (decide (die < 9) && decide (slot < 256)) (fun s =>
    if s.isOffline die ∨ s.resting die then s
    else
      match s.readCtx slot with
      | none => s.count die 0x10418 true
      | some c =>
        if v.toNat % 64 ≠ 0 then s.count die 0x10418 true
        else
          match s.partRead 6 die c v 64 with
          | .error .busy => s
          | .error _ => s.count die 0x10418 true
          | .ok (s, h) =>
            if !headerOk h then s.count die 0x10418 true
            else if s.isOffline (fieldAt h 13 1) then s
            else (s.replay (fieldAt h 13 1) c v (fieldAt h 12 1 == 1)).1) s

end Sys2Proof.Machine
end

