-- ==== Sys2Proof/Machine/Edges.lean ====
section
/-! DEFINITION. Frame lock (spec 17 R405 to R407, R410) and the power steps that follow its edges (R413). -/

namespace Sys2Proof.Machine

/-- `%frame` of a die. -/
def State.frameNo (s : State) (die : Nat) : Nat := (storeGet 0 s.frames die).toNat
def State.setFrame (s : State) (die n : Nat) : State := { s with frames := storeSet 0 s.frames die (BitVec.ofNat 32 n) }

/-- Change the frame lock of the module, a field of every live die's units. -/
def State.setFl (s : State) (f : FrameLock) : State := { s with mdl := { s.mdl with fl := f } }
def State.onUnits (s : State) (f : DieUnit → DieUnit) : State := s.live.foldl (fun s d => s.setUnit d (f (s.unit d))) s

/-- The module's role (R405), and the port on which a follower receives edges. -/
def State.flRole (s : State) : Nat := s.mgmtReg 0x90000 % 4
def State.flPort (s : State) : Nat := bitsOf (s.mgmtReg 0x90000) 13 9

/-- The period between edges that the module knows (R409). -/
def State.flPeriod (s : State) : Option Nat :=
  if s.flRole = 2 then (if 2 ≤ s.mdl.fl.received then s.mdl.fl.measured else none) else s.mdl.fl.period

/-- Count a miss on every die (R406). -/
def State.flMiss (s : State) : State := s.onUnits fun u => { u with missed := min (u.missed + 1) 65535 }

/-- Set or clear LOCKED on every die; a change raises the frame-lock vector (R406). -/
def State.setLocked (s : State) (b : Bool) : State :=
  if (s.unit s.mdl.mgmt).locked = b then s else (s.onUnits fun u => { u with locked := b }).interrupt .frameLock

/-! Edges -/

/-- The lead that a message carries (R405). -/
def edgeLead : Nat := 4000

/-- The edges of the module, one for each live die: at the die with the management role, which makes them, and with `here`
at every die, they need no message. -/
def State.edgeFires (s : State) (frame tick : Nat) (here : Bool) : List EdgeFire :=
  s.live.map fun d => ⟨d, frame % 2 ^ 32, tick, here || d == s.mdl.mgmt⟩

/-- A master and a follower send an edge on the ports of OUTMASK, with the lead that is left to it (R405). -/
def State.sendEdge (s : State) (frame tick : Nat) : State :=
  let mask := bitsOf (s.mgmtReg 0x90000) 31 14
  let ports := if s.flRole = 1 ∨ s.flRole = 2 then (List.range 18).filter (bitOf mask) else []
  s.setFl { s.mdl.fl with sent := s.mdl.fl.sent ++ ports.map fun p => ⟨p, frame % 2 ^ 32, tick - s.tick, s.tick⟩ }

/-- The edge that the die with the management role has still to fire. -/
def State.pendingEdge (s : State) : Option EdgeFire := s.mdl.fl.fires.find? fun e => e.die == s.mdl.mgmt

/-- The last edge that it has still to fire. -/
def State.lastFire (s : State) : Option EdgeFire := (s.mdl.fl.fires.filter fun e => e.die == s.mdl.mgmt).getLast?

/-- The frame number of the next edge. -/
def State.nextFrame (s : State) : Nat := (s.lastFire.map fun e => e.frame).getD (s.frameNo s.mdl.mgmt) + 1

/-- FLCFG_WRITE (R405). -/
def State.flcfg (s : State) (v : Nat) : State :=
  let role := if v % 4 = 3 then 0 else v % 4
  let per := v / 2 ^ 32
  let f := s.mdl.fl
  let put (s : State) (x : Nat) : State := (List.range 9).foldl (fun s d => s.setReg d 0x90000 x) s
  let low := bitsOf v 31 9 * 2 ^ 9
  if role = 2 then
    let s := put s (per * 2 ^ 32 + low + 2)
    if f.period.isNone ∧ f.received ≠ 0 then s
    else s.setFl { f with period := none, nextEdge := none, lastEdge := none, received := 0, measured := none, timed := false
                          counted := false, row := 0 }
  else if 1000000 ≤ per ∧ per ≤ 100000000 then
    let s := put s (per * 2 ^ 32 + low + role)
    match f.period with
    | none => s.setFl { f with period := some per, nextEdge := some (s.tick + per), received := 0, measured := none
                               lastEdge := none, timed := false, counted := false, row := 0 }
    | some _ =>
      let next := match s.pendingEdge with
        | some e => some (e.tick + per)
        | none => f.nextEdge
      s.setFl { f with period := some per, nextEdge := next }
  else
    (put s low).setFl { f with period := none, nextEdge := none, received := 0, measured := none, lastEdge := none
                               timed := false, counted := false, row := 0 }
def execFlcfgWrite (die : Nat) (v : Dword) (s : State) : Host.Outcome State Fault Refusal :=
  event (decide (die < 9)) (fun s => if die = s.mdl.mgmt ∧ !s.isOffline die then s.flcfg v.toNat else s) s

/-- FRAME_EDGE_GENERATE (R405): the message of the next edge goes out. -/
def execFrameEdgeGenerate (s : State) : Host.Outcome State Fault Refusal :=
  event true (fun s =>
    let f := s.mdl.fl
    match f.nextEdge, f.period with
    | some t, some p =>
      if s.flRole < 2 ∧ t ≤ s.tick + edgeLead ∧ s.pendingEdge.isNone then
        (s.setFl { f with nextEdge := some (t + p), fires := f.fires ++ s.edgeFires s.nextFrame t false }).sendEdge s.nextFrame t
      else s
    | _, _ => s) s

/-- Give the edge that the timer has fired another frame number, on the dies that it has reached and on those that it has not. -/
def State.adoptFrame (s : State) (now frame : Nat) : State :=
  let f := s.mdl.fl
  let open_ (d : Nat) : Bool := f.fires.any fun e => e.die == d && e.frame == now
  let s := s.live.foldl (fun s d => if open_ d then s else s.setFrame d frame) s
  s.setFl { f with fires := f.fires.map fun e => if e.frame = now then { e with frame := frame } else e }

/-- The follower's timer fires an edge that is due and whose message has not come (R406). -/
def State.flTimer (s : State) : State :=
  let f := s.mdl.fl
  match f.lastEdge, f.measured with
  | some l, some m =>
    if s.flRole = 2 ∧ 2 ≤ f.received ∧ l + m ≤ s.tick ∧ (!f.timed ∨ f.counted) then
      (s.setFl { f with lastEdge := some (l + m), timed := true, counted := false
                        fires := f.fires ++ s.edgeFires s.nextFrame (l + m) true }).sendEdge s.nextFrame (l + m)
    else s
  | _, _ => s

/-- An edge that the timer has fired is missed (R406): no message within 1/16 of the period. -/
def State.flMissed (s : State) : State :=
  let f := s.mdl.fl
  match f.lastEdge, f.measured with
  | some l, some m =>
    if s.flRole = 2 ∧ f.timed ∧ !f.counted ∧ m < 16 * (s.tick - l) then
      ((s.setFl { f with counted := true, row := 0 }).flMiss).setLocked false
    else s
  | _, _ => s

/-- What the time that has passed has made of the follower's edges, up to `n` of them. -/
def State.flSettle : Nat → State → State
  | 0, s => s.flMissed
  | n + 1, s => State.flSettle n s.flMissed.flTimer

/-- The edges that the follower's timer may have to fire. -/
def State.flOwed (s : State) : Nat :=
  match s.mdl.fl.lastEdge, s.mdl.fl.measured with
  | some l, some m => if m = 0 then 0 else (s.tick - l) / m
  | _, _ => 0

/-- A follower receives the message of an edge (R406): it may belong to the edge that its timer has fired. One that comes within 1/16
of the period after the due time has been received within the bound (log 74). -/
def State.followEdge (s : State) (frame lead : Nat) : State :=
  let s := State.flSettle s.flOwed s
  let f := s.mdl.fl
  let t := s.tick + lead
  let late := f.timed && (match f.lastEdge, f.measured with
    | some l, some m => decide (2 * t < 2 * l + m)
    | _, _ => false)
  let row := if f.timed && f.counted && late then 0 else f.row + 1
  let s :=
    if late then
      let now := (s.lastFire.map fun e => e.frame).getD (s.frameNo s.mdl.mgmt)
      let s := if frame = now then s else (s.adoptFrame now frame).flMiss
      s.setFl { s.mdl.fl with lastEdge := some t, received := f.received + 1, timed := false, counted := false, row := row }
    else
      let s := if f.received ≠ 0 ∧ frame ≠ s.nextFrame % 2 ^ 32 then s.flMiss else s
      let measured := match f.lastEdge with
        | some l => if f.timed then f.measured else some (t - l)
        | none => none
      (s.setFl { f with lastEdge := some t, received := f.received + 1, measured := measured, timed := false
                        counted := false, row := row, fires := f.fires ++ s.edgeFires frame t false }).sendEdge frame t
  if 8 ≤ row then s.setLocked true else s

/-- The message of an edge reaches a die of the module (R405): its lead, as the die measures it, gives the tick. -/
def State.edgeHere (s : State) (die frame lead : Nat) : State :=
  let f := s.mdl.fl
  let t := s.tick + lead
  s.setFl { f with fires := f.fires.map fun e =>
    if e.die = die ∧ e.frame = frame ∧ !e.here ∧ t ≤ e.tick + 10 ∧ e.tick ≤ t + 10 then { e with tick := t, here := true } else e }

/-- FRAMEEDGE (R405). -/
def execFrameedge (e : EdgeMsg) (s : State) : Host.Outcome State Fault Refusal :=
  event true (fun s =>
    match e with
    | .port p frame lead => if s.flRole = 2 ∧ p = s.flPort ∧ p < 18 then s.followEdge frame.toNat lead else s
    | .inside die frame lead => s.edgeHere die frame.toNat lead) s

/-- FRAME_EDGE_TIMER (R406): an edge that is due, and whose message has not come. -/
def execFrameEdgeTimer (s : State) : Host.Outcome State Fault Refusal := event true (fun s => s.flTimer) s

/-- FRAME_EDGE_MISSED (R406): no message within 1/16 of the period. -/
def execFrameEdgeMissed (s : State) : Host.Outcome State Fault Refusal := event true (fun s => s.flMissed) s

/-- Whether heads and replays are held for the frame at which the module is admitted (R410). -/
def State.admitHeld (s : State) (frame : Nat) : Bool :=
  match s.mdl.fl.admission with
  | some a => decide (frame < a)
  | none => false

/-- The frame at whose edge an admission armed for frame `a` takes effect, in frame `now`: the next one when `a` has
passed (R410). -/
def admitFrame (now a : Nat) : Nat := if a ≤ now then (now + 1) % 2 ^ 32 else a

/-- FLADMIT_WRITE (R410): until the frame of the admission every head scans out black. -/
def execFladmitWrite (die : Nat) (v : Dword) (s : State) : Host.Outcome State Fault Refusal :=
  event (decide (die < 9)) (fun s =>
    if die = s.mdl.mgmt ∧ !s.isOffline die then
      let s := (List.range 9).foldl (fun s d => s.setReg d 0x90010 (v.toNat % 2 ^ 33)) s
      let s := if bitOf v.toNat 32 then s.onUnits fun u => { u with head := { u.head with black := true } } else s
      s.setFl { s.mdl.fl with
        admission := if bitOf v.toNat 32 then some (admitFrame (s.frameNo s.mdl.mgmt) (v.toNat % 2 ^ 32)) else none }
    else s) s

/-! Power (R413) -/

/-- The module's limit in watts. -/
def State.powerCap (s : State) : Nat := s.mgmtReg 0xC0000 % 65536

/-- A step of the clock is sent to every die. -/
def State.powerStep (s : State) (mhz : Nat) : State :=
  let s := s.live.foldl (fun s d => s.tell s.mdl.mgmt d (.powerStep mhz)) s
  { s with mdl := { s.mdl with power := { s.mdl.power with pending := some mhz, waits := s.live, armed := none } } }

/-- POWER_STEP_DOWN (R413). -/
def execPowerStepDown (watts10 : Nat) (s : State) : Host.Outcome State Fault Refusal :=
  event true (fun s =>
    let p := s.mdl.power
    if p.pending.isNone ∧ s.powerCap ≠ 0 ∧ s.powerCap < watts10 ∧ 1000 < p.mhz then s.powerStep (p.mhz - 100) else s) s

/-- POWER_STEP_UP (R413): below 95 % of the limit, or without one. -/
def execPowerStepUp (watts100 : Nat) (s : State) : Host.Outcome State Fault Refusal :=
  event true (fun s =>
    let p := s.mdl.power
    if p.pending.isNone ∧ (s.powerCap = 0 ∨ 100 * watts100 < 95 * s.powerCap) ∧ p.mhz < 1800 then s.powerStep (p.mhz + 100) else s) s

/-- Once no live die has still to be told of a step, the next edge applies it (R413). -/
def State.powerArm (s : State) : State :=
  let p := s.mdl.power
  if p.pending.isNone || p.armed.isSome || p.waits.any (fun d => s.live.contains d) then s
  else { s with mdl := { s.mdl with power := { p with waits := [], armed := some s.tick } } }

/-- The ticks within which the edges of the dies lie (R406). -/
def edgeSpread : Nat := 20

/-- An edge of the frame lock applies a step of which every die has been told before its own edge: it is posted (R413). -/
def State.powerApply (s : State) (tick : Nat) : State :=
  let p := s.mdl.power
  match p.pending, p.armed with
  | some mhz, some a =>
    if a + edgeSpread < tick then
      ((({ s with mdl := { s.mdl with power := ⟨mhz, none, p.steps + 1, [], none⟩ } } : State)).onUnits fun u =>
        { u with step := none }).interrupt .power
    else s
  | _, _ => s

/-- POWERSTEP (R413): a die is told of a step. -/
def execPowerstep (die : Nat) (s : State) : Host.Outcome State Fault Refusal :=
  event (decide (die < 9)) (fun s =>
    match s.mdl.power.pending with
    | none => s
    | some mhz =>
      let mine (m : CtlMsg) : Bool := m.dst == die && m.body == .powerStep mhz
      if s.ctl.any mine ∧ s.routed s.mdl.mgmt die then
        let p := s.mdl.power
        let s : State := { s with
          ctl := s.ctl.filter fun m => !mine m
          mdl := { s.mdl with power := { p with waits := p.waits.filter (· != die) } } }
        (s.setUnit die { s.unit die with step := some mhz }).powerArm
      else s) s

/-! Edges fire -/

/-- Fields of TIMING. -/
def timHtotal (t : Nat) : Nat := t % 65536
def timVtotal (t : Nat) : Nat := t / 65536 % 65536
def timVboff (t : Nat) : Nat := t / 2 ^ 32

/-- The pixel times that have passed on a head since its last vblank: HTOTAL × VTOTAL of them to a period, by the clock that the
last edge has set (R409). -/
def Head.pixelsAt (h : Head) (tick : Nat) : Nat :=
  if h.span = 0 then 0
  else h.pixels + (tick - h.base) * (timHtotal h.timing * timVtotal h.timing) / h.span

/-- The first edge of a list that fires on a die now. -/
def dueEdge (die tick : Nat) (l : List EdgeFire) : Option Nat :=
  listIndex (fun e : EdgeFire => e.die == die && e.here && decide (e.tick ≤ tick)) l

/-- A head at an edge (R409): from then on its pixel clock follows the period and TIMING. -/
def Head.atEdge (h : Head) (tick per timing : Nat) : Head :=
  { h with timing := timing, span := per, base := tick, pixels := h.pixelsAt tick }

/-- An edge fires on a die (R405 to R407, R410, R413): `%frame`, the graph engine, the head, a step of the clock. An admission is
over when every die has reached its frame. -/
def State.fireEdge (s : State) (e : EdgeFire) : State :=
  let s := s.setFrame e.die e.frame
  let u := s.unit e.die
  let s := s.setUnit e.die { u with
    lastEdge := some e.tick, head := u.head.atEdge e.tick (s.flPeriod.getD 0) (s.reg e.die 0xA0040) }
  let s := (if s.admitHeld e.frame then s else s.graphEdge e.die e.tick e.frame).powerApply e.tick
  if s.live.all fun d => !s.admitHeld (s.frameNo d) then s.setFl { s.mdl.fl with admission := none } else s

/-- FRAME_EDGE_FIRE (R405): a die under warm reset misses its edges (R407). -/
def execFrameEdgeFire (die : Nat) (s : State) : Host.Outcome State Fault Refusal :=
  event (decide (die < 9)) (fun s =>
    let f := s.mdl.fl
    match dueEdge die s.tick f.fires with
    | none => s
    | some i =>
      match f.fires[i]? with
      | none => s
      | some e =>
        let s := s.setFl { f with fires := listRemove f.fires i }
        if s.isOffline die then s else s.fireEdge e) s

end Sys2Proof.Machine
end

