-- ==== Sys2Proof/Machine/BlockTex.lean ====
section
/-! DEFINITION. The block-compressed formats BC1 to BC7 (spec 15 R372). The layouts, tables and interpolation of the Khronos
Data Format Specification are PRESUMED (log 8); the choices that R372 makes are the spec's. -/

namespace Sys2Proof.Machine

/-- A texel: four f32 codes, R, G, B, A (R371). -/
abbrev Texel := List Nat

/-- The f32 of a nonnegative rational, rounded RNE (R371, R372). -/
def ratio32 (n d : Nat) : Nat := if n = 0 then 0 else (fround fmtF32 .rne false false 0 false ⟨n, d, 0⟩).1
def unorm32 (b n : Nat) : Nat := ratio32 n (2 ^ b - 1)
def one32 : Nat := 0x3F800000

/-- `n` bits of a block from bit `i`. -/
def blockBits (x i n : Nat) : Nat := x / 2 ^ i % 2 ^ n

/-! BC1 to BC5 -/

/-- The mean of two 5- or 6-bit endpoints with weights `a` and `b` (R372). -/
def mean32 (bits a b x y : Nat) : Nat := ratio32 (a * x + b * y) ((a + b) * (2 ^ bits - 1))

/-- A colour of a 565 palette: weights of the two endpoints. -/
def mix565 (c0 c1 a b : Nat) : Texel :=
  [mean32 5 a b (bitsOf c0 15 11) (bitsOf c1 15 11), mean32 6 a b (bitsOf c0 10 5) (bitsOf c1 10 5),
   mean32 5 a b (bitsOf c0 4 0) (bitsOf c1 4 0)]

/-- A BC1 colour block of 8 bytes, texel `i`; `four` asks for the four-colour mode whatever the endpoints (BC2, BC3). -/
def bc1Colour (four : Bool) (x i : Nat) : Texel :=
  let c0 := blockBits x 0 16
  let c1 := blockBits x 16 16
  let k := blockBits x (32 + 2 * i) 2
  if k = 0 then mix565 c0 c1 1 0 ++ [one32]
  else if k = 1 then mix565 c0 c1 0 1 ++ [one32]
  else if four ∨ c1 < c0 then (if k = 2 then mix565 c0 c1 2 1 else mix565 c0 c1 1 2) ++ [one32]
  else if k = 2 then mix565 c0 c1 1 1 ++ [one32]
  else [0, 0, 0, 0]

/-- A BC4 channel of 8 bytes, texel `i`. -/
def bc4Channel (x i : Nat) : Nat :=
  let r0 := blockBits x 0 8
  let r1 := blockBits x 8 8
  let k := blockBits x (16 + 3 * i) 3
  if k = 0 then unorm32 8 r0
  else if k = 1 then unorm32 8 r1
  else if r1 < r0 then mean32 8 (8 - k) (k - 1) r0 r1
  else if k = 6 then 0
  else if k = 7 then one32
  else mean32 8 (6 - k) (k - 1) r0 r1

/-! BC6 and BC7 -/

/-- The partitions of two subsets: bit `i` is texel `i`'s subset. -/
def bptc2 : List Nat :=
  [0xCCCC, 0x8888, 0xEEEE, 0xECC8, 0xC880, 0xFEEC, 0xFEC8, 0xEC80,
   0xC800, 0xFFEC, 0xFE80, 0xE800, 0xFFE8, 0xFF00, 0xFFF0, 0xF000,
   0xF710, 0x8E, 0x7100, 0x8CE, 0x8C, 0x7310, 0x3100, 0x8CCE,
   0x88C, 0x3110, 0x6666, 0x366C, 0x17E8, 0xFF0, 0x718E, 0x399C,
   0xAAAA, 0xF0F0, 0x5A5A, 0x33CC, 0x3C3C, 0x55AA, 0x9696, 0xA55A,
   0x73CE, 0x13C8, 0x324C, 0x3BDC, 0x6996, 0xC33C, 0x9966, 0x660,
   0x272, 0x4E4, 0x4E40, 0x2720, 0xC936, 0x936C, 0x39C6, 0x639C,
   0x9336, 0x9CC6, 0x817E, 0xE718, 0xCCF0, 0xFCC, 0x7744, 0xEE22]

/-- The partitions of three subsets: two bits for each texel. -/
def bptc3 : List Nat :=
  [0xAA685050, 0x6A5A5040, 0x5A5A4200, 0x5450A0A8, 0xA5A50000, 0xA0A05050, 0x5555A0A0, 0x5A5A5050,
   0xAA550000, 0xAA555500, 0xAAAA5500, 0x90909090, 0x94949494, 0xA4A4A4A4, 0xA9A59450, 0x2A0A4250,
   0xA5945040, 0xA425054, 0xA5A5A500, 0x55A0A0A0, 0xA8A85454, 0x6A6A4040, 0xA4A45000, 0x1A1A0500,
   0x50A4A4, 0xAAA59090, 0x14696914, 0x69691400, 0xA08585A0, 0xAA821414, 0x50A4A450, 0x6A5A0200,
   0xA9A58000, 0x5090A0A8, 0xA8A09050, 0x24242424, 0xAA5500, 0x24924924, 0x24499224, 0x50A50A50,
   0x500AA550, 0xAAAA4444, 0x66660000, 0xA5A0A5A0, 0x50A050A0, 0x69286928, 0x44AAAA44, 0x66666600,
   0xAA444444, 0x54A854A8, 0x95809580, 0x96969600, 0xA85454A8, 0x80959580, 0xAA141414, 0x96960000,
   0xAAAA1414, 0xA05050A0, 0xA0A5A5A0, 0x96000000, 0x40804080, 0xA9A8A9A8, 0xAAAAAA44, 0x2A4A5254]

/-- The anchor texels of the second subset of two, and of the second and third of three. -/
def bptcAnchor2 : List Nat :=
  [15, 15, 15, 15, 15, 15, 15, 15, 15, 15, 15, 15, 15, 15, 15, 15, 15, 2, 8, 2, 2, 8, 8, 15, 2, 8, 2, 2, 8, 8, 2, 2,
   15, 15, 6, 8, 2, 8, 15, 15, 2, 8, 2, 2, 2, 15, 15, 6, 6, 2, 6, 8, 15, 15, 2, 2, 15, 15, 15, 15, 15, 2, 2, 15]
def bptcAnchor3a : List Nat :=
  [3, 3, 15, 15, 8, 3, 15, 15, 8, 8, 6, 6, 6, 5, 3, 3, 3, 3, 8, 15, 3, 3, 6, 10, 5, 8, 8, 6, 8, 5, 15, 15,
   8, 15, 3, 5, 6, 10, 8, 15, 15, 3, 15, 5, 15, 15, 15, 15, 3, 15, 5, 5, 5, 8, 5, 10, 5, 10, 8, 13, 15, 12, 3, 3]
def bptcAnchor3b : List Nat :=
  [15, 8, 8, 3, 15, 15, 3, 8, 15, 15, 15, 15, 15, 15, 15, 8, 15, 8, 15, 3, 15, 8, 15, 8, 3, 15, 6, 10, 15, 15, 10, 8,
   15, 3, 15, 10, 10, 8, 9, 10, 6, 15, 8, 15, 3, 6, 6, 8, 15, 3, 15, 15, 15, 15, 15, 15, 15, 15, 15, 15, 3, 15, 15, 8]

/-- The subset of a texel, and the anchor texels. -/
def bptcSubset (subsets part i : Nat) : Nat :=
  if subsets = 2 then blockBits (bptc2.getD part 0) i 1
  else if subsets = 3 then blockBits (bptc3.getD part 0) (2 * i) 2
  else 0
def bptcAnchors (subsets part : Nat) : List Nat :=
  if subsets = 2 then [0, bptcAnchor2.getD part 0]
  else if subsets = 3 then [0, bptcAnchor3a.getD part 0, bptcAnchor3b.getD part 0]
  else [0]

/-- The interpolation weights of 2, 3 and 4 index bits, in 64ths. -/
def bptcWeight (bits k : Nat) : Nat :=
  (if bits = 2 then [0, 21, 43, 64]
   else if bits = 3 then [0, 9, 18, 27, 37, 46, 55, 64]
   else [0, 4, 9, 13, 17, 21, 26, 30, 34, 38, 43, 47, 51, 55, 60, 64]).getD k 0
def bptcMix (a b w : Nat) : Nat := (a * (64 - w) + b * w + 32) / 64

/-- The index of texel `i` in an index field at bit `at_`: an anchor's topmost bit is not stored. -/
def bptcIndex (x at_ bits : Nat) (anchors : List Nat) (i : Nat) : Nat :=
  let before := (anchors.filter fun a => decide (a < i)).length
  blockBits x (at_ + bits * i - before) (if anchors.contains i then bits - 1 else bits)

/-- A mode of BC7: subsets, partition bits, rotation bits, selector bits, colour and alpha bits, P bits for each endpoint,
P bits for each subset, index bits, second index bits. -/
structure Bc7Mode where
  subsets : Nat
  part : Nat
  rot : Nat
  sel : Nat
  colour : Nat
  alpha : Nat
  pEnd : Nat
  pSub : Nat
  idx : Nat
  idx2 : Nat
  deriving DecidableEq, Repr

def bc7Modes : List Bc7Mode :=
  [⟨3, 4, 0, 0, 4, 0, 1, 0, 3, 0⟩, ⟨2, 6, 0, 0, 6, 0, 0, 1, 3, 0⟩, ⟨3, 6, 0, 0, 5, 0, 0, 0, 2, 0⟩,
   ⟨2, 6, 0, 0, 7, 0, 1, 0, 2, 0⟩, ⟨1, 0, 2, 1, 5, 6, 0, 0, 2, 3⟩, ⟨1, 0, 2, 0, 7, 8, 0, 0, 2, 2⟩,
   ⟨1, 0, 0, 0, 7, 7, 1, 0, 4, 0⟩, ⟨2, 6, 0, 0, 5, 5, 1, 0, 2, 0⟩]

/-- An endpoint expanded to 8 bits. -/
def bc7Expand (bits v : Nat) : Nat := v * 2 ^ (8 - bits) + v / 2 ^ (2 * bits - 8)

/-- A BC7 block of 16 bytes, texel `i`; a reserved mode gives zeros (R372). -/
def bc7Texel (x i : Nat) : Texel :=
  match (List.range 8).find? fun k => bitOf x k with
  | none => [0, 0, 0, 0]
  | some k =>
    match bc7Modes[k]? with
    | none => [0, 0, 0, 0]
    | some m =>
      let at0 := k + 1
      let part := blockBits x at0 m.part
      let rot := blockBits x (at0 + m.part) m.rot
      let sel := blockBits x (at0 + m.part + m.rot) m.sel
      let cAt := at0 + m.part + m.rot + m.sel
      let aAt := cAt + 6 * m.subsets * m.colour
      let pAt := aAt + 2 * m.subsets * m.alpha
      let iAt := pAt + 2 * m.subsets * m.pEnd + m.subsets * m.pSub
      let s := bptcSubset m.subsets part i
      let anchors := bptcAnchors m.subsets part
      let jAt := iAt + 16 * m.idx - anchors.length
      let p := m.pEnd + m.pSub
      let pBit (e : Nat) : Nat :=
        if m.pEnd = 1 then blockBits x (pAt + 2 * s + e) 1 else if m.pSub = 1 then blockBits x (pAt + s) 1 else 0
      let colour (ch e : Nat) : Nat :=
        let v := blockBits x (cAt + (2 * m.subsets * ch + 2 * s + e) * m.colour) m.colour
        bc7Expand (m.colour + p) (if p = 1 then 2 * v + pBit e else v)
      let alpha (e : Nat) : Nat :=
        if m.alpha = 0 then 255
        else
          let v := blockBits x (aAt + (2 * s + e) * m.alpha) m.alpha
          bc7Expand (m.alpha + p) (if p = 1 then 2 * v + pBit e else v)
      let w1 := bptcWeight m.idx (bptcIndex x iAt m.idx anchors i)
      let w2 := if m.idx2 = 0 then w1 else bptcWeight m.idx2 (bptcIndex x jAt m.idx2 [0] i)
      let (wc, wa) := if sel = 1 then (w2, w1) else (w1, w2)
      let r := bptcMix (colour 0 0) (colour 0 1) wc
      let g := bptcMix (colour 1 0) (colour 1 1) wc
      let b := bptcMix (colour 2 0) (colour 2 1) wc
      let a := bptcMix (alpha 0) (alpha 1) wa
      (if rot = 1 then [a, g, b, r] else if rot = 2 then [r, a, b, g] else if rot = 3 then [r, g, a, b]
       else [r, g, b, a]).map (unorm32 8)

/-- A mode of BC6: its number of mode bits and their value, whether it has two subsets, whether the endpoints past the first
are differences, the bits of the first endpoint, those of the others by channel, and its fields in order: channel × 4 +
endpoint (12 the partition), lowest bit, number of bits. -/
structure Bc6Mode where
  code : Nat
  two : Bool
  delta : Bool
  base : Nat
  diff : List Nat
  fields : List (Nat × Nat × Nat)
  deriving DecidableEq, Repr

def bc6Mode0 : Bc6Mode := ⟨0, true, true, 10, [5, 5, 5],
  [(6, 4, 1), (10, 4, 1), (11, 4, 1), (0, 0, 10), (4, 0, 10), (8, 0, 10), (1, 0, 5), (7, 4, 1),
   (6, 0, 4), (5, 0, 5), (11, 0, 1), (7, 0, 4), (9, 0, 5), (11, 1, 1), (10, 0, 4), (2, 0, 5),
   (11, 2, 1), (3, 0, 5), (11, 3, 1), (12, 0, 5)]⟩
def bc6Mode1 : Bc6Mode := ⟨1, true, true, 7, [6, 6, 6],
  [(6, 5, 1), (7, 4, 2), (0, 0, 7), (11, 0, 2), (10, 4, 1), (4, 0, 7), (10, 5, 1), (11, 2, 1),
   (6, 4, 1), (8, 0, 7), (11, 3, 1), (11, 5, 1), (11, 4, 1), (1, 0, 6), (6, 0, 4), (5, 0, 6),
   (7, 0, 4), (9, 0, 6), (10, 0, 4), (2, 0, 6), (3, 0, 6), (12, 0, 5)]⟩
def bc6Mode2 : Bc6Mode := ⟨2, true, true, 11, [5, 4, 4],
  [(0, 0, 10), (4, 0, 10), (8, 0, 10), (1, 0, 5), (0, 10, 1), (6, 0, 4), (5, 0, 4), (4, 10, 1),
   (11, 0, 1), (7, 0, 4), (9, 0, 4), (8, 10, 1), (11, 1, 1), (10, 0, 4), (2, 0, 5), (11, 2, 1),
   (3, 0, 5), (11, 3, 1), (12, 0, 5)]⟩
def bc6Mode3 : Bc6Mode := ⟨6, true, true, 11, [4, 5, 4],
  [(0, 0, 10), (4, 0, 10), (8, 0, 10), (1, 0, 4), (0, 10, 1), (7, 4, 1), (6, 0, 4), (5, 0, 5),
   (4, 10, 1), (7, 0, 4), (9, 0, 4), (8, 10, 1), (11, 1, 1), (10, 0, 4), (2, 0, 4), (11, 0, 1),
   (11, 2, 1), (3, 0, 4), (6, 4, 1), (11, 3, 1), (12, 0, 5)]⟩
def bc6Mode4 : Bc6Mode := ⟨10, true, true, 11, [4, 4, 5],
  [(0, 0, 10), (4, 0, 10), (8, 0, 10), (1, 0, 4), (0, 10, 1), (10, 4, 1), (6, 0, 4), (5, 0, 4),
   (4, 10, 1), (11, 0, 1), (7, 0, 4), (9, 0, 5), (8, 10, 1), (10, 0, 4), (2, 0, 4), (11, 1, 2),
   (3, 0, 4), (11, 4, 1), (11, 3, 1), (12, 0, 5)]⟩
def bc6Mode5 : Bc6Mode := ⟨14, true, true, 9, [5, 5, 5],
  [(0, 0, 9), (10, 4, 1), (4, 0, 9), (6, 4, 1), (8, 0, 9), (11, 4, 1), (1, 0, 5), (7, 4, 1),
   (6, 0, 4), (5, 0, 5), (11, 0, 1), (7, 0, 4), (9, 0, 5), (11, 1, 1), (10, 0, 4), (2, 0, 5),
   (11, 2, 1), (3, 0, 5), (11, 3, 1), (12, 0, 5)]⟩
def bc6Mode6 : Bc6Mode := ⟨18, true, true, 8, [6, 5, 5],
  [(0, 0, 8), (7, 4, 1), (10, 4, 1), (4, 0, 8), (11, 2, 1), (6, 4, 1), (8, 0, 8), (11, 3, 2),
   (1, 0, 6), (6, 0, 4), (5, 0, 5), (11, 0, 1), (7, 0, 4), (9, 0, 5), (11, 1, 1), (10, 0, 4),
   (2, 0, 6), (3, 0, 6), (12, 0, 5)]⟩
def bc6Mode7 : Bc6Mode := ⟨22, true, true, 8, [5, 6, 5],
  [(0, 0, 8), (11, 0, 1), (10, 4, 1), (4, 0, 8), (6, 5, 1), (6, 4, 1), (8, 0, 8), (7, 5, 1),
   (11, 4, 1), (1, 0, 5), (7, 4, 1), (6, 0, 4), (5, 0, 6), (7, 0, 4), (9, 0, 5), (11, 1, 1),
   (10, 0, 4), (2, 0, 5), (11, 2, 1), (3, 0, 5), (11, 3, 1), (12, 0, 5)]⟩
def bc6Mode8 : Bc6Mode := ⟨26, true, true, 8, [5, 5, 6],
  [(0, 0, 8), (11, 1, 1), (10, 4, 1), (4, 0, 8), (10, 5, 1), (6, 4, 1), (8, 0, 8), (11, 5, 1),
   (11, 4, 1), (1, 0, 5), (7, 4, 1), (6, 0, 4), (5, 0, 5), (11, 0, 1), (7, 0, 4), (9, 0, 6),
   (10, 0, 4), (2, 0, 5), (11, 2, 1), (3, 0, 5), (11, 3, 1), (12, 0, 5)]⟩
def bc6Mode9 : Bc6Mode := ⟨30, true, false, 6, [6, 6, 6],
  [(0, 0, 6), (7, 4, 1), (11, 0, 2), (10, 4, 1), (4, 0, 6), (6, 5, 1), (10, 5, 1), (11, 2, 1),
   (6, 4, 1), (8, 0, 6), (7, 5, 1), (11, 3, 1), (11, 5, 1), (11, 4, 1), (1, 0, 6), (6, 0, 4),
   (5, 0, 6), (7, 0, 4), (9, 0, 6), (10, 0, 4), (2, 0, 6), (3, 0, 6), (12, 0, 5)]⟩
def bc6Mode10 : Bc6Mode := ⟨3, false, false, 10, [10, 10, 10],
  [(0, 0, 10), (4, 0, 10), (8, 0, 10), (1, 0, 10), (5, 0, 10), (9, 0, 10)]⟩
def bc6Mode11 : Bc6Mode := ⟨7, false, true, 11, [9, 9, 9],
  [(0, 0, 10), (4, 0, 10), (8, 0, 10), (1, 0, 9), (0, 10, 1), (5, 0, 9), (4, 10, 1), (9, 0, 9),
   (8, 10, 1)]⟩
def bc6Mode12 : Bc6Mode := ⟨11, false, true, 12, [8, 8, 8],
  [(0, 0, 10), (4, 0, 10), (8, 0, 10), (1, 0, 8), (0, 11, 1), (0, 10, 1), (5, 0, 8), (4, 11, 1),
   (4, 10, 1), (9, 0, 8), (8, 11, 1), (8, 10, 1)]⟩
def bc6Mode13 : Bc6Mode := ⟨15, false, true, 16, [4, 4, 4],
  [(0, 0, 10), (4, 0, 10), (8, 0, 10), (1, 0, 4), (0, 15, 1), (0, 14, 1), (0, 13, 1), (0, 12, 1),
   (0, 11, 1), (0, 10, 1), (5, 0, 4), (4, 15, 1), (4, 14, 1), (4, 13, 1), (4, 12, 1), (4, 11, 1),
   (4, 10, 1), (9, 0, 4), (8, 15, 1), (8, 14, 1), (8, 13, 1), (8, 12, 1), (8, 11, 1), (8, 10, 1)]⟩

def bc6Modes : List Bc6Mode :=
  [bc6Mode0, bc6Mode1, bc6Mode2, bc6Mode3, bc6Mode4, bc6Mode5, bc6Mode6,
   bc6Mode7, bc6Mode8, bc6Mode9, bc6Mode10, bc6Mode11, bc6Mode12, bc6Mode13]

/-- The mode of a BC6 block: two bits when the second is 0, else five. -/
def bc6ModeOf (x : Nat) : Option Bc6Mode :=
  let c := if bitOf x 1 then blockBits x 0 5 else blockBits x 0 2
  bc6Modes.find? fun m => m.code == c

/-- The fields of a block from bit `i`: field numbers with what has been read of them. -/
def bc6Fields (x : Nat) : List (Nat × Nat × Nat) → Nat → List (Nat × Nat) → List (Nat × Nat)
  | [], _, acc => acc
  | (f, lo, n) :: r, i, acc => bc6Fields x r (i + n) ((f, blockBits x i n * 2 ^ lo) :: acc)
def bc6Field (l : List (Nat × Nat)) (f : Nat) : Nat := (l.filter fun e => e.1 == f).foldl (fun a e => a + e.2) 0

/-- An unsigned endpoint scaled to 16 bits. -/
def bc6Unquantise (bits v : Nat) : Nat :=
  if 15 ≤ bits then v else if v = 0 then 0 else if v = 2 ^ bits - 1 then 0xFFFF else (v * 65536 + 32768) / 2 ^ bits

/-- A BC6 block of 16 bytes, texel `i`; a reserved mode gives zeros (R372). -/
def bc6Texel (x i : Nat) : Texel :=
  match bc6ModeOf x with
  | none => [0, 0, 0, 0]
  | some m =>
    let subsets := if m.two then 2 else 1
    let l := bc6Fields x m.fields (if bitOf x 1 then 5 else 2) []
    let part := bc6Field l 12
    let s := if m.two then bptcSubset 2 part i else 0
    let bits := if m.two then 3 else 4
    let k := bptcIndex x (if m.two then 82 else 65) bits (bptcAnchors subsets part) i
    let w := bptcWeight bits k
    let value (ch e : Nat) : Nat :=
      let base := bc6Field l (ch * 4)
      let v := bc6Field l (ch * 4 + e)
      bc6Unquantise m.base (if e = 0 ∨ !m.delta then v
        else wrapTo m.base ((base : Int) + signedOf (m.diff.getD ch 1) v))
    ((List.range 3).map fun ch =>
      let h := bptcMix (value ch (2 * s)) (value ch (2 * s + 1)) w * 31 / 64
      (fencode fmtF32 .rne false false 0 (fdecode fmtF16 h)).1) ++ [one32]

end Sys2Proof.Machine
end

