-- ==== Sys2Proof/Machine/Texture.lean ====
section
/-! DEFINITION. Textures (spec 15 R370 to R372): descriptors, texels, level of detail, sampling. -/

namespace Sys2Proof.Machine

/-- A texture descriptor (R370). -/
structure TexDesc where
  base : Nat
  w : Nat
  h : Nat
  fmt : Nat
  levels : Nat
  deriving DecidableEq, Repr

/-- A sampler (R370). -/
structure Sampler where
  filter : Nat
  aniso : Nat
  addrU : Nat
  addrV : Nat
  bias : Word
  minLod : Word
  maxLod : Word
  deriving DecidableEq, Repr

/-- A descriptor from its eight words; none when a value is invalid (R370, R377). -/
def texDescOf (ws : List Word) : Option TexDesc :=
  let g (i : Nat) : Nat := (ws.getD i 0).toNat
  let t : TexDesc := ⟨g 0 + 2 ^ 32 * g 1, g 2 % 65536 + 1, g 2 / 65536 + 1, g 3 % 256, g 3 / 256 % 256⟩
  if t.base % 256 = 0 ∧ t.fmt ≤ 10 ∧ 1 ≤ t.levels ∧ t.levels ≤ 16 ∧ g 3 / 65536 = 0 ∧ g 4 = 0 ∧ g 5 = 0 ∧ g 6 = 0 ∧ g 7 = 0
  then some t else none

/-- A sampler from its four words. -/
def samplerOf (ws : List Word) : Option Sampler :=
  let x := (ws.getD 0 0).toNat
  let s : Sampler := ⟨x % 256, x / 256 % 256, bitsOf x 17 16, bitsOf x 19 18, ws.getD 1 0, ws.getD 2 0, ws.getD 3 0⟩
  if s.filter ≤ 3 ∧ [1, 2, 4, 8, 16].contains s.aniso ∧ x / 2 ^ 20 = 0 then some s else none

/-! Levels and texels -/

def TexDesc.bc (t : TexDesc) : Bool := decide (4 ≤ t.fmt)

/-- Bytes of a texel, or of a block (R370). -/
def TexDesc.unit (t : TexDesc) : Nat :=
  match t.fmt with
  | 0 | 2 => 4
  | 1 => 8
  | 3 => 2
  | 4 | 7 => 8
  | _ => 16

/-- Width and height of a level, bytes of its rows, number of its rows. -/
def TexDesc.wAt (t : TexDesc) (l : Nat) : Nat := max 1 (t.w / 2 ^ l)
def TexDesc.hAt (t : TexDesc) (l : Nat) : Nat := max 1 (t.h / 2 ^ l)
def TexDesc.cut (t : TexDesc) (n : Nat) : Nat := if t.bc then (n + 3) / 4 else n
def TexDesc.pitch (t : TexDesc) (l : Nat) : Nat := roundUp (t.cut (t.wAt l) * t.unit) 16
def TexDesc.levelBytes (t : TexDesc) (l : Nat) : Nat := t.pitch l * t.cut (t.hAt l)

/-- The offset of a texel, or of its block, from BASE. -/
def TexDesc.offset (t : TexDesc) (l x y : Nat) : Nat :=
  let q (n : Nat) : Nat := if t.bc then n / 4 else n
  ((List.range l).map t.levelBytes).foldl (· + ·) 0 + q y * t.pitch l + q x * t.unit

/-- An unsigned float with a 5-bit exponent and `mb` bits of mantissa, as f32 (R372). -/
def ufloat32 (mb x : Nat) : Nat :=
  let e := x / 2 ^ mb
  let m := x % 2 ^ mb
  if e = 31 then (if m = 0 then 0x7F800000 else 0x7FC00000)
  else
    let v : FVal := if e = 0 then .fin false m (-14 - (mb : Int)) else .fin false (2 ^ mb + m) ((e : Int) - 15 - mb)
    (fencode fmtF32 .rne false false 0 v).1

/-- A texel from the bytes of its unit, as a number (R372); `i` is its place in a block. -/
def TexDesc.texel (t : TexDesc) (raw i : Nat) : Texel :=
  match t.fmt with
  | 0 => (List.range 4).map fun k => unorm32 8 (blockBits raw (8 * k) 8)
  | 1 => (List.range 4).map fun k => (fencode fmtF32 .rne false false 0 (fdecode fmtF16 (blockBits raw (16 * k) 16))).1
  | 2 => [ufloat32 6 (blockBits raw 0 11), ufloat32 6 (blockBits raw 11 11), ufloat32 5 (blockBits raw 22 10), one32]
  | 3 => [unorm32 16 (raw % 65536), 0, 0, one32]
  | 4 => bc1Colour false raw i
  | 5 => (bc1Colour true (raw / 2 ^ 64) i).take 3 ++ [unorm32 4 (blockBits raw (4 * i) 4)]
  | 6 => (bc1Colour true (raw / 2 ^ 64) i).take 3 ++ [bc4Channel raw i]
  | 7 => [bc4Channel raw i, 0, 0, one32]
  | 8 => [bc4Channel raw i, bc4Channel (raw / 2 ^ 64) i, 0, one32]
  | 9 => bc6Texel raw i
  | _ => bc7Texel raw i

/-! Sampling -/

/-- An address mode applied to a texel coordinate (R370): none is the border. -/
def wrapTexel (mode : Nat) (n : Nat) (i : Int) : Option Nat :=
  if mode = 0 then some (wrapInt n i)
  else if mode = 1 then some (max 0 (min i ((n : Int) - 1))).toNat
  else if mode = 2 then
    let k := wrapInt (2 * n) i
    some (if k < n then k else 2 * n - 1 - k)
  else if 0 ≤ i ∧ i < n then some i.toNat else none
where
  /-- `i` modulo `n`. -/
  wrapInt (n : Nat) (i : Int) : Nat := (i % (n : Int)).toNat

/-- One texel of a weighted sum: level and coordinates, none in the border, and its weight. -/
structure Tap where
  level : Nat
  at_ : Option (Nat × Nat)
  weight : Nat
  deriving DecidableEq, Repr

/-- ⌊256 × v⌋ of a rational value `v = c × n / d − 1/2`, where `c` is exact (R371 steps 1 and 4). -/
def texPos (n d : Nat) (c : FVal) : Int :=
  match c with
  | .fin s m e =>
    let (a, b) := scaleQ (m * n * 256) d e
    (if s then -(a : Int) else a) / (b : Int) - 128
  | .inf s => Config.farTexel s n
  | .nan _ => Config.farTexel false n

/-- The texels of a level around a position in 1/256 of a texel: one, or the four of the bilinear filter with weights in
1/65 536 (R371). -/
def levelTaps (s : Sampler) (t : TexDesc) (l : Nat) (point : Bool) (px py : Int) (k : Nat) : List Tap :=
  let w := t.wAt l
  let h := t.hAt l
  let tap (i j : Int) (wt : Nat) : Tap :=
    { level := l, weight := wt
      at_ := match wrapTexel s.addrU w i, wrapTexel s.addrV h j with
        | some x, some y => some (x, y)
        | _, _ => none }
  if point then [tap ((px + 128) / 256) ((py + 128) / 256) (65536 * k)]
  else
    let i := px / 256
    let j := py / 256
    let fx := (px % 256).toNat
    let fy := (py % 256).toNat
    [tap i j ((256 - fx) * (256 - fy) * k), tap (i + 1) j (fx * (256 - fy) * k), tap i (j + 1) ((256 - fx) * fy * k),
     tap (i + 1) (j + 1) (fx * fy * k)]

/-- The texels of one sample position, given as texel-space coordinates of level 0 plus a half, at `lod256` = ⌊256 × λ⌋: the
weights are in 1/2^24 (R371). -/
def sampleTaps (s : Sampler) (t : TexDesc) (lod256 : Nat) (cu cv : FVal) : List Tap :=
  let at_ (l : Nat) (point : Bool) (k : Nat) : List Tap :=
    levelTaps s t l point (texPos (t.wAt l) t.w cu) (texPos (t.hAt l) t.h cv) k
  if s.filter ≤ 1 then at_ (min ((lod256 + 128) / 256) (t.levels - 1)) (decide (s.filter = 0)) 256
  else
    let l := lod256 / 256
    let f := lod256 % 256
    at_ l false (256 - f) ++ (if f = 0 then [] else at_ (min (l + 1) (t.levels - 1)) false f)

/-! Level of detail -/

/-- log2 of an exact positive value, times 2^110, truncated. -/
def log2Fix (m : Nat) (e : Int) : Int :=
  let lg := m.log2
  let (a, b) := scaleQ m 1 (256 - (lg : Int))
  ((lg : Int) + e) * (2 ^ 110 : Nat) + (if m = 2 ^ lg then 0 else log2Bits 110 (a / b) 0)

/-- An f32 as an exact value, and the f32 of a signed fixed-point number in 1/2^160, within the bound of VLOG2 (R246,
R371). -/
def f32 (w : Word) : FVal := fdecode fmtF32 w.toNat
def lodOf (v : Int) (bias : Word) (x : Int) : FVal :=
  if x = 0 then .fin false 0 0
  else
    let cs := ulpCodes 2 ⟨x.natAbs, 1, -160⟩
    let c := cs.getD (Config.lodPick v bias % cs.length) (floorCode ⟨x.natAbs, 1, -160⟩)
    fdecode fmtF32 (c + if x < 0 then 2 ^ 31 else 0)

/-- λ = log2(√ρ² / N) + LODBIAS (R371 step 2). -/
def lambda (rho2 : FVal) (n : Nat) (bias : Word) : FVal :=
  match rho2, f32 bias with
  | .nan _, _ | _, .nan _ => .nan false
  | .fin _ 0 _, .inf false => .nan false
  | .fin _ 0 _, _ => .inf true
  | _, .inf true => match rho2 with
    | .inf _ => .nan false
    | _ => .inf true
  | .inf _, _ | _, .inf false => .inf false
  | .fin _ m e, b =>
    let v := log2Fix m e - 2 * (n.log2 : Int) * (2 ^ 110 : Nat)
    lodOf v bias (v * (2 ^ 49 : Nat) + b.at (-160))

/-- λ clamped to [MINLOD, MAXLOD] and to the levels: ⌊256 × λ⌋. Where a NaN leaves it open it is free. -/
def lodClamp (s : Sampler) (t : TexDesc) (x : FVal) : Nat :=
  let lo := f32 s.minLod
  let hi := f32 s.maxLod
  let top := t.levels - 1
  if x.isNaN || lo.isNaN || hi.isNaN then Config.lodPick 0 s.bias % (256 * top + 1)
  else
    let x := if fltVal x lo then lo else x
    let x := if fltVal hi x then hi else x
    match x with
    | .inf n => if n then 0 else 256 * top
    | .nan _ => 0
    | .fin n m e =>
      if n then 0
      else
        let (a, b) := scaleQ (m * 256) 1 e
        min (a / b) (256 * top)

/-- The square of the length of a pair of exact values. -/
def length2 (x y : FVal) : FVal :=
  (fsumExact .rne [(fmulExact x x).1, (fmulExact y y).1]).1

/-- The number of anisotropic taps (R371 step 3): the least power of two at or above ρmax/ρmin, at most MAXANISO. -/
def anisoTaps (most : Nat) (big small : FVal) : Nat :=
  ([1, 2, 4, 8].find? fun n => decide (n = most) ||
    !fltVal (match small with | .fin s m e => .fin s (n * n * m) e | v => v) big).getD 16 |> min most

/-- A value times a small rational `n / 2^k`. -/
def FVal.scaled (v : FVal) (n : Int) (k : Nat) : FVal :=
  match v with
  | .fin s m e => .fin (s != decide (n < 0)) (m * n.natAbs) (e - k)
  | v => v

/-- What a lane asks of TEX: its coordinates as texel-space positions of level 0 plus a half, and its derivatives in x and in
y, or λ as given. -/
structure TexAsk where
  cu : FVal
  cv : FVal
  dx : FVal × FVal
  dy : FVal × FVal
  lod : Option FVal
  deriving DecidableEq, Repr

/-- The weighted texels of a sample, the weights in 1/2^24 divided by the number of taps (R371). -/
def TexAsk.taps (a : TexAsk) (s : Sampler) (t : TexDesc) : List Tap × Nat :=
  match a.lod with
  | some x => (sampleTaps s t (lodClamp s t x) a.cu a.cv, 1)
  | none =>
    let lx := length2 a.dx.1 a.dx.2
    let ly := length2 a.dy.1 a.dy.2
    let yBig := !lx.isNaN && !ly.isNaN && fltVal lx ly
    let big := if yBig then ly else lx
    let small := if yBig then lx else ly
    let rho := if lx.isNaN || ly.isNaN then .nan false else big
    if s.filter < 3 then (sampleTaps s t (lodClamp s t (lambda rho 1 s.bias)) a.cu a.cv, 1)
    else
      let n := if rho.isNaN || rho.isZero then 1 else anisoTaps s.aniso big small
      let lod := lodClamp s t (lambda rho n s.bias)
      let d := if yBig then a.dy else a.dx
      let at_ (c d : FVal) (i : Nat) : FVal :=
        if n = 1 then c else (fsumExact .rne [c, d.scaled (2 * (i : Int) + 1 - n) (n.log2 + 1)]).1
      ((List.range n).flatMap fun i => sampleTaps s t lod (at_ a.cu d.1 i) (at_ a.cv d.2 i), n)

/-- The weighted sum of texels, rounded RNE once; a texel of weight 0 takes no part (R371 step 4). -/
def weighted (n : Nat) (l : List (Nat × Texel)) : List Word :=
  (List.range 4).map fun ch =>
    let vs := (l.filter fun e => e.1 != 0).map fun e =>
      match fdecode fmtF32 (e.2.getD ch 0) with
      | .fin s m x => FVal.fin s (m * e.1) (x - 24 - (n.log2 : Int))
      | v => v
    BitVec.ofNat 32 (fencode fmtF32 .rne false false 0 (fsumExact .rne vs).1).1

end Sys2Proof.Machine
end

