-- ==== Sys2Proof/Machine/Trace.lean ====
section
/-! DEFINITION. Bounding-volume trees and exact ray tests (spec 15 R373, R374, R379), and the reads of the GX instructions
(R377). -/

namespace Sys2Proof.Machine

/-! Reads -/

/-- The load that the reads of a GX instruction are for the core's miss table (R74, R377). -/
def Thread.gxAccess (t : Thread) (n : Nat) (ps : List (Nat × Bool)) : Access :=
  t.access t.w.exec .load n 2 0 false .none (ps.map fun p => ⟨0, 0, 0, .pa p.1, p.2, [], false, false, none⟩)

/-- Read bytes at a list of addresses, each list element within one line, as the coherent value (R377): checked as the
instruction's own loads (R35, R45); stores of the same warp come first (R128). What misses, and every read of an NC page (R40),
goes to its line's home, and waits while the miss table has no room for it (R74). -/
def Thread.gxLoad (t : Thread) (n : Nat) (vas : List Dword) : Except Res (Thread × List Nat) :=
  match vas.find? fun va => !t.canonical va with
  | some va => .error (.trap t 0x04 va 0)
  | none =>
    match t.addresses 1 0 n vas with
    | .error r => .error r
    | .ok (t, ps) =>
      if (ps.any fun p => t.s.paBusy p.1 || t.accPending (.pa p.1) n) || !t.s.accRoom (t.gxAccess n ps) then .error (.again t)
      else
        let away := (ps.map fun p => (p.1 / 128 * 128, p.2)).eraseDups
        let s := away.foldl (fun s p => s.homeTouch (if p.2 then none else some t.die) p.1 t.cls false) t.s
        .ok ({ t with s := s }, ps.map fun p => t.s.viewNat p.1 n)

/-- Read `n` bytes that may lie in several lines. -/
def Thread.gxBytes : Nat → Thread → Dword → Nat → Except Res (Thread × Nat)
  | 0, t, _, _ => .ok (t, 0)
  | fuel + 1, t, va, n =>
    if n = 0 then .ok (t, 0)
    else
      let m := min n (128 - va.toNat % 128)
      match t.gxLoad m [va] with
      | .error r => .error r
      | .ok (t, xs) =>
        match Thread.gxBytes fuel t (va + BitVec.ofNat 64 m) (n - m) with
        | .error r => .error r
        | .ok (t, x) => .ok (t, xs.headD 0 + 2 ^ (8 * m) * x)

/-! Trees -/

/-- A triangle record (R364): the three corners, x, y, z each as f32, PRIM and BUCKET, and its MBZ bytes. -/
structure Tri where
  corners : List Nat
  prim : Nat
  bucket : Nat
  mbz : Nat
  deriving DecidableEq, Repr
def triOf (x : Nat) : Tri :=
  ⟨(List.range 9).map fun i => bitsOf x (32 * i + 31) (32 * i), bitsOf x 311 288, bitsOf x 319 312, bitsOf x 383 320⟩

/-- A node of a tree (R373), boxes and exponents apart: they never change a result (R374). -/
structure BvhNode where
  valid : Nat
  leaf : Nat
  nodeIdx : Nat
  primIdx : Nat
  counts : Nat
  deriving DecidableEq, Repr

/-- A node from its 128 bytes; none when it is invalid (R373). -/
def bvhNodeOf (x : Nat) : Option BvhNode :=
  let n : BvhNode := ⟨bitsOf x 127 120, bitsOf x 135 128, bitsOf x 191 160, bitsOf x 223 192, bitsOf x 255 224⟩
  let ok := decide (bitsOf x 159 136 = 0) && decide (bitsOf x 1023 640 = 0) && (List.range 8).all fun i =>
    !bitOf n.leaf i || (bitOf n.valid i && decide (bitsOf n.counts (4 * i + 3) (4 * i) ≠ 0))
  if ok then some n else none

/-- The children of a node in order: an internal child's node number, or a leaf's first triangle and their number. -/
inductive Child where
  | node (i : Nat)
  | leaf (first n : Nat)
  deriving DecidableEq, Repr
def BvhNode.childrenFrom (n : BvhNode) : List Nat → Nat → Nat → List Child
  | [], _, _ => []
  | i :: r, node, tri =>
    if !bitOf n.valid i then n.childrenFrom r node tri
    else if bitOf n.leaf i then
      let c := bitsOf n.counts (4 * i + 3) (4 * i)
      .leaf tri c :: n.childrenFrom r node (tri + c)
    else .node node :: n.childrenFrom r (node + 1) tri
def BvhNode.children (n : BvhNode) : List Child := n.childrenFrom (List.range 8) n.nodeIdx n.primIdx

/-- What walking a tree has come to: the thread and the triangles met so far. -/
abbrev Walk := Except Res (Thread × List Tri)

/-- Go on over a list. -/
def walkEach {α : Type} (f : Thread → α → Walk) : List α → Thread → List Tri → Walk
  | [], t, acc => .ok (t, acc)
  | a :: r, t, acc =>
    match f t a with
    | .error e => .error e
    | .ok (t, l) => walkEach f r t (acc ++ l)

/-- The triangles that a node reaches (R373, R374), in order; a path of more than 64 nodes makes the node past it
invalid. -/
def walkTree (root tris : Dword) : Nat → Dword → Thread → Walk
  | 0, va, t => .error (.trap t 0x10 va 0)
  | fuel + 1, va, t =>
    if va.toNat % 128 ≠ 0 then .error (.trap t 0x03 va 0)
    else
      match t.gxLoad 128 [va] with
      | .error r => .error r
      | .ok (t, xs) =>
        match bvhNodeOf (xs.headD 0) with
        | none => .error (.trap t 0x10 va 0)
        | some n =>
          walkEach (fun t c =>
            match c with
            | .node i => walkTree root tris fuel (root + BitVec.ofNat 64 (128 * i)) t
            | .leaf first k =>
              walkEach (fun t i =>
                let va := tris + BitVec.ofNat 64 (48 * (first + i))
                if va.toNat % 4 ≠ 0 then .error (.trap t 0x03 va 0)
                else
                  match Thread.gxBytes 3 t va 48 with
                  | .error r => .error r
                  | .ok (t, x) => .ok (t, [triOf x])) (List.range k) t []) n.children t []

/-! Rays -/

/-- A point or direction as integers times one power of two. -/
abbrev Vec := Int × Int × Int
def Vec.sub (a b : Vec) : Vec := (a.1 - b.1, a.2.1 - b.2.1, a.2.2 - b.2.2)
def Vec.dot (a b : Vec) : Int := a.1 * b.1 + a.2.1 * b.2.1 + a.2.2 * b.2.2
def Vec.cross (a b : Vec) : Vec :=
  (a.2.1 * b.2.2 - a.2.2 * b.2.1, a.2.2 * b.1 - a.1 * b.2.2, a.1 * b.2.1 - a.2.1 * b.1)

/-- f32 codes as integers in 1/2^149; none for a NaN or an infinity. -/
def fixed149 (x : Nat) : Option Int :=
  match fdecode fmtF32 x with
  | .fin n m e => some ((FVal.fin n m e).at (-149))
  | _ => none
def vec149 (l : List Nat) : Option Vec :=
  match l with
  | [a, b, c] =>
    match fixed149 a, fixed149 b, fixed149 c with
    | some a, some b, some c => some (a, b, c)
    | _, _, _ => none
  | _ => none

/-- A quotient of integers as f32, rounded RNE. -/
def quot32 (n d : Int) : Nat :=
  if n = 0 then 0 else (fround fmtF32 .rne false false 0 (decide (n < 0) != decide (d < 0)) ⟨n.natAbs, d.natAbs, 0⟩).1

/-- Where a ray hits a triangle: PRIM, t, u, v as f32 codes. -/
structure Hit where
  prim : Nat
  t : Nat
  u : Nat
  v : Nat
  deriving DecidableEq, Repr

/-- The exact test of R374: none when the ray does not hit, or when a coordinate is a NaN or an infinity. -/
def rayHit (org dir : List Nat) (x : Tri) : Option Hit :=
  match vec149 org, vec149 dir, vec149 (x.corners.take 3), vec149 ((x.corners.drop 3).take 3), vec149 (x.corners.drop 6) with
  | some o, some d, some a, some b, some c =>
    let e1 := Vec.sub b a
    let e2 := Vec.sub c a
    let p := Vec.cross d e2
    let det := Vec.dot e1 p
    let s := Vec.sub o a
    let q := Vec.cross s e1
    let u := Vec.dot s p
    let v := Vec.dot d q
    let w := det - u - v
    if det ≠ 0 ∧ ((0 ≤ u ∧ 0 ≤ v ∧ 0 ≤ w) ∨ (u ≤ 0 ∧ v ≤ 0 ∧ w ≤ 0)) then
      some ⟨x.prim, quot32 (Vec.dot e2 q) det, quot32 u det, quot32 v det⟩
    else none
  | _, _, _, _, _ => none

/-- Whether a hit counts (R374): between tmin and tmax, or for `.cand` past (tmin, P). -/
def Hit.counts (h : Hit) (cand : Bool) (tmin tmax : Word) (p : Word) : Bool :=
  let t := fdecode fmtF32 h.t
  let lo := fdecode fmtF32 tmin.toNat
  let hi := fdecode fmtF32 tmax.toNat
  !lo.isNaN && !hi.isNaN && !fltVal hi t &&
    (if cand then fltVal lo t || (feqVal lo t && (p == 0xFFFFFFFF#32 || decide (p.toNat < h.prim))) else !fltVal t lo)

/-- The hit that comes first by (t, PRIM) (R374). -/
def firstHit (l : List Hit) : Option Hit :=
  l.foldl (fun best h => match best with
    | none => some h
    | some b =>
      let x := fdecode fmtF32 b.t
      let y := fdecode fmtF32 h.t
      if fltVal y x ∨ (feqVal x y ∧ h.prim < b.prim) then some h else some b) none

end Sys2Proof.Machine
end

