-- ==== Sys2Proof/Machine/Gx.lean ====
section
/-! DEFINITION. The GX instructions (spec 15 R366 to R369, R377 to R382). -/

namespace Sys2Proof.Machine

/-- The lanes that a GX instruction's guard selects. -/
def Thread.gxLanes (t : Thread) (f : GxF) : LaneMask := t.w.active f.gen f.ginv f.gs.toNat

/-- Run a GX instruction on its lanes; with none it is not issued (R377). -/
def Thread.gx (t : Thread) (f : GxF) (k : Thread → List Nat → Res) : Res :=
  let m := t.gxLanes f
  if m = 0 then .next t else k t (lanesOf t.w.width m)

/-- Step 5 for an invalid value in a descriptor, or a warp of the wrong kind (R377). -/
def Thread.badOperand (t : Thread) (i : Instr) : Res := .trap t 0x02 (word0 i) 0

/-- Whether the warp is a fragment wave (R366). -/
def Thread.isWave (t : Thread) : Bool := !t.g.frags.isEmpty

/-- Deliver results that are known as the instruction issues: the GX counter falls when they are written (R75, R377). -/
def Thread.gxResults (t : Thread) (vd n : Nat) (rs : List (Nat × List Word)) : Res :=
  t.startAcc (some .gx) (t.access t.w.exec .given (4 * n) 0 0 false (.vec vd n)
    (rs.map fun r => onePart (t.w.fam r.1) 0 (.pa (2 ^ 60 + r.1 * 64)) false (regBytes r.2 (4 * n))))

/-! Textures -/

/-- The texels of taps: the units' addresses, and the texels from what lies there; a border texel is 0 (R370). -/
def TexDesc.address (d : TexDesc) (l : Nat) (p : Nat × Nat) : Dword := BitVec.ofNat 64 (d.base + d.offset l p.1 p.2)
def TexDesc.place (d : TexDesc) (p : Nat × Nat) : Nat := if d.bc then p.2 % 4 * 4 + p.1 % 4 else 0

/-- The texels that a list of taps reads, a texel of weight 0 apart. -/
def tapReads (l : List Tap) : List (Nat × Nat × Nat) :=
  l.filterMap fun x => if x.weight = 0 then none else x.at_.map fun p => (x.level, p)

/-- Read the texels of the lanes' taps in lane order, and sum them. -/
def Thread.sampleLanes (t : Thread) (d : TexDesc) (vd : Nat) (ls : List (Nat × List Tap × Nat)) : Res :=
  let reads := ls.flatMap fun e => tapReads e.2.1
  match t.gxLoad d.unit (reads.map fun r => d.address r.1 r.2) with
  | .error r => r
  | .ok (t, raws) =>
    let got := reads.zip raws
    let texel (x : Tap) : Texel :=
      match x.at_ with
      | none => [0, 0, 0, 0]
      | some p => ((got.find? fun g => g.1 == (x.level, p)).map fun g => d.texel g.2 (d.place p)).getD [0, 0, 0, 0]
    t.gxResults vd 4 (ls.map fun e => (e.1, weighted e.2.2 (e.2.1.map fun x => (x.weight, texel x))))

/-- A coordinate of a lane as a texel-space position of level 0 plus a half; a NaN reads as 0 (R371). -/
def texCoord (size : Nat) (w : Word) : FVal :=
  match f32 w with
  | .nan _ => .fin false 0 0
  | .inf s => .inf s
  | .fin s m e => .fin s (m * size) e

/-- The difference of two coordinates as DDX and DDY give it (R371, R383). -/
def texDiff (hi lo : FVal) : FVal :=
  fdecode fmtF32 (fencode fmtF32 .rne false false 0 (fsumExact .rne [hi, lo.negate]).1).1

/-- What a lane asks of TEX (R371, R378). -/
def Thread.texAsk (t : Thread) (f : GxF) (d : TexDesc) (l : Nat) : TexAsk :=
  let a := f.va.toNat
  let at_ (l : Nat) : FVal × FVal := (texCoord d.w (t.vreg l a), texCoord d.h (t.vreg l (a + 1)))
  let c := at_ l
  let zero : FVal := .fin false 0 0
  let times (n i : Nat) : FVal := (fmulExact (f32 (t.vreg l (a + i))) (.fin false n 0)).1
  if f.mode = 1 then ⟨c.1, c.2, (zero, zero), (zero, zero), some (f32 (t.vreg l (a + 2)))⟩
  else if f.mode = 2 then ⟨c.1, c.2, (times d.w 2, times d.h 3), (times d.w 4, times d.h 5), none⟩
  else
    match (t.frag l).bind fun fr => fr.quad.map fun q => (q - t.w.famOff, fr.pos) with
    | some (q, pos) =>
      let left := at_ (q + pos / 2 * 2)
      let right := at_ (q + pos / 2 * 2 + 1)
      let top := at_ (q + pos % 2)
      let bottom := at_ (q + pos % 2 + 2)
      ⟨c.1, c.2, (texDiff right.1 left.1, texDiff right.2 left.2), (texDiff bottom.1 top.1, texDiff bottom.2 top.2), none⟩
    | none => ⟨c.1, c.2, (zero, zero), (zero, zero), some zero⟩

/-- The register operands of TEX (R377). -/
def texOpds (f : GxF) : List Opd :=
  [.dv f.vd.toNat 4 4, .v f.va.toNat (if f.mode = 1 then 3 else if f.mode = 2 then 6 else 2) 2, .s f.sdesc.toNat 12 4] ++
    guardOpd f.gen f.gs

/-- TEX (R371, R378). -/
def execTex (f : GxF) (s : State) : Host.Outcome State Fault Refusal :=
  issue (.tex f) (texOpds f) true (fun t => t.gx f fun t ls =>
    match texDescOf (t.w.sregsAt f.sdesc.toNat 8), samplerOf (t.w.sregsAt (f.sdesc.toNat + 8) 4) with
    | some d, some p => t.sampleLanes d f.vd.toNat (ls.map fun l => (l, (t.texAsk f d l).taps p d))
    | _, _ => t.badOperand (.tex f)) s

/-- TEXF (R378): one texel, or zeros outside. -/
def execTexf (f : GxF) (s : State) : Host.Outcome State Fault Refusal :=
  issue (.texf f) ([.dv f.vd.toNat 4 4, .v f.va.toNat 3 2, .s f.sdesc.toNat 8 4] ++ guardOpd f.gen f.gs) true (fun t =>
    t.gx f fun t ls =>
    match texDescOf (t.w.sregsAt f.sdesc.toNat 8) with
    | some d =>
      let tap (l : Nat) : Tap :=
        let x := (t.vreg l f.va.toNat).toInt
        let y := (t.vreg l (f.va.toNat + 1)).toInt
        let k := (t.vreg l (f.va.toNat + 2)).toInt
        let ok := decide (0 ≤ k) && decide (k < d.levels) && decide (0 ≤ x) && decide (x < d.wAt k.toNat) &&
          decide (0 ≤ y) && decide (y < d.hAt k.toNat)
        ⟨k.toNat, if ok then some (x.toNat, y.toNat) else none, 2 ^ 24⟩
      t.sampleLanes d f.vd.toNat (ls.map fun l => (l, [tap l], 1))
    | none => t.badOperand (.texf f)) s

/-! Trace -/

/-- The candidate that TRAV.cand reads in vd (R374). -/
def candOpd (f : GxF) : List Opd := if f.flags.getLsbD 0 then [.v f.vd.toNat 1 1] else []

/-- TRAV (R374, R379). -/
def execTrav (f : GxF) (s : State) : Host.Outcome State Fault Refusal :=
  issue (.trav f) ([.dv f.vd.toNat 4 4, .v f.va.toNat 8 8, .s f.sdesc.toNat 4 4] ++ candOpd f ++ guardOpd f.gen f.gs) true (fun t =>
    t.gx f fun t ls =>
      let root := t.w.spair f.sdesc.toNat
      match walkTree root (t.w.spair (f.sdesc.toNat + 2)) 64 root t with
      | .error r => r
      | .ok (t, tris) =>
        t.gxResults f.vd.toNat 4 (ls.map fun l =>
          let r := t.vregs l f.va.toNat 8
          let codes := r.map fun w => w.toNat
          let hits := tris.filterMap fun x => (rayHit (codes.take 3) ((codes.drop 4).take 3) x).bind fun h =>
            if h.counts (f.flags.getLsbD 0) (r.getD 3 0) (r.getD 7 0) (t.vreg l f.vd.toNat) then some h else none
          (l, match firstHit hits with
            | some h => [BitVec.ofNat 32 h.prim, BitVec.ofNat 32 h.t, BitVec.ofNat 32 h.u, BitVec.ofNat 32 h.v]
            | none => [0xFFFFFFFF#32, 0x7F800000#32, 0, 0]))) s

/-! Fragments -/

/-- KILL (R367, R381): it never traps, whatever it leaves of the warp. -/
def execKill (f : GxF) (s : State) : Host.Outcome State Fault Refusal :=
  issue (.kill f) (guardOpd f.gen f.gs) true (fun t => t.gx f fun t _ =>
    let m := if t.isWave then t.gxLanes f &&& t.w.live else t.gxLanes f
    .left ({ t with w := t.w.after 8 }.removeLanes m true)) s

/-- The die whose frame job a workgroup belongs to. -/
def Thread.frameDie (t : Thread) : Option Nat :=
  match t.launch.purpose with
  | .frame d => some d
  | _ => none
def Thread.frameJob (t : Thread) : Option FrameJob := t.frameDie.bind fun d => (t.s.unit d).frame

/-- VISR (R382). -/
def execVisr (f : GxF) (s : State) : Host.Outcome State Fault Refusal :=
  issue (.visr f) ([.dv f.vd.toNat 2 2, .s f.sdesc.toNat 4 4] ++ (if f.mode = 0 then [.v f.va.toNat 2 2] else []) ++
      guardOpd f.gen f.gs) true (fun t => t.gx f fun t ls =>
    if f.mode = 1 ∧ !t.isWave then t.badOperand (.visr f)
    else
      let base := t.w.spair f.sdesc.toNat
      let w := (t.w.sreg (f.sdesc.toNat + 2)).toNat
      let h := (t.w.sreg (f.sdesc.toNat + 3)).toNat
      let type4 : Bool := f.mode == 1 && (match t.frameJob with
        | some j => j.desc.headD 0 == 4
        | none => false)
      let at_ (l : Nat) : Option Dword :=
        let (x, y) := if f.mode = 0 then ((t.vreg l f.va.toNat).toInt, (t.vreg l (f.va.toNat + 1)).toInt)
          else match t.frag l with
            | some fr => ((fr.px : Int), (fr.py : Int))
            | none => (-1, -1)
        if 0 ≤ x ∧ x < w ∧ 0 ≤ y ∧ y < h then some (base + BitVec.ofNat 64 (8 * (y.toNat * w + x.toNat))) else none
      let known := if type4 then ls.map fun l => (l, match t.frag l with
            | some fr => if fr.help then BitVec.ofNat 64 (Config.freshPick (t.s.freshCount + l)) else fr.vis
            | none => 0xFFFFFFFF7F800000#64)
        else ls.filterMap fun l => if (at_ l).isNone then some (l, 0xFFFFFFFF7F800000#64) else none
      let reads := if type4 then [] else ls.filterMap fun l => (at_ l).map fun a => (l, a)
      match t.places 1 0 0 8 8 reads with
      | .error r => r
      | .ok (t, ps) =>
        let t' := known.foldl (fun t e => t.setVregs e.1 f.vd.toNat [loWord e.2, hiWord e.2]) t
        let t' := if type4 then { t' with s := { t'.s with freshCount := t'.s.freshCount + 128 } } else t'
        match t'.startAcc (some .gx) { t'.access t'.w.exec .load 8 0 0 false (.vec f.vd.toNat 2)
          ((reads.zip ps).flatMap fun e => laneParts (t.w.fam e.1.1) e.1.2 e.2 1 8 [] false) with side := 1 } with
        | .again _ => .again t
        | r => r) s

/-! EMIT -/

/-- A render-target descriptor (R369). -/
structure Target where
  base : Dword
  pitch : Nat
  fmt : Nat
  deriving DecidableEq, Repr
def targetOf (ws : List Word) : Option Target :=
  let t : Target := ⟨pairOf (ws.getD 0 0) (ws.getD 1 0), (ws.getD 2 0).toNat, (ws.getD 3 0).toNat⟩
  if t.base.toNat % 256 = 0 ∧ t.pitch % 16 = 0 ∧ t.fmt ≤ 1 then some t else none
def pixelBytes (fmt : Nat) : Nat := if fmt = 0 then 4 else 8
def Target.address (t : Target) (x y : Nat) : Dword := t.base + BitVec.ofNat 64 (y * t.pitch + x * pixelBytes t.fmt)

/-- The fragments of a launch that a lane's fragment must come after (R368): those of its pixel with a lower sequence number
that are neither accepted nor retired, in workgroups that run and in waves that are still to be placed. -/
def State.fragsBefore (s : State) (lid : Nat) (j : FrameJob) (x : Frag) : Bool :=
  let before (y : Frag) : Bool := !y.help && y.px == x.px && y.py == x.py && decide (y.seq < x.seq) && !y.accepted && !y.retired
  let mine := s.wgs.filter fun e => e.2.launch == lid
  let l := s.launch lid
  let size := l.image.nwarps * l.image.width
  (mine.any fun e => e.2.killed.isNone && e.2.frags.any fun f => before f.2) ||
    j.lanes.zipIdx.any fun e => match e.1 with
      | some y => before y && !(mine.any fun g => g.2.w == e.2 / size)
      | none => false

/-- Whether lanes can be accepted one after the other (R368), and the workgroup after that. -/
def Thread.acceptAll (t : Thread) (j : FrameJob) : List Nat → Option Thread
  | [] => some t
  | l :: r =>
    match t.frag l with
    | none => none
    | some x =>
      if { t.s with wgs := mapPut t.s.wgs t.w.wg t.g }.fragsBefore t.g.launch j x then none
      else Thread.acceptAll { t with g := { t.g with frags := mapPut t.g.frags (t.w.fam l) { x with accepted := true } } } j r

/-- The blend queue of a pixel (R368). -/
def blendQueue (x y : Nat) : Nat := (x / 8 + y / 8) % 2

/-- EMIT (R368, R369, R380). -/
def execEmit (f : GxF) (s : State) : Host.Outcome State Fault Refusal :=
  issue (.emit f) ([.v f.va.toNat 4 4, .s f.sdesc.toNat 4 4] ++ guardOpd f.gen f.gs) true (fun t => t.gx f fun t _ =>
    let ls := lanesOf t.w.width (t.gxLanes f &&& t.w.live)
    match t.isWave, targetOf (t.w.sregsAt f.sdesc.toNat 4), t.frameDie, t.frameJob with
    | true, some rt, some die, some j =>
      let u := t.s.unit die
      if ls.any fun l => (t.frag l).all fun x => x.accepted then t.badOperand (.emit f)
      else if ls = [] then .next t
      else
        let px (l : Nat) : Nat × Nat := ((t.frag l).map fun x => (x.px, x.py)).getD (0, 0)
        let queued (q : Nat) : Nat := (ls.filter fun l => blendQueue (px l).1 (px l).2 == q).length
        match t.acceptAll j ls with
        | none => t.wait
        | some t' =>
          if u.blend0.length + queued 0 > 4096 ∨ u.blend1.length + queued 1 > 4096 then t.wait
          else
            match ls.find? fun l => !t.canonical (rt.address (px l).1 (px l).2) with
            | some l => .trap t 0x04 (rt.address (px l).1 (px l).2) 0
            | none =>
              if t.ctrFull .gx then .again t
              else
                match t.addresses 1 1 0 (ls.map fun l => rt.address (px l).1 (px l).2) with
                | .error r => r
                | .ok (t, ps) =>
                  let new (q : Nat) : List BlendFrag := (ls.zip ps).filterMap fun e =>
                    let p := px e.1
                    if blendQueue p.1 p.2 = q then
                      some ⟨t.g.launch, p.1, p.2, e.2.1, rt.fmt, f.mode.toNat, t.vregs e.1 f.va.toNat 4⟩
                    else none
                  let (s, uid) := t.s.newUid
                  let u := s.unit die
                  let s := s.setUnit die { u with blend0 := u.blend0 ++ new 0, blend1 := u.blend1 ++ new 1 }
                  .next ({ t with s := s, g := t'.g }.ctrPulse .gx uid)
    | _, _, _, _ => t.badOperand (.emit f)) s

end Sys2Proof.Machine
end

