-- ==== Sys2Proof/Machine/SaveBytes.lean ====
section
/-! DEFINITION. Save images (spec 16 R390 to R392): what they hold, and where a die's save area has room for one. -/

namespace Sys2Proof.Machine

/-! Contents (R391). R391 gives the parts, their sizes and what each holds; DESIGN CHOICE (log 42): the parts follow one another in
its order, the fields of a part little-endian in the order of these definitions, those of a length that varies last; the formats of an
array's planes, for which its 384 KiB have no room, stand in the header. What is not laid out holds free values. -/

/-- Bytes whose values no rule gives. -/
def freeBytes (seed at_ n : Nat) : List Byte := (List.range n).map fun i => Config.saveByte seed (at_ + i)

/-- A part of `n` bytes: what is laid out, then free values. -/
def imagePart (seed at_ n : Nat) (bs : List Byte) : List Byte := bs.take n ++ freeBytes seed (at_ + bs.length) (n - bs.length)

/-- Words of a file or an array. -/
def wordBytes (l : List Word) : List Byte := l.flatMap fun w => leBytes 4 w.toNat

/-- A number, of either sign, in 4 bytes; an optional one, one more than it is, or 0. -/
def intBytes (x : Int) : List Byte := leBytes 4 (BitVec.ofInt 32 x).toNat
def optBytes (n : Nat) (x : Option Nat) : List Byte := leBytes n ((x.map fun v => v + 1).getD 0)
def flagBytes (l : List Bool) : List Byte := l.flatMap fun b => leBytes 1 (if b then 1 else 0)

/-- The header, with the formats of the array that the workgroup owns: its check word is a free value. -/
def Workgroup.header (g : Workgroup) (ws : List Warp) (a : Option MatArray) : List Byte :=
  let next := (ws.filter fun w => w.nextReg.isSome).length
  let fmt (f : MatArray → Plane) : List Byte := optBytes 4 (a.bind fun x => (f x).fmt)
  [g.launch, g.w, g.d, g.t, next, g.clmember, ws.length, g.alloc].flatMap (leBytes 8) ++
    fmt (fun x => x.active) ++ fmt (fun x => x.shadow)

/-- The fault for which a requester is parked (R46, R53). -/
def Park.fields (p : Option Park) : List Byte :=
  match p with
  | none => leBytes 1 0
  | some p => leBytes 1 1 ++ [p.ctx, p.access, p.ftype, p.level, p.home, p.side].flatMap (leBytes 1) ++ leBytes 2 p.asid ++
      leBytes 4 p.seq ++ leBytes 8 p.va.toNat ++ leBytes 8 p.tick ++ optBytes 1 p.answer

/-- An entry of a path table, with its barrier state. -/
def Path.fields (p : Path) (width : Nat) : List Byte :=
  let m (x : LaneMask) : List Byte := leBytes (width / 8) x.toNat
  let kind : List Byte := match p.kind with
    | .ready => leBytes 2 0
    | .join r => leBytes 2 1 ++ m r
    | .bar .bar => leBytes 2 2
    | .bar .barc => leBytes 2 3
    | .bar .bard => leBytes 2 4
    | .bar (.next d) => leBytes 1 5 ++ leBytes 1 d
  leBytes 8 p.pc.toNat ++ m p.mask ++ kind ++ Park.fields p.park

/-- A trap that is held. -/
def HeldTrap.fields (h : HeldTrap) : List Byte :=
  leBytes 1 h.cause ++ leBytes 8 h.src.toNat ++ leBytes 8 h.addr.toNat ++ leBytes 4 h.imm.toNat

/-- The fields of a warp: its place, PC and masks; its modes and trap registers; what it waits for. A FUSE that waits is saved as not
executed (R180), so that it leaves no state. -/
def Warp.placeFields (w : Warp) : List Byte :=
  ([w.width, w.famOff, w.warpid, w.splitIdx, w.col, w.pair].flatMap (leBytes 1)) ++ leBytes 2 w.row0 ++ leBytes 8 w.pc.toNat ++
    [w.live, w.helper, w.exec].flatMap fun m => leBytes 16 m.toNat
def Warp.trapFields (w : Warp) : List Byte :=
  flagBytes [w.running, w.handler, w.boundary, w.trapNap.isSome] ++ leBytes 16 w.trapExec.toNat ++
    ([w.mode, w.cause, w.trapimm].flatMap fun x => leBytes 4 x.toNat) ++
    [w.trappc, w.trapaddr, w.trapsrc, w.trapNap.getD 0].flatMap fun x => leBytes 8 x.toNat
def Warp.waitFields (w : Warp) : List Byte :=
  Park.fields w.block ++ leBytes 1 w.paths.length ++ (w.paths.flatMap fun p => p.fields w.width) ++
    leBytes 1 w.held.length ++ w.held.flatMap HeldTrap.fields
def Warp.fields (w : Warp) : List Byte := w.placeFields ++ w.trapFields ++ w.waitFields

/-- The registers of a warp: the scalar file, the rectangle by register and lane, each lane's STO state. -/
def Warp.fileBytes (w : Warp) (g : Workgroup) : List Byte :=
  let lanes := (List.range w.width).map fun l => w.famOff + l
  wordBytes ((List.range g.sr).map fun r => storeGet 0 w.sregs r) ++
    wordBytes ((List.range g.k).flatMap fun r => lanes.map fun l => storeGet 0 g.vregs (l * 1024 + r)) ++
    wordBytes (lanes.map fun l => storeGet (g.seedOf l) g.lfsr l)

/-- A plane as f32 cells, by row and column. -/
def Plane.cells (p : Plane) : List Word :=
  let cols := (List.range 128).map p.column
  (List.range 128).flatMap fun k => cols.map fun c =>
    BitVec.ofNat 32 (fencode fmtF32 .rne false false 0 (c.getD k (FVal.ofInt false 0 0))).1

/-- The matrix array of an owner. -/
def MatArray.imageBytes (a : MatArray) : List Byte :=
  wordBytes (a.active.cells ++ a.shadow.cells ++ (List.range 65536).map fun i => storeGet 0 a.acc i)

/-- The copy of a nest's table (R322). -/
def Nest.fields (n : Nest) : List Byte :=
  [n.abase, n.wbase, n.wstr, n.ostr, n.astr, n.seed, n.accb, n.rows, n.drows, n.ofmt, n.fexp].flatMap (leBytes 4) ++ leBytes 8 n.obase ++
    intBytes n.ascl ++ intBytes n.wscl ++ intBytes n.oscl ++ flagBytes [n.oglob, n.sat, n.fixed] ++
    n.levels.flatMap fun l => leBytes 4 l.count ++ intBytes l.da ++ intBytes l.dw ++ intBytes l.dOut ++ intBytes l.dacc ++ leBytes 1 l.events

/-- What a job that is kept does: a nest, or a collective with its match; another one has not started, and its card says it. -/
def JobKind.fields (k : JobKind) : List Byte :=
  match k with
  | .nest n a w r i => leBytes 1 1 ++ leBytes 4 a ++ leBytes 4 w ++ leBytes 1 r ++ flagBytes [i] ++ n.fields
  | .coll c n => leBytes 1 2 ++ leBytes 8 n ++ leBytes 2 c.set ++ leBytes 1 c.kind ++ leBytes 8 c.src ++ leBytes 8 c.dst
  | _ => leBytes 1 0

/-- A checkpointed job (R46, R322, R328): issuing warp, PC, card, the six indices, phase, STO state, the place of its next chunk, the
bytes that are left of it, its latch and barrier, what it does, the fault that it waits for. -/
def Job.fields (j : Job) : List Byte :=
  leBytes 8 j.warp ++ leBytes 8 j.pc.toNat ++ leBytes 8 j.card.toNat ++
    ((List.range 6).flatMap fun i => leBytes 4 ((j.idx.getD []).getD i 0)) ++ leBytes 4 j.phase ++ leBytes 4 j.sto.toNat ++
    optBytes 8 j.pos ++ leBytes 8 (j.imgs.flatten.length) ++ flagBytes [j.started] ++
    leBytes 8 ((j.latch.map fun l => l.va.toNat).getD 0) ++ optBytes 8 (j.latch.map fun l => l.value) ++ optBytes 4 j.bar ++ leBytes 4 j.seq ++
    Park.fields j.park ++ j.kind.fields

/-- Bytes of a workgroup's save image (R391). -/
def State.saveBytes (s : State) (id : Nat) (g : Workgroup) : Nat :=
  let ws := (s.warpsOf id).map fun e => 256 + 4 * g.sr + 4 * g.k * e.2.width + 4 * e.2.width
  let jobs := (s.jobs.filter fun e => e.2.wg == id).length
  let owns := decide ((s.array g.core).owner = some id) || (mapFind s.savedArrays id).isSome
  256 + ws.foldl (· + ·) 0 + g.alloc + (if owns then 393216 else 0) + 512 * jobs

/-- The image of a workgroup whose warps are `ws`. -/
def State.imageBytes (s : State) (id : Nat) (g : Workgroup) (ws : List Warp) : List Byte :=
  let seed := s.freshCount
  let add (acc part : List Byte) : List Byte := acc ++ part
  let own := if (s.array g.core).owner = some id then some (s.array g.core) else none
  let b := imagePart seed 0 256 (g.header ws own)
  let b := ws.foldl (fun b w => add (add b (imagePart seed b.length 256 w.fields)) (w.fileBytes g)) b
  let b := add b ((List.range g.alloc).map fun o => storeGet 0 g.scratch o)
  let b := add b ((own.map MatArray.imageBytes).getD [])
  (s.jobs.filter fun e => e.2.wg == id).foldl (fun b e => add b (imagePart seed b.length 512 e.2.fields)) b

/-! Places -/

/-- The runs between `lo` and `hi` that a list of runs, in rising order, leaves free. -/
def freeRuns (lo hi : Nat) : FMap Nat → List (Nat × Nat)
  | [] => if lo < hi then [(lo, hi - lo)] else []
  | (a, n) :: r => (if lo < a then [(lo, a - lo)] else []) ++ freeRuns (max lo (a + n)) hi r

/-- The lowest `n` bytes of a list of runs. -/
def takeRuns : Nat → List (Nat × Nat) → Option (List (Nat × Nat))
  | 0, _ => some []
  | _ + 1, [] => none
  | n + 1, (a, m) :: r => if n + 1 ≤ m then some [(a, n + 1)] else (takeRuns (n + 1 - m) r).map fun l => (a, m) :: l

/-- Where the next image of a die goes: the lowest free bytes of its save area; none when it has not that many, or when they do not
lie in memory that the part may write (R415). -/
def State.imagePlace (s : State) (die n : Nat) : Option (List (Nat × Nat)) :=
  let lo := s.reg die 0x10300
  let hi := lo + s.reg die 0x10308
  let used := s.wgs.flatMap fun e => if e.2.die = die then (e.2.image.map fun i => i.runs).getD [] else []
  (takeRuns n (freeRuns lo hi (used.foldl (fun m p => mapPut m p.1 p.2) []))).filter fun l =>
    l.all fun p => paOpen s.attic s.window p.1 && paOpen s.attic s.window (p.1 + p.2 - 1) && p.1 / 2 ^ 40 == (p.1 + p.2 - 1) / 2 ^ 40

/-- The lines of runs. -/
def runLines (l : List (Nat × Nat)) : List Nat :=
  l.flatMap fun p => (List.range ((p.1 + p.2 + 127) / 128 - p.1 / 128)).map fun k => p.1 / 128 + k

/-- Whether runs can be read or written now: their homes are live, and no line of them is on its way (log 31). -/
def State.runsFree (s : State) (l : List (Nat × Nat)) : Bool :=
  (runLines l).all fun x => !s.paBusy (128 * x) && !(paHomed (128 * x) && s.isOffline (homeOf x))

/-- The accesses to the lines of an image: requester class 4 (R390). -/
def State.imageTouch (s : State) (l : List (Nat × Nat)) (write : Bool) : State :=
  (runLines l).foldl (fun s x => s.homeTouch none (128 * x) 4 write) s

/-- Write bytes to runs. -/
def State.writeRuns (s : State) : List (Nat × Nat) → List Byte → State
  | [], _ => s
  | p :: r, bs => (State.writeBytes (p.2 / 128 + 2) s p.1 (bs.take p.2)).writeRuns r (bs.drop p.2)

/-- Write an image (R390). -/
def State.putImage (s : State) (i : SaveImage) : State :=
  ({ s.imageTouch i.runs true with freshCount := s.freshCount + 1 } : State).writeRuns i.runs i.bytes

/-- Whether an image is as it was written, so that its check word matches (R392). -/
def State.imageOk (s : State) (i : SaveImage) : Bool :=
  (i.runs.flatMap fun p => s.readBytes (p.2 / 128 + 2) p.1 p.2) == i.bytes

end Sys2Proof.Machine
end

