-- ==== Sys2Proof/Machine/Place.lean ====
section
/-! DEFINITION. Placement, pre-emption and the end of launches (spec 14 R332, R335, R336, 03 R60 to R67, 07 R155 to R161,
R180, R181, 16 R387, R389 to R392). -/

namespace Sys2Proof.Machine

/-! Making a workgroup -/

/-- Whether a die takes part in placement: it is live and has booted, is not under warm reset, and nothing has stopped
the module. -/
def State.placing (s : State) (die : Nat) : Bool :=
  !s.isOffline die && !s.mdl.stopped && !s.mdl.fenced.contains die && !s.resting die &&
    (match s.mdl.warm with
     | some r => r.die != die
     | none => true)

/-- The fragments of a workgroup of a frame job's launch (R366), by family lane. -/
def waveFrags (lanes : List (Option Frag)) (base n : Nat) : FMap Frag :=
  (List.range n).filterMap fun i => ((lanes[base + i]?).getD none).map fun f =>
    (i, { f with quad := f.quad.map fun q => q - base })

/-- A wave's masks (R366): live the fragments, helper the helper lanes. -/
def Warp.asWave (w : Warp) (fr : FMap Frag) : Warp :=
  let sel (p : Frag → Bool) : LaneMask := laneMaskOf ((List.range w.width).filter fun l =>
    match mapFind fr (w.famOff + l) with
    | some f => p f
    | none => false)
  let live := sel fun f => !f.help
  let helper := sel fun f => f.help
  { w with live := live, helper := helper, exec := live ||| helper
           running := decide (live ||| helper ≠ 0) }

/-- Warps of a new workgroup, one for each place (R159, R160). -/
def State.addWarps (s : State) (wg : Nat) (l : Launch) (wave : Option (FMap Frag)) : List Spot → Nat → State
  | [], _ => s
  | p :: r, i =>
    let (s, id) := s.newUid
    let w := Warp.create wg l.image.width (i * l.image.width) i p.pair p.col p.row p.slots (l.image.base + l.image.entry)
      l.param id s.clock
    let w := match wave with
      | some fr => w.asWave fr
      | none => w
    State.addWarps { s with warps := mapPut s.warps id w } wg l wave r (i + 1)

/-- Ask for the carve-out that a core's allocations need (R62): whether it has to grow. -/
def State.growCarve (s : State) (core : Nat) : State × Bool :=
  let k := s.core core
  let target := carveOf (gransHi (s.gransOn core))
  if k.carve < target then (s.setCore core { k with resize := some ⟨target⟩ }, true) else (s, false)

/-- Give a core the region table of a context that it has no workgroup of (R124). -/
def State.regionsFor (s : State) (core : Nat) (c : Ctx) : State :=
  if s.wgs.any fun e => e.2.core == core && e.2.resident && (s.launch e.2.launch).ctx.slot == c.slot then s
  else s.coreRegions core c

/-- Place one workgroup (R153 to R161). -/
def State.makeWg (s : State) (lid die rank d w : Nat) (f : Fit) : State :=
  let l := s.launch lid
  let i := l.image
  let s := (s.regionsFor f.core l.ctx).scratchNew f.core f.gran i.grans
  let (s, id) := s.newUid
  let wave := match l.purpose with
    | .frame fd => ((s.unit fd).frame).map fun j => waveFrags j.lanes (w * (i.nwarps * i.width)) (i.nwarps * i.width)
    | _ => none
  let g : Workgroup :=
    { launch := lid, die := die, core := f.core, rank := rank, d := d, w := w, t := 0, clmember := w % i.cluster
      width0 := i.width, nwarps := i.nwarps, k := i.vregs, sr := i.sregs, alloc := i.grans * 4096, gran := f.gran
      scratch := [], vregs := [], lfsr := [], frags := wave.getD [], active := s.tick, phase := .placed, killed := none
      order := id, image := none }
  let s : State := { s with wgs := mapPut s.wgs id g }
  let (s, grows) := s.growCarve f.core
  let s : State := { s with wgs := mapPut s.wgs id { g with phase := if grows then .growing else .placed } }
  (s.addWarps id l wave f.spots 0).settle id

/-- Place a workgroup or the members of a cluster from index `w` up (R155). -/
def State.makeCluster (s : State) (lid die rank d : Nat) : Nat → List (Fit × CoreUse) → State
  | _, [] => s
  | w, e :: r => State.makeCluster (s.makeWg lid die rank d w e.1) lid die rank d (w + 1) r

/-! Order of placement -/

/-- The launches with a span on a die, in the order of R335: priority, then acceptance. -/
def State.inOrder (s : State) (die : Nat) : List (Nat × Launch) :=
  let ls := s.launches.filter fun e => !e.2.suspended && (e.2.spans.any fun x => x.die == die) && !s.fwdPending e.1 die
  (List.range 8).flatMap fun p => ls.filter fun e => e.2.prio + p == 7

/-- A launch's span on a die. -/
def Launch.span (l : Launch) (die : Nat) : Option Span := l.spans.find? fun x => x.die == die

/-- What is left of a range after the first `c` workgroups (R152). -/
def Range.rest (r : Range) (c nc : Nat) : List Range :=
  if r.lo + c < r.hi then [{ r with lo := r.lo + c }]
  else if 0 < r.more then [{ r with d := r.d + r.stride, lo := 0, hi := nc, more := r.more - 1 }]
  else []

/-! Co-resident launches (R157) -/

/-- What a trial has placed: die, rank, combination, first index, cores. -/
structure Planned where
  die : Nat
  rank : Nat
  d : Nat
  w : Nat
  fits : List (Fit × CoreUse)
  deriving DecidableEq, Repr

/-- Try to place every cluster of the ranges of a die. -/
def State.planRanges (s : State) (i : Image) (die nc : Nat) :
    Nat → List Range → Trial → List Planned → Option (Trial × List Planned)
  | _, [], t, acc => some (t, acc)
  | 0, _ :: _, _, _ => none
  | fuel + 1, r :: rs, t, acc =>
    match s.chooseCores t die i with
    | none => none
    | some l =>
      State.planRanges s i die nc fuel (r.rest i.cluster nc ++ rs) (addTrial t l) (acc ++ [⟨die, r.rank, r.d, r.lo, l⟩])

/-- Deal batches to one die while they fit (R152, R334). DESIGN CHOICE (log 91): R157 leaves the dealing of a co-resident launch open; each
die is filled once, in ascending rank, while whole batches fit. -/
def State.planBatches (s : State) (l : Launch) (x : Span) :
    Nat → Nat → Trial → List Planned → Nat × Trial × List Planned
  | 0, nxt, t, acc => (nxt, t, acc)
  | fuel + 1, nxt, t, acc =>
    let nc := levelProduct l.levels 2
    if nc ≤ nxt then (nxt, t, acc)
    else
      let hi := min nc (nxt + batchSize l.image.cluster)
      match s.planRanges l.image x.die nc 65 [⟨x.rank, 0, nxt, hi, 0, 1⟩] t acc with
      | none => (nxt, t, acc)
      | some (t, acc) => s.planBatches l x fuel hi t acc

/-- The places of every workgroup of a co-resident launch at once; none when they do not all fit. -/
def State.planCoop (s : State) (l : Launch) : Option (List Planned) :=
  let nc := levelProduct l.levels 2
  if l.levels.any fun e => e.1 == 1 then
    (l.spans.foldl (fun (r : Option (Trial × List Planned)) x => r.bind fun a =>
      s.planRanges l.image x.die nc 6145 x.todo a.1 a.2) (some ([], []))).map fun r => r.2
  else
    let (nxt, _, acc) := l.spans.foldl (fun (r : Nat × Trial × List Planned) x =>
      s.planBatches l x (nc + 1) r.1 r.2.1 r.2.2) (0, [], [])
    if nc ≤ nxt then some acc else none

/-- Place a co-resident launch as a whole. -/
def State.placeCoop (s : State) (lid : Nat) (ps : List Planned) : State :=
  let l := s.launch lid
  let s := s.setLaunch lid { l with
    spans := l.spans.map fun x => { x with todo := [], dry := true, since := none, blocking := false }
    nextIdx := levelProduct l.levels 2 }
  ps.foldl (fun s p => s.makeCluster lid p.die p.rank p.d p.w p.fits) s

/-! Restore -/

/-- Shift the warps of one pair down to the first rows where all of them fit (R181): the new places. -/
def fitPair (u : CoreUse) (k : Nat) (ws : List (Nat × Warp)) (pair : Nat) : Option (List (Nat × Spot) × CoreUse) :=
  let lo := ws.foldl (fun m e => min m e.2.row0) 1024
  (List.range 129).findSome? fun r =>
    ws.foldl (fun (acc : Option (List (Nat × Spot) × CoreUse)) e => acc.bind fun a =>
      let row := e.2.row0 - lo + 8 * r
      let u := a.2
      if 1024 < row + k ∨ u.rects.any (fun x => x.meets ⟨pair, e.2.col, e.2.width, row, k⟩) then none
      else (u.slotsAt pair e.2.col e.2.width).map fun sl =>
        (a.1 ++ [(e.1, ⟨pair, e.2.col, row, sl⟩)], u.add ⟨pair, e.2.col, row, sl⟩ e.2.width k)) (some ([], u))

/-- Places on a core for a saved workgroup's warps (R181): its pairs as they are, or exchanged. -/
def fitSaved (u : CoreUse) (k : Nat) (ws : List (Nat × Warp)) : Option (List (Nat × Spot)) :=
  let side (q : Nat) : List (Nat × Warp) := ws.filter fun e => e.2.pair == q
  [(0, 1), (1, 0)].findSome? fun m =>
    (fitPair u k (side 0) m.1).bind fun a => (fitPair a.2 k (side 1) m.2).map fun b => a.1 ++ b.1

/-- Where a core can take a saved workgroup (R181, R303, R328), whose image can be read: its first granule and the warps'
places. -/
def State.restoreFit (s : State) (id : Nat) (g : Workgroup) (core : Nat) : Option (Nat × List (Nat × Spot)) :=
  let u := s.useOf core
  let jobs := (s.jobs.filter fun e => e.2.wg == id).length
  if !(g.image.all fun i => s.runsFree i.runs) ∨ ((mapFind s.savedArrays id).isSome ∧ (s.array core).owner.isSome) ∨ 64 < (s.queueOf core).length + jobs then none
  else
    (u.run (g.alloc / 4096)).bind fun b => (fitSaved u g.k (s.warpsOf id)).map fun p => (b, p)

/-- Give the jobs of a restored workgroup queue entries on their core (R328). -/
def State.requeue (s : State) (core : Nat) : List Nat → State
  | [] => s
  | u :: r =>
    match mapFind s.jobs u with
    | some j =>
      State.requeue { s with jobs := mapPut s.jobs u { j with core := core, saved := false, entry := (s.freeEntry core).getD 0 } } core r
    | none => s.requeue core r

/-- A saved workgroup whose check word does not match is killed, and what was saved of it is gone (R392). -/
def State.dropSaved (s : State) (id : Nat) : State :=
  let s : State := { s with
    jobs := s.jobs.filter fun e => e.2.wg != id
    savedArrays := mapDel s.savedArrays id }
  ((s.modWg id fun g => { g with image := none }).killWg id 0x04).settle id

/-- Put a saved workgroup back on a core (R392). -/
def State.rebuildWg (s : State) (id : Nat) (g : Workgroup) (core gran : Nat) (ps : List (Nat × Spot)) : State :=
  let s := (s.regionsFor core (s.launch g.launch).ctx).scratchNew core gran (g.alloc / 4096)
  let jobs := (s.jobs.filter fun e => e.2.wg == id).map fun e => e.1
  let s := s.requeue core jobs
  let s : State := { s with
    warps := s.warps.map fun e =>
      match ps.find? fun p => p.1 == e.1 with
      | some p => (e.1, { e.2 with pair := p.2.pair, col := p.2.col, row0 := p.2.row, slots := p.2.slots })
      | none => e
    accs := s.accs.map fun e => if e.2.wg = id then (e.1, { e.2 with core := core }) else e
    wgs := mapPut s.wgs id { g with core := core, gran := gran, phase := .placed, active := s.tick - g.active, image := none } }
  let s := match mapFind s.savedArrays id with
    | some a => ({ s with savedArrays := mapDel s.savedArrays id } : State).setArray core a
    | none => s
  let s : State := { s with
    accs := s.accs.map fun e => if e.2.wg = id then (e.1, e.2.tagged (s.core core)) else e
    warps := s.warps.map fun e =>
      if e.2.wg = id then (e.1, e.2.offReplay fun p => p.ftype == 6 && p.answer.isNone && !s.isOffline p.home) else e }
  let (s, grows) := s.growCarve core
  (if grows then s.modWg id fun g => { g with phase := .growing } else s).settle id

/-- Restore a workgroup on a core: its image is read as it was written (R390), and checked (R392). -/
def State.restoreWg (s : State) (id : Nat) (g : Workgroup) (core gran : Nat) (ps : List (Nat × Spot)) : State :=
  match g.image with
  | none => s.rebuildWg id g core gran ps
  | some i =>
    let t := s.imageTouch i.runs false
    if s.imageOk i then t.rebuildWg id g core gran ps else t.dropSaved id

/-- Restore a workgroup on the first core, fewest occupied slots first, that can take it and meets a test (R335). -/
def State.restoreAny (s : State) (ok : Nat → Bool) (id : Nat) : Option State :=
  match mapFind s.wgs id with
  | none => none
  | some g =>
    let cores := ((List.range 96).map fun c => g.die * 96 + c).filter ok
    let byUse := (List.range 65).flatMap fun n => cores.filter fun c => (s.slotsUsed c).length == n
    byUse.findSome? fun c => (s.restoreFit id g c).map fun f => s.restoreWg id g c f.1 f.2

/-- Restore several workgroups, all or none. -/
def restoreAll (ok : Nat → Bool) : List Nat → State → Option State
  | [], s => some s
  | i :: r, s => (s.restoreAny ok i).bind (restoreAll ok r)

/-- Restore a workgroup; those of a co-resident launch together, once all of them are saved (R157, R336). A core that is
being resized takes none (R62). -/
def State.restoreOf (s : State) (e : Nat × Workgroup) : Option State :=
  let ok (c : Nat) : Bool := (s.core c).resize.isNone
  if (s.launch e.2.launch).coop then
    let mine := s.wgs.filter fun x => x.2.launch == e.2.launch && decide (x.2.phase ≠ .ended)
    if mine.all fun x => decide (x.2.phase = .saved) && s.placing x.2.die then restoreAll ok (mine.map fun x => x.1) s else none
  else s.restoreAny ok e.1

/-! The placement step -/

/-- Whether a core of some places is being resized (R62): its placement waits. -/
def State.resizing (s : State) (l : List (Fit × CoreUse)) : Bool := l.any fun e => (s.core e.1.core).resize.isSome

/-- What a launch's next placement on a die comes to: nothing to place; it waits for a resize or for its lowest die; there is no
room; the state after. -/
inductive PlaceRes where
  | nothing
  | held
  | noRoom
  | placed (s : State)
  deriving DecidableEq, Repr

/-- The pre-empted workgroups of a launch on a die, oldest first: they go before what has not been placed (R156). -/
def State.savedOf (s : State) (lid die : Nat) : List (Nat × Workgroup) :=
  s.wgs.filter fun e => e.2.launch == lid && e.2.die == die && (decide (e.2.phase = .saved) || decide (e.2.phase = .draining))

/-- Whether a launch that has waited 100 µs on a die holds a launch back there (R335). -/
def State.heldBack (s : State) (l : Launch) (die : Nat) : Bool :=
  s.launches.any fun b => decide (b.2.order < l.order) && decide (l.prio ≤ b.2.prio) && !b.2.suspended &&
    ((b.2.span die).any fun x => x.blocking)

/-- Try to place the next workgroup of a launch on a die (R335); a co-resident launch is placed as a whole, by the lowest of its dies. -/
def State.tryPlace (s : State) (die lid : Nat) : PlaceRes :=
  let l := s.launch lid
  match l.span die, s.savedOf lid die with
  | none, _ => .nothing
  | some _, e :: _ =>
    if e.2.phase = .draining then .noRoom
    else
      match s.restoreOf e with
      | some t => .placed t
      | none => .noRoom
  | some x, [] =>
    if l.coop then
      if l.lost ∨ (l.nextIdx = levelProduct l.levels 2 ∧ l.spans.all (fun y => y.todo.isEmpty)) then .nothing
      else if l.spans.any fun y => s.fwdPending lid y.die || !s.placing y.die || s.heldBack l y.die then .held
      else
        match s.planCoop l with
        | none => .noRoom
        | some ps =>
          if (l.spans.map fun y => y.die).head? ≠ some die ∨ ps.any fun p => s.resizing p.fits then .held
          else .placed (s.placeCoop lid ps)
    else
      match x.todo with
      | [] => .nothing
      | r :: rs =>
        match s.chooseCores [] die l.image with
        | none => .noRoom
        | some fits =>
          if s.resizing fits then .held
          else
            let nc := levelProduct l.levels 2
            let s := s.setLaunch lid (l.modSpan die fun y =>
              { y with todo := r.rest l.image.cluster nc ++ rs, since := none, blocking := false })
            .placed (s.makeCluster lid die r.rank r.d r.lo fits)

/-- Go through the launches of a die in order (R335): launches that are held back are passed over, the first that fits
is placed, and those that find no room begin to wait; after 100 µs they hold younger ones back. With the state, the launch of which
something is placed. -/
def State.placeNext (die : Nat) : List (Nat × Launch) → List Launch → State → Option Nat × State
  | [], _, s => (none, s)
  | (lid, l) :: r, blockers, s =>
    if blockers.any fun b => decide (b.order < l.order) && decide (l.prio ≤ b.prio) then State.placeNext die r blockers s
    else
      let calm (s : State) : State :=
        s.setLaunch lid ((s.launch lid).modSpan die fun y => { y with since := none, blocking := false })
      let l := s.launch lid
      let on := if (l.span die).any fun x => x.blocking then l :: blockers else blockers
      match s.tryPlace die lid with
      | .placed s => (some lid, calm s)
      | .nothing => State.placeNext die r blockers (calm s)
      | .held => State.placeNext die r on s
      | .noRoom =>
        State.placeNext die r on (s.setLaunch lid (l.modSpan die fun x => { x with since := some (x.since.getD s.tick) }))

/-- The next placement of a die, when it is a restore or a new placement as `saved` says; else those that find no room begin to wait. -/
def State.placeIf (s : State) (die : Nat) (saved : Bool) : State :=
  match State.placeNext die (s.inOrder die) [] s with
  | (none, t) => t
  | (some lid, t) => if (s.savedOf lid die).isEmpty = saved then s else t

/-- The die-spans of a die that have run out, and for whose next workgroup the die has room, ask for a batch (R152, R334). -/
def State.askAll (s : State) (die : Nat) : State :=
  (s.inOrder die).foldl (fun s e =>
    match (s.launch e.1).span die with
    | some x =>
      if x.todo.isEmpty && !x.asked && !x.dry && !e.2.coop && (s.chooseCores [] die e.2.image).isSome then s.askBatch e.1 die else s
    | none => s) s

/-- WORKGROUP_PLACEMENT (R335). -/
def execWorkgroupPlacement (die : Nat) (s : State) : Host.Outcome State Fault Refusal :=
  event (decide (die < 9)) (fun s =>
    if s.placing die then
      (s.askAll die).placeIf die false
    else s) s

/-- WORKGROUP_RESTORE (R156, R181, R392): a pre-empted workgroup whose turn it is goes back to a core. -/
def execWorkgroupRestore (die : Nat) (s : State) : Host.Outcome State Fault Refusal :=
  event (decide (die < 9)) (fun s => if s.placing die then s.placeIf die true else s) s

/-- PLACEMENT_BLOCK_TIMEOUT (R335): a workgroup has waited 100 µs. -/
def execPlacementBlockTimeout (die : Nat) (s : State) : Host.Outcome State Fault Refusal :=
  event (decide (die < 9)) (fun s =>
    { s with launches := s.launches.map fun e => (e.1, e.2.modSpan die fun x =>
        match x.since with
        | some t => if t + 100000 ≤ s.tick then { x with blocking := true } else x
        | none => x) }) s

/-! Carve-outs -/

/-- CARVEOUT_GROW (R63, R64): the lines of the surrendered ways are written back, and the ways become scratch. -/
def execCarveoutGrow (core : Nat) (s : State) : Host.Outcome State Fault Refusal :=
  event true (fun s =>
    let k := s.core core
    match k.resize with
    | none => s
    | some r =>
      let keys := (k.l1.filter fun e => decide (16 - r.target ≤ e.1 % 16) && decide (e.1 % 16 < 16 - k.carve)).map fun e => e.1
      let s := keys.foldl (fun s x => s.l1Evict core x) s
      let s := s.setCore core { s.core core with carve := r.target, resize := none }
      { s with wgs := s.wgs.map fun e =>
          if e.2.core = core ∧ e.2.phase = .growing then (e.1, { e.2 with phase := .placed }) else e }) s

/-- Whether a placement waits for a core (R62): some launch's next workgroup would go there now, once no resize holds it back. -/
def State.coreWanted (s : State) (core : Nat) : Bool :=
  let die := core / 96
  s.placing die && (s.inOrder die).any fun e =>
    match e.2.span die, s.savedOf e.1 die with
    | some _, x :: _ => decide (x.2.phase = .saved) && (s.restoreFit x.1 x.2 core).isSome
    | some x, [] =>
      if e.2.coop then ((s.planCoop e.2).getD []).any fun p => p.fits.any fun f => f.1.core == core
      else !x.todo.isEmpty && ((s.chooseCores [] die e.2.image).getD []).any fun f => f.1.core == core
    | none, _ => false

/-- CARVEOUT_SHRINK (R62, R66): when nothing waits for the core, ways without an allocation return to L1 empty. -/
def execCarveoutShrink (core : Nat) (s : State) : Host.Outcome State Fault Refusal :=
  event true (fun s =>
    let k := s.core core
    let n := carveOf (gransHi (s.gransOn core))
    if k.resize.isNone ∧ n < k.carve ∧ !s.coreWanted core then s.setCore core { k with carve := n } else s) s

/-! Pre-emption -/

/-- Bytes in use in a die's save area, with the workgroups that are on their way there. -/
def State.saveUsed (s : State) (die : Nat) : Nat :=
  (s.wgs.filter fun e => e.2.die == die && (decide (e.2.phase = .saved) || decide (e.2.phase = .draining))).foldl
    (fun n e => n + s.saveBytes e.1 e.2) 0

/-- Whether a job need not complete before a save (R328): one that is parked, a collective, a nest with no step under way (R322). -/
def Job.keeps (j : Job) : Bool := j.park.isSome || (j.kind.saves && j.imgs.isEmpty)

/-- The jobs of a list, oldest first, that a save keeps: those that need not complete, and those not started that have to wait for
one of them (log 42). -/
def keptJobs : List (Nat × Job) → List (Nat × Job) → List (Nat × Job)
  | [], kept => kept
  | e :: r, kept => keptJobs r (if e.2.keeps || (!e.2.started && kept.any fun k => e.2.behind k.2) then kept ++ [e] else kept)

/-- Whether a workgroup has drained, and its image can be written (R390): every access is performed or parked, every job complete or
kept, and no access of another workgroup to its scratch is outstanding, which would wait for the restore. -/
def State.drained (s : State) (id : Nat) : Bool :=
  let jobs := s.jobs.filter fun e => e.2.wg == id
  let into (p : LaneAcc) : Bool := !p.done && (match p.at_ with
    | .scratch w _ => w == id
    | .pa _ => false)
  !(s.accs.any fun e => !s.parkedAcc e.1 && (e.2.wg == id || e.2.parts.any into)) && ((s.warpsOf id).all fun e => !e.2.midway) &&
    decide ((keptJobs jobs []).length = jobs.length) && !(s.enqs.any fun e => e.2.wg == id) &&
    (match mapFind s.wgs id with
     | some g => (s.imagePlace g.die (s.saveBytes id g)).any s.runsFree
     | none => true)

/-- PC and wait of a path as it is saved: a NAP that waits is saved as not executed (R180, R282). -/
def savedWait (now : Nat) (pc : Dword) (wake : Nat) (nap : Bool) : Dword × Nat :=
  if wake ≤ now then (pc, 0) else if nap then (pc - 8, 0) else (pc, wake)

/-- A warp as it is saved (R53, R78, R180): its counters are 0, and a NAP that waits is saved as not executed, so that it waits its
full count again (R282); the one that a handler has interrupted, too. -/
def Warp.saved (w : Warp) (now : Nat) : Warp :=
  let run := savedWait now w.pc w.wake w.nap
  { w with slots := [], pend := [], fuse := none, stall := none, fetched := [], notBefore := 0
           pc := if w.running then run.1 else w.pc
           wake := run.2
           nap := false
           trapWake := if now < w.trapWake ∧ w.trapNap.isNone then w.trapWake else 0
           trapNap := if now < w.trapWake then w.trapNap else none
           block := w.block.bind Park.saved
           offl := w.offl.map fun o => { o with park := o.park.bind Park.saved }
           paths := w.paths.map fun p =>
             let v := savedWait now p.pc p.wake p.nap
             { p with pc := v.1, wake := v.2, nap := false, park := p.park.bind Park.saved } }

/-- Save a drained workgroup (R390): its image is written, and its slots, rectangles, granules and array are free. -/
def State.saveWg (s : State) (id : Nat) : State :=
  match mapFind s.wgs id with
  | none => s
  | some g =>
    let ids := (s.warpsOf id).map fun e => e.1
    let image := (s.imagePlace g.die (s.saveBytes id g)).map fun l =>
      (⟨l, s.imageBytes id g ((s.warpsOf id).map fun e => e.2.saved s.clock)⟩ : SaveImage)
    let s : State := match image with
      | some i => s.putImage i
      | none => s
    let s := if (s.array g.core).owner = some id then
        ({ s with savedArrays := mapPut s.savedArrays id (s.array g.core) } : State).setArray g.core MatArray.zero else s
    let s := s.forgetAll g.die (ids ++ (s.jobs.filter fun e => e.2.wg == id).map fun e => e.1)
    { s with
      wgs := mapPut s.wgs id { g with phase := .saved, image := image, active := s.tick - g.active }
      warps := s.warps.map fun e => if e.2.wg = id then (e.1, e.2.saved s.clock) else e
      jobs := s.jobs.map fun e => if e.2.wg = id then (e.1, { e.2 with saved := true, park := e.2.park.bind Park.saved }) else e
      acqs := s.acqs.filter fun a => !ids.contains a.warp }

/-- The machine without some workgroups, for a trial: their cores' room, arrays and queue entries are free. -/
def State.less (s : State) (ids : List Nat) : State :=
  { s with wgs := s.wgs.filter fun e => !ids.contains e.1
           jobs := s.jobs.filter fun e => !ids.contains e.2.wg
           arrays := s.arrays.filter fun e => !(e.2.owner.any fun o => ids.contains o) }

/-- The workgroups that a launch of priority `p` may displace (R336), the first victim first: lowest priority, then
youngest. -/
def State.victims (s : State) (p : Nat) (sel : Workgroup → Bool) : List (Nat × Workgroup) :=
  let vs := (s.wgs.filter fun e => (decide (e.2.phase = .placed) || decide (e.2.phase = .growing)) && sel e.2 &&
    decide ((s.launch e.2.launch).prio < p)).reverse
  (List.range p).flatMap fun q => vs.filter fun e => (s.launch e.2.launch).prio == q

/-- A victim with all that must go with it: the workgroups of a co-resident launch go together (R336). -/
def State.together (s : State) (e : Nat × Workgroup) : List Nat :=
  if (s.launch e.2.launch).coop then (s.wgs.filter fun x => x.2.launch == e.2.launch && (decide (x.2.phase = .placed) || decide (x.2.phase = .growing))).map fun x => x.1
  else [e.1]

/-- The victims from the front of a list whose removal lets a test succeed. -/
def State.untilFits (s : State) (test : List Nat → Bool) : List (Nat × Workgroup) → List Nat → Option (List Nat)
  | [], _ => none
  | e :: r, gone =>
    if gone.contains e.1 then s.untilFits test r gone
    else
      let gone := gone ++ s.together e
      if test gone then some gone else s.untilFits test r gone

/-- The victims on one core that make room for one workgroup (R336): `fits` tells whether it fits on a core of a trial state. -/
def State.victimsOn (s : State) (p : Nat) (fits : State → Nat → Bool) (core : Nat) : Option (List Nat) :=
  s.untilFits (fun gone => fits (s.less gone) core) (s.victims p fun g => g.core == core) []

/-- The victims on the core of the youngest workgroup of the lowest priority among those that would do (R336). -/
def State.victimsFor (s : State) (die p : Nat) (fits : State → Nat → Bool) : Option (List Nat) :=
  let can := ((List.range 96).map fun c => die * 96 + c).filter fun c => (s.victimsOn p fits c).isSome
  match (s.victims p fun g => can.contains g.core).head? with
  | some e => s.victimsOn p fits e.2.core
  | none => none

/-- Whether an image fits on a core. -/
def Image.fitsOn (i : Image) (s : State) (core : Nat) : Bool := (i.fit core (s.useOf core)).isSome

/-- The cores of a hardware cluster that have no room for a workgroup of an image, and would have once victims are gone. -/
def State.clearable (s : State) (p : Nat) (i : Image) (cores : List Nat) : List Nat :=
  cores.filter fun c => !i.fitsOn s c && (s.victimsOn p i.fitsOn c).isSome

/-- The victims on `n` of some cores (R336): each time those on the core of the youngest workgroup of the lowest priority. -/
def State.clearCores (s : State) (p : Nat) (i : Image) : Nat → List Nat → Option (List Nat)
  | 0, _ => some []
  | n + 1, cores =>
    match (s.victims p fun g => cores.contains g.core).head? with
    | none => none
    | some e =>
      (s.victimsOn p i.fitsOn e.2.core).bind fun l =>
        (s.clearCores p i n (cores.filter (· != e.2.core))).map fun m => l ++ m

/-- The victims for a cluster (R155, R336): in the hardware cluster of the youngest workgroup of the lowest priority among those whose
removal lets it fit. -/
def State.clusterVictims (s : State) (die p : Nat) (i : Image) : Option (List Nat) :=
  let hw (h : Nat) : List Nat := (List.range 8).map fun c => die * 96 + 8 * h + c
  let need (h : Nat) : Nat := i.cluster - ((hw h).filter (i.fitsOn s)).length
  let can := (List.range 12).filter fun h => decide (need h ≤ (s.clearable p i (hw h)).length)
  let cores := can.flatMap fun h => s.clearable p i (hw h)
  match (s.victims p fun g => cores.contains g.core).head? with
  | none => none
  | some e =>
    let h := e.2.core % 96 / 8
    s.clearCores p i (need h) (s.clearable p i (hw h))

/-- The victims for a launch that finds no room on a die (R336), for a new workgroup or for one that has been pre-empted. -/
def State.chooseVictims (s : State) (die lid : Nat) (l : Launch) : Option (List Nat) :=
  let i := l.image
  let onSpans := s.victims l.prio fun g => l.spans.any fun x => x.die == g.die
  match s.savedOf lid die with
  | e :: _ =>
    if e.2.phase = .draining then none
    else if l.coop then s.untilFits (fun gone => ((s.less gone).restoreOf e).isSome) onSpans []
    else s.victimsFor die l.prio fun t c => (t.restoreFit e.1 e.2 c).isSome
  | [] =>
    if l.coop then s.untilFits (fun gone => ((s.less gone).planCoop l).isSome) onSpans []
    else if i.cluster = 1 then s.victimsFor die l.prio i.fitsOn
    else s.clusterVictims die l.prio i

/-- Stop workgroups for a save, if their dies' save areas have room (R336, R390). -/
def State.preempt (s : State) (ids : List Nat) : Option State :=
  let s' : State := { s with wgs := s.wgs.map fun e => if ids.contains e.1 then (e.1, { e.2 with phase := .draining }) else e }
  let dies := (ids.filterMap fun i => (mapFind s.wgs i).map fun g => g.die).eraseDups
  if dies.all fun d => decide (s'.saveUsed d ≤ s.reg d 0x10308) then some s' else none

/-- The workgroups of a launch that finds no room on a die displace others (R336). -/
def State.preemptFor (s : State) (die : Nat) (e : Nat × Launch) : Option State :=
  match s.tryPlace die e.1 with
  | .noRoom => (s.chooseVictims die e.1 e.2).bind s.preempt
  | _ => none

/-- PREEMPTION (R336, R390): a drained workgroup is saved; else the launch that comes first among those that find no room and have
victims displaces them. -/
def execPreemption (die : Nat) (s : State) : Host.Outcome State Fault Refusal :=
  event (decide (die < 9)) (fun s =>
    let stopped := s.wgs.filter fun e => e.2.die == die && decide (e.2.phase = .draining)
    match stopped.find? fun e => s.drained e.1 with
    | some d => s.saveWg d.1
    | none =>
      if stopped = [] && s.placing die && s.reg die 0x10308 != 0 then
        ((s.inOrder die).findSome? (s.preemptFor die)).getD s
      else s) s

/-! Ends -/

/-- Whether a launch has ended (R153, R332). -/
def State.launchOver (s : State) (lid : Nat) (l : Launch) : Bool :=
  let mine (wg : Nat) : Bool := match mapFind s.wgs wg with
    | some g => g.launch == lid
    | none => false
  !l.suspended && l.spans.all (fun x => x.todo.isEmpty && !x.asked) && l.again.isEmpty &&
    (l.lost || l.nextIdx == levelProduct l.levels 2) &&
    l.batches.all (fun b => b.left == 0) &&
    s.wgs.all (fun e => e.2.launch != lid || decide (e.2.phase = .ended)) &&
    !(s.ctl.any fun m => match m.body with
      | .launchFwd x | .batchReq x | .batchGrant x _ _ | .batchMirror x _ _ _ => x == lid
      | _ => false) &&
    !(s.accs.any fun e => !e.2.kind.isPref && mine e.2.wg) && !(s.jobs.any fun e => mine e.2.wg)

/-- The status word of a launch (R332). -/
def Launch.status (l : Launch) : Nat :=
  let (d, c) := l.kill.getD (0, 0)
  statusWord (if l.lost then 8 else if l.kill.isSome then 7 else 0) d c

/-- A launch ends (R332): its latch is updated, and what follows it happens. -/
def State.endLaunch (s : State) (lid : Nat) (l : Launch) : State :=
  let s : State := { s with launches := mapDel s.launches lid, wgs := s.wgs.filter fun e => e.2.launch != lid }
  (s.latchRelease l.leader l.ctx l.latch l.status .launch).launchEnds l.leader l.purpose l.status

/-- LAUNCH_COMPLETION (R153, R332): a launch ends, or the update of a completion latch is tried again. -/
def execLaunchCompletion (uid : Nat) (s : State) : Host.Outcome State Fault Refusal :=
  event true (fun s =>
    match mapFind s.upds uid with
    | some u => if u.park.isNone then s.latchTry uid u else s
    | none =>
      match mapFind s.launches uid with
      | some l => if s.launchOver uid l then s.endLaunch uid l else s
      | none => s) s

/-! Traps at boundaries -/

/-- HELD_TRAP_DELIVERY (R387): the oldest held trap. -/
def execHeldTrapDelivery (warp : Nat) (s : State) : Host.Outcome State Fault Refusal :=
  event true (fun s =>
    match mapFind s.warps warp with
    | none => s
    | some w =>
      match mapFind s.wgs w.wg, w.held with
      | some g, h :: r =>
        if w.running ∧ !w.handler ∧ w.block.isNone ∧ !w.midway ∧ g.phase = .placed then
          Thread.takeTrap ⟨s, warp, { w with held := r }, g⟩ h.cause h.addr h.imm w.pc h.src true
        else s
      | _, _ => s) s

/-- The path of a warp that the watchdog's trap goes to (R389), as the running one. -/
def Warp.watched (w : Warp) (now : Nat) : Warp :=
  if w.running then w
  else
    let v := w.switch now
    if v.running then v
    else
      match (List.range w.paths.length).foldl (fun (best : Option (Nat × Path)) i =>
          match w.paths[i]?, best with
          | some p, none => some (i, p)
          | some p, some b => if p.pc.toNat < b.2.pc.toNat then some (i, p) else best
          | none, b => b) none with
      | some (i, p) => { w with paths := listRemove w.paths i }.runPath p now
      | none => w

/-- WORKGROUP_WATCHDOG (R389); between the steps of a REL it is held until the REL ends (log 41). -/
def execWorkgroupWatchdog (wg : Nat) (s : State) : Host.Outcome State Fault Refusal :=
  event true (fun s =>
    match mapFind s.wgs wg with
    | none => s
    | some g =>
      let n := s.reg g.die 0x80100 % 2 ^ 32
      if g.phase = .placed ∧ n ≠ 0 ∧ g.active + n * 1000 ≤ s.tick then
        let ws := (s.warpsOf wg).filter fun e => !e.2.ended
        match (List.range 33).findSome? fun k => ws.find? fun e => e.2.warpid == k with
        | some e =>
          let g := { g with active := s.tick }
          if e.2.midway then ({ s with wgs := mapPut s.wgs wg g } : State).boundaryTrap wg e.1 0x15 e.2.pc 0 0
          else
            let w := e.2.watched s.clock
            Thread.takeTrap ⟨s, e.1, w, g⟩ 0x15 0 0 w.pc w.pc false
        | none => s
      else s) s

end Sys2Proof.Machine
end

