-- ==== Sys2Proof/Machine/Frame.lean ====
section
/-! DEFINITION. Frame jobs (spec 15 R359 to R366): descriptors, tile lists, Skim, raster, fragment waves. Each step of a job
is whole: a fault parks it with nothing of that step written (log 18). -/

namespace Sys2Proof.Machine

/-! Descriptors (R360) -/

/-- The entry of a pixel that shows no primitive (R361). -/
def clearedEntry : Nat := 0xFFFFFFFF7F800000

/-- Fields of a descriptor. -/
def fjType (d : List Byte) : Nat := fieldAt d 0 1
def fjW (d : List Byte) : Nat := fieldAt d 2 2
def fjH (d : List Byte) : Nat := fieldAt d 4 2
def fjFlags (d : List Byte) : Nat := fieldAt d 6 1
def fjK (d : List Byte) : Nat := fieldAt d 7 1
def fjLatch (d : List Byte) : Dword := dwordAt d 48
def fjNrec (d : List Byte) : Nat := fieldAt d 56 4
def fjNoQuad (d : List Byte) : Bool := bitOf (fjFlags d) 1
def fjKernel (d : List Byte) : Dword := dwordAt d (if fjType d = 3 then 40 else 32)
def fjParam (d : List Byte) : Dword := dwordAt d (if fjType d = 3 then 56 else 40)

/-- Whether a descriptor is valid (R360). -/
def fjOk (d : List Byte) : Bool :=
  let q (i : Nat) : Nat := fieldAt d i 8
  let va (l : List Nat) : Bool := l.all fun i => q i % 16 == 0
  let mbz (l : List Nat) : Bool := l.all fun i => q i == 0
  let size (n : Nat) : Bool := decide (8 ≤ n) && decide (n ≤ 16384) && n % 8 == 0
  let fl := fjFlags d
  size (fjW d) && size (fjH d) &&
    (match fjType d with
     | 1 => va [8, 16, 24, 32, 40, 48] && mbz [56] && fl == 0 && decide (fjK d ≤ 24)
     | 2 => va [8, 16, 24, 32, 48] && mbz [40] && decide (q 56 < 2 ^ 32) && fl == 0 && fjK d == 0
     | 3 => va [24, 32, 40, 48, 56] && mbz [8, 16] && decide (fl < 32) && fjK d == 0
     | 4 => va [8, 16, 24, 32, 40, 48] && decide (q 56 < 2 ^ 32) && decide (fl < 32) && !bitOf fl 0 && fjK d == 0
     | _ => false)

/-! The running job -/

/-- Put a die's running job into the state. -/
def State.putFrame (s : State) (die : Nat) (j : Option FrameJob) : State := s.setUnit die { s.unit die with frame := j }

/-- A job ends with a status word; its completion follows (R359). -/
def State.endFrame (s : State) (die : Nat) (j : FrameJob) (status : Nat) : State :=
  s.putFrame die (some { j with stage := .ended status, park := none })

/-- The next waiting job starts when no job runs (R359, R360): its context, then its descriptor. -/
def State.startFrame (s : State) (die : Nat) : State :=
  let u := s.unit die
  match u.frame, u.waiting with
  | none, d :: r =>
    let s := s.setUnit die { u with waiting := r }
    match s.readCtx (fieldAt d 1 1) with
    | none => s.count die 0x70040 true
    | some c =>
      let j : FrameJob := { desc := d, ctx := c, stage := .fresh, open_ := [], lanes := [], park := none, seq := 0 }
      if fjOk d then s.putFrame die (some j) else s.endFrame die j (statusWord 3 0 0)
  | _, _ => s

/-- Whether a die's jobs can go on. -/
def State.frameOn (s : State) (die : Nat) : Bool := decide (die < 9) && !s.isOffline die && !s.mdl.stopped && !s.mdl.fenced.contains die && !s.resting die

/-- What a step of a job comes to (R360): an invalid descriptor, record or list ends it; so do an access that is not
permitted and a rejected fault; a fault parks it. -/
def State.frameStep (s : State) (die : Nat) (j : FrameJob) (r : PartIo State) : State :=
  match r with
  | .ok s => s
  | .error .busy => s
  | .error (.bad _) => s.endFrame die j (statusWord 3 0 0)
  | .error .violation => s.endFrame die j (statusWord 7 die 4)
  | .error (.fault access ft lv h va) =>
    match s.partPark 2 die j.ctx j.seq access ft lv h va with
    | .rejected => s.endFrame die j (statusWord 7 die 5)
    | .full => s
    | .parked s p => s.putFrame die (some { j with seq := p.seq, park := some p })

/-- Take a step of the die's job when it is of type `ty`, in a stage that the step begins from, and not parked; a waiting
job of the type is started first. -/
def State.frameTake (s : State) (die ty : Nat) (f : State → FrameJob → State) : State :=
  let s := match (s.unit die).frame, (s.unit die).waiting with
    | none, d :: _ => if fjType d = ty then s.startFrame die else s
    | _, _ => s
  match (s.unit die).frame with
  | some j => if fjType j.desc = ty ∧ j.park.isNone then f s j else s
  | none => s

/-! Visibility buffers and tile lists (R361) -/

/-- The entries of a visibility buffer, or other 8-byte elements, `n` of them. -/
def cutWords (k : Nat) : Nat → List Byte → List Nat
  | 0, _ => []
  | n + 1, bs => leNat (bs.take k) :: cutWords k n (bs.drop k)
def FrameJob.read (j : FrameJob) (s : State) (die : Nat) (va : Dword) (k n : Nat) : PartIo (State × List Nat) :=
  (s.partRead 1 die j.ctx va (k * n)).bind fun r => .ok (r.1, cutWords k n r.2)

/-- Whether a tile list keeps R361. -/
def tilesOk (w h : Nat) : List Nat → Bool
  | [] => true
  | a :: r =>
    decide (a % 65536 < w / 8) && decide (a / 65536 < h / 8) &&
      (match r with | [] => true | b :: _ => decide (a < b)) && tilesOk w h r

/-- The tiles of a job: the list, checked as a whole, or every tile (R361, R366). -/
def FrameJob.tiles (j : FrameJob) (s : State) (die : Nat) (all : Bool) : PartIo (State × List (Nat × Nat)) :=
  let w := fjW j.desc
  let h := fjH j.desc
  let va := dwordAt j.desc 32
  if all && va == 0 then
    .ok (s, (List.range (h / 8)).flatMap fun y => (List.range (w / 8)).map fun x => (x, y))
  else
    (j.read s die va 4 1).bind fun r =>
      let n := r.2.headD 0
      if w / 8 * (h / 8) < n then .error (.bad 0)
      else
        (j.read r.1 die (vaAdd va 4) 4 n).bind fun q =>
          if tilesOk w h q.2 then .ok (q.1, q.2.map fun t => (t % 65536, t / 65536)) else .error (.bad 0)

/-- The address of an entry of VISCUR. -/
def FrameJob.entryVa (j : FrameJob) (x y : Nat) : Dword := vaAdd (dwordAt j.desc 24) (8 * (y * fjW j.desc + x))

/-- The rows of a tile, each by its first pixel. -/
def tileRows (k : Nat × Nat) : List (Nat × Nat) := (List.range 8).map fun i => (8 * k.1, 8 * k.2 + i)

/-- The pixels of some tile rows with their entries of VISCUR: no other entry is read. -/
def FrameJob.tileEntries (j : FrameJob) (die : Nat) :
    List (Nat × Nat) → State → List (Nat × Nat × Nat) → PartIo (State × List (Nat × Nat × Nat))
  | [], s, acc => .ok (s, acc)
  | p :: r, s, acc =>
    (j.read s die (j.entryVa p.1 p.2) 8 8).bind fun e =>
      j.tileEntries die r e.1 (acc ++ e.2.zipIdx.map fun q => (p.1 + q.2, p.2, q.1))

/-! Skim (R362) -/

/-- The nearest source of each target so far: its depth, and what its entry says. -/
abbrev Best := FMap (Nat × Nat)

/-- The integer that an f16 rounds to, ties to even; none for a NaN or an infinity. -/
def rneInt (x : Nat) : Option Int :=
  match fdecode fmtF16 x with
  | .fin n m e =>
    let t := (roundInt .rne 0 n ⟨m, 1, e⟩ 0).1
    some (if n then -(t : Int) else t)
  | _ => none

/-- Take one source (R362): entry `e`, motion `m` of source pixel `i`. -/
def skimSource (w h : Nat) (best : Best) (i e m : Nat) : Best :=
  let zr := m / 2 ^ 32
  match rneInt (m % 65536), rneInt (m / 65536 % 65536), fdecode fmtF32 zr with
  | some dx, some dy, .fin n k x =>
    let tx := ((i % w : Nat) : Int) + dx
    let ty := ((i / w : Nat) : Int) + dy
    if e = clearedEntry ∨ tx < 0 ∨ ty < 0 ∨ (w : Int) ≤ tx ∨ (h : Int) ≤ ty then best
    else
      let t := ty.toNat * w + tx.toNat
      match mapFind best t with
      | none => mapPut best t (zr, e)
      | some b => if fltVal (.fin n k x) (fdecode fmtF32 b.1) then mapPut best t (zr, e) else best
  | _, _, _ => best
def skimAll (w h : Nat) : Nat → List Nat → List Nat → Best → Best
  | i, e :: es, m :: ms, best => skimAll w h (i + 1) es ms (skimSource w h best i e m)
  | _, _, _, best => best

/-- Whether a depth is within the tolerance of the predicted one (R362). -/
def skimNear (k z zp : Nat) : Bool :=
  match fdecode fmtF32 z, fdecode fmtF32 zp with
  | .fin n m e, .fin n' m' e' =>
    let (d, _) := fsumExact .rne [.fin n m e, .fin (!n') m' e']
    match d with
    | .fin _ a x => !fltVal (.fin false m' (e' - (k : Int))) (.fin false a x)
    | _ => false
  | _, _ => false

/-- The entries that Skim writes. -/
def skimOut (best : Best) (k : Nat) (pred : Option (List Nat)) (n : Nat) : List Nat :=
  (List.range n).map fun t =>
    match mapFind best t with
    | none => clearedEntry
    | some (z, e) =>
      let keep := match pred with
        | none => true
        | some l => skimNear k z (l.getD t 0)
      if keep then e / 2 ^ 32 * 2 ^ 32 + z else clearedEntry

/-- The tiles that hold a hole, in order. -/
def holeTiles (w h : Nat) (out : List Nat) : List Nat :=
  let holes := out.zipIdx.filterMap fun e => if e.1 = clearedEntry then some (e.2 / w / 8 * 65536 + e.2 % w / 8) else none
  ((List.range (h / 8)).flatMap fun y => (List.range (w / 8)).map fun x => y * 65536 + x).filter fun t => holes.contains t

/-- SKIM_JOB (R362, R363). -/
def FrameJob.skim (j : FrameJob) (s : State) (die : Nat) : PartIo State :=
  let d := j.desc
  let w := fjW d
  let h := fjH d
  let zpred := dwordAt d 40
  (j.read s die (dwordAt d 8) 8 (w * h)).bind fun e =>
  (j.read e.1 die (dwordAt d 16) 8 (w * h)).bind fun m =>
  (if zpred = 0 ∨ fjK d = 0 then .ok (m.1, none)
   else (j.read m.1 die zpred 4 (w * h)).bind fun p => .ok (p.1, some p.2)).bind fun p =>
    let out := skimOut (skimAll w h 0 e.2 m.2 []) (fjK d) p.2 (w * h)
    let tiles := holeTiles w h out
    (p.1.partWrite 1 die j.ctx (dwordAt d 24) (out.flatMap (leBytes 8))).bind fun s =>
    (s.partWrite 1 die j.ctx (dwordAt d 32) (leBytes 4 tiles.length ++ tiles.flatMap (leBytes 4))).bind fun s =>
      .ok ((s.setUnit die { s.unit die with motion := some (j.ctx.slot, dwordAt d 16) }).endFrame die j (statusWord 0 0 0))
def execSkimJob (die : Nat) (s : State) : Host.Outcome State Fault Refusal :=
  event (s.frameOn die) (fun s => s.frameTake die 1 fun s j =>
    if j.stage = .fresh then s.frameStep die j (j.skim s die) else s) s

/-! Raster (R364) -/

/-- A triangle ready to be rasterised: its corners as integers in 1/2^149, wound so that its area is positive. -/
structure Raster where
  a : Vec
  b : Vec
  c : Vec
  area : Int
  deriving DecidableEq, Repr

/-- The edge function of an edge at a point. -/
def edgeAt (a b : Vec) (x y : Int) : Int := (b.1 - a.1) * (y - a.2.1) - (b.2.1 - a.2.1) * (x - a.1)

/-- A triangle; none when it covers nothing (R364). -/
def rasterOf (t : Tri) : Option Raster :=
  match vec149 (t.corners.take 3), vec149 ((t.corners.drop 3).take 3), vec149 (t.corners.drop 6) with
  | some a, some b, some c =>
    let k := edgeAt a b c.1 c.2.1
    if k = 0 then none else if k < 0 then some ⟨a, c, b, -k⟩ else some ⟨a, b, c, k⟩
  | _, _, _ => none

/-- Whether a point is on the inner side of an edge, or on a top or left edge. -/
def insideEdge (a b : Vec) (x y : Int) : Bool :=
  let e := edgeAt a b x y
  let dx := b.1 - a.1
  let dy := b.2.1 - a.2.1
  decide (0 < e) || (decide (e = 0) && (decide (dy < 0) || (decide (dy = 0) && decide (0 < dx))))

/-- The depth of a pixel that the triangle covers, as an f32 code (R364). -/
def Raster.depth (r : Raster) (px py : Nat) : Option Nat :=
  let x : Int := (2 * (px : Int) + 1) * (2 : Int) ^ 148
  let y : Int := (2 * (py : Int) + 1) * (2 : Int) ^ 148
  if insideEdge r.a r.b x y && insideEdge r.b r.c x y && insideEdge r.c r.a x y then
    let z := edgeAt r.b r.c x y * r.a.2.2 + edgeAt r.c r.a x y * r.b.2.2 + edgeAt r.a r.b x y * r.c.2.2
    some (if z = 0 then 0 else (fround fmtF32 .rne false false 0 (decide (z < 0)) ⟨z.natAbs, r.area.natAbs, -149⟩).1)
  else none

/-- The entry of a covered pixel (R361). -/
def Tri.entry (t : Tri) (z : Nat) : Nat := t.bucket * 2 ^ 56 + t.prim * 2 ^ 32 + z

/-- Whether an entry's DEPTH lies behind a depth. -/
def behind (z e : Nat) : Bool :=
  let d := fdecode fmtF32 (e % 2 ^ 32)
  !d.isNaN && fltVal (fdecode fmtF32 z) d

/-- The pixels of a range that a triangle may cover: those of its bounding box. -/
def Raster.span (lo hi : Int) (n : Nat) : List Nat :=
  let a := (lo / (2 : Int) ^ 149).toNat
  let b := min n ((hi / (2 : Int) ^ 149) + 1).toNat
  (List.range (b - a)).map fun i => a + i
def Raster.rows (r : Raster) (h : Nat) : List Nat :=
  Raster.span (min r.a.2.1 (min r.b.2.1 r.c.2.1)) (max r.a.2.1 (max r.b.2.1 r.c.2.1)) h
def Raster.cols (r : Raster) (w : Nat) : List Nat :=
  Raster.span (min r.a.1 (min r.b.1 r.c.1)) (max r.a.1 (max r.b.1 r.c.1)) w

/-- A depth raster job's record: open pixels take what is nearer (R364). -/
def FrameJob.fill (j : FrameJob) (die : Nat) (t : Tri) (r : Raster) : List Nat → State → PartIo State
  | [], s => .ok s
  | p :: ps, s =>
    let x := p % fjW j.desc
    let y := p / fjW j.desc
    match r.depth x y with
    | none => j.fill die t r ps s
    | some z =>
      (j.read s die (j.entryVa x y) 8 1).bind fun e =>
        if behind z (e.2.headD 0) then
          (e.1.partWrite 1 die j.ctx (j.entryVa x y) (leBytes 8 (t.entry z))).bind fun s => j.fill die t r ps s
        else j.fill die t r ps e.1

/-- The fragments of a record (R365): pixel and entry, in row-major order. -/
def FrameJob.frags (j : FrameJob) (die : Nat) (t : Tri) (r : Raster) : List (Nat × Nat) → State → List (Nat × Nat × Nat) →
    PartIo (State × List (Nat × Nat × Nat))
  | [], s, acc => .ok (s, acc)
  | p :: ps, s, acc =>
    match r.depth p.1 p.2 with
    | none => j.frags die t r ps s acc
    | some z =>
      (j.read s die (j.entryVa p.1 p.2) 8 1).bind fun e =>
        j.frags die t r ps e.1 (if behind z (e.2.headD 0) then acc ++ [(p.1, p.2, t.entry z)] else acc)

/-! Packing (R366) -/

/-- A fragment, or a helper lane. -/
def fragOf (x y seq vis : Nat) (quad : Option Nat) (pos : Nat) (help : Bool) : Frag :=
  { px := x, py := y, smp := 0, quad := quad, pos := pos, seq := seq, help := help, vis := BitVec.ofNat 64 vis
    accepted := false, retired := false }

/-- The quads of some fragments in row-major order, each by the pixel of its top-left position. -/
def quadsOf (fs : List (Nat × Nat × Nat)) : List (Nat × Nat) :=
  let keys := (fs.map fun f => (f.1 / 2, f.2.1 / 2)).eraseDups
  let rows := (keys.map fun k => k.2).eraseDups.mergeSort
  rows.flatMap fun y => ((keys.filter fun k => k.2 == y).map fun k => k.1).mergeSort.map fun x => (x, y)

/-- The lanes that the fragments of one tile or record take, from lane `base` on. -/
def packLanes (noQuad : Bool) (seq base : Nat) (fs : List (Nat × Nat × Nat)) : List (Option Frag) :=
  if noQuad then fs.map fun f => some (fragOf f.1 f.2.1 seq f.2.2 none 0 false)
  else
    (quadsOf fs).zipIdx.flatMap fun q => (List.range 4).map fun i =>
      let x := 2 * q.1.1 + i % 2
      let y := 2 * q.1.2 + i / 2
      let lane := base + 4 * q.2
      some (match fs.find? fun f => f.1 == x && f.2.1 == y with
        | some f => fragOf x y seq f.2.2 (some lane) i false
        | none => fragOf x y seq clearedEntry (some lane) i true)

/-- Launch the kernel over the lanes (R366); with none the job is complete. -/
def FrameJob.launch (j : FrameJob) (s : State) (die : Nat) : State :=
  if j.lanes = [] then s.endFrame die j (statusWord 0 0 0)
  else
    let r : LaunchReq :=
      { image := fjKernel j.desc, param := fjParam j.desc, latch := 0, levels := [], mask := 2 ^ die
        flags := bitsOf (fjFlags j.desc) 4 2, depth := 0, mbz := false, host := false, cap := 7, purpose := .frame die
        lanes := some j.lanes.length }
    match s.judge die j.ctx.slot r with
    | .busy => s
    | .reject s _ code => s.endFrame die j (statusWord code 0 0)
    | .ok s l =>
      let (s, uid) := s.acceptLaunch die l
      s.putFrame die (some { j with stage := .launched uid })

/-! The events of raster jobs -/

/-- DEPTH_RASTER_JOB (R364): the open pixels. -/
def FrameJob.openPixels (j : FrameJob) (s : State) (die : Nat) : PartIo State :=
  (j.tiles s die false).bind fun t =>
  (j.tileEntries die (t.2.flatMap tileRows) t.1 []).bind fun e =>
    .ok (e.1.putFrame die (some { j with
      stage := .raster 0
      open_ := e.2.filterMap fun p => if p.2.2 = clearedEntry then some (p.2.1 * fjW j.desc + p.1) else none }))
def execDepthRasterJob (die : Nat) (s : State) : Host.Outcome State Fault Refusal :=
  event (s.frameOn die) (fun s => s.frameTake die 2 fun s j =>
    if j.stage = .fresh then s.frameStep die j (j.openPixels s die) else s) s

/-- FORWARD_RASTER_JOB (R365, R366): it starts, and launches its waves when its raster has finished. -/
def execForwardRasterJob (die : Nat) (s : State) : Host.Outcome State Fault Refusal :=
  event (s.frameOn die) (fun s => s.frameTake die 4 fun s j =>
    match j.stage with
    | .fresh => s.putFrame die (some { j with stage := .raster 0 })
    | .raster n => if fjNrec j.desc ≤ n then j.launch s die else s
    | _ => s) s

/-- Record `i` of a raster job (R364, R365): when RINGLATCH has reached i + 1. -/
def FrameJob.record (j : FrameJob) (s : State) (die i : Nat) : PartIo State :=
  let d := j.desc
  (j.read s die (dwordAt d 16) 4 1).bind fun v =>
    if v.2.headD 0 < i + 1 then .error .busy
    else
      (j.read v.1 die (vaAdd (dwordAt d 8) (48 * i)) 48 1).bind fun b =>
        let t := triOf (b.2.headD 0)
        let next (s : State) (lanes : List (Option Frag)) : State :=
          s.putFrame die (some { j with stage := .raster (i + 1), lanes := j.lanes ++ lanes })
        if t.mbz ≠ 0 then .error (.bad i)
        else
          match rasterOf t with
          | none => .ok (next b.1 [])
          | some r =>
            if fjType d = 2 then (j.fill die t r j.open_ b.1).bind fun s => .ok (next s [])
            else
              let px := (r.rows (fjH d)).flatMap fun y => (r.cols (fjW d)).map fun x => (x, y)
              (j.frags die t r px b.1 []).bind fun f => .ok (next f.1 (packLanes (fjNoQuad d) i j.lanes.length f.2))

/-- RASTER_RECORD (R364). -/
def execRasterRecord (die : Nat) (s : State) : Host.Outcome State Fault Refusal :=
  event (s.frameOn die) (fun s =>
    match (s.unit die).frame with
    | some j =>
      match j.stage with
      | .raster i => if j.park.isNone ∧ i < fjNrec j.desc then s.frameStep die j (j.record s die i) else s
      | _ => s
    | none => s) s

/-- The lanes of a type 3 job (R366): tile by tile, from the pixels of `n` tiles. -/
def waveLanes (noQuad all : Bool) : Nat → List (Nat × Nat × Nat) → List (Option Frag) → List (Option Frag)
  | 0, _, acc => acc
  | n + 1, ps, acc =>
    let fs := (ps.take 64).filter fun p => all || p.2.2 != clearedEntry
    waveLanes noQuad all n (ps.drop 64) (acc ++ packLanes noQuad 0 acc.length fs)

/-- VISIBILITY_WAVE_JOB (R366). -/
def FrameJob.waves (j : FrameJob) (s : State) (die : Nat) : PartIo State :=
  (j.tiles s die true).bind fun t =>
  (j.tileEntries die (t.2.flatMap tileRows) t.1 []).bind fun e =>
    let lanes := waveLanes (fjNoQuad j.desc) (bitOf (fjFlags j.desc) 0) t.2.length e.2 []
    .ok ({ j with lanes := lanes }.launch e.1 die)
def execVisibilityWaveJob (die : Nat) (s : State) : Host.Outcome State Fault Refusal :=
  event (s.frameOn die) (fun s => s.frameTake die 3 fun s j =>
    if j.stage = .fresh then s.frameStep die j (j.waves s die) else s) s

/-! Submission and completion (R359) -/

/-- FRAME_JOB_SUBMISSION (R359): a store to FJPORT. -/
def execFrameJobSubmission (die : Nat) (off : Nat) (data : List Byte) (s : State) : Host.Outcome State Fault Refusal :=
  event (decide (die < 9) && decide (0x70000 ≤ off) && decide (off < 0x70040)) (fun s =>
    if s.isOffline die ∨ s.resting die ∨ s.mdl.stopped then s
    else if off ≠ 0x70000 ∨ data.length ≠ 64 ∨ 16 ≤ (s.unit die).waiting.length then s.count die 0x70040 false
    else
      let u := s.unit die
      s.setUnit die { u with waiting := u.waiting ++ [data] }) s

/-- FRAME_JOB_COMPLETION (R359, R368): a job whose steps are done, whose launch has ended and whose fragments are written,
releases its latch. A job of no type is refused. -/
def execFrameJobCompletion (die : Nat) (s : State) : Host.Outcome State Fault Refusal :=
  event (s.frameOn die) (fun s =>
    let s := match (s.unit die).frame, (s.unit die).waiting with
      | none, d :: _ => if 1 ≤ fjType d ∧ fjType d ≤ 4 then s else s.startFrame die
      | _, _ => s
    let u := s.unit die
    match u.frame with
    | none => s
    | some j =>
      let release (status : Nat) : State := (s.putFrame die none).latchRelease die j.ctx (fjLatch j.desc) status .frame
      match j.stage with
      | .ended status => if u.blend0.isEmpty && u.blend1.isEmpty then release status else s
      | .raster n => if fjType j.desc = 2 ∧ fjNrec j.desc ≤ n ∧ j.park.isNone then release (statusWord 0 0 0) else s
      | _ => s) s

/-! Blend (R368, R369) -/

/-- An exact value over a denominator, rounded RNE to f32. -/
def over32 (v : FVal) (d : Nat) : Nat :=
  match v with
  | .fin n m e => if m = 0 then fzero fmtF32 n else (fround fmtF32 .rne false false 0 n ⟨m, d, e⟩).1
  | v => (fencode fmtF32 .rne false false 0 v).1

/-- A channel of the blend: source, RNE(1 − S.a), destination over its denominator. -/
def blendChannel (mode : Nat) (src t dst : FVal) (d : Nat) : Nat :=
  if mode = 0 then (fencode fmtF32 .rne false false 0 src).1
  else
    let x := if mode = 1 then (fmulExact dst t).1 else dst
    over32 (fsumExact .rne [src.scaled d 0, x]).1 d

/-- A channel as the target stores it (R369). -/
def targetChannel (fmt x : Nat) : Nat :=
  let v := fdecode fmtF32 x
  if fmt = 0 then
    match v with
    | .nan _ => 0
    | .inf n => if n then 0 else 255
    | .fin n m e => if n then 0 else min 255 (roundInt .rne 0 false ⟨m * 255, 1, e⟩ 0).1
  else (fencode fmtF16 .rne false false 0 v).1

/-- The pixel that a fragment leaves, over the pixel that is there. -/
def BlendFrag.pixel (b : BlendFrag) (old : Nat) : Nat :=
  let bits := if b.fmt = 0 then 8 else 16
  let src := b.colour.map f32
  let t := fdecode fmtF32 (fencode fmtF32 .rne false false 0
    (fsumExact .rne [.fin false 1 0, (src.getD 3 (.fin false 0 0)).negate]).1).1
  joinBits bits ((List.range 4).map fun i =>
    let raw := blockBits old (bits * i) bits
    let dst := if b.fmt = 0 then FVal.fin false raw 0 else fdecode fmtF16 raw
    targetChannel b.fmt (blendChannel b.mode (src.getD i (.fin false 0 0)) t dst (if b.fmt = 0 then 255 else 1)))

/-- BLEND_WRITE (R368, R369): the oldest fragment of a queue. -/
def execBlendWrite (die q : Nat) (s : State) : Host.Outcome State Fault Refusal :=
  event (decide (die < 9) && decide (q < 2)) (fun s =>
    let u := s.unit die
    match if q = 0 then u.blend0 else u.blend1 with
    | [] => s
    | b :: r =>
      if s.paBusy b.pa ∨ (paHomed b.pa ∧ s.isOffline (homeOf (b.pa / 128))) then s
      else
        let n := pixelBytes b.fmt
        let s := (if b.mode = 0 then s else s.homeTouch (some die) b.pa 1 false).homeTouch (some die) b.pa 1 true
        let s := s.sysWrite b.pa (leBytes n (b.pixel (s.viewNat b.pa n)))
        let u := s.unit die
        s.setUnit die (if q = 0 then { u with blend0 := r } else { u with blend1 := r })) s

end Sys2Proof.Machine
end

