-- ==== Sys2Proof/Machine/Fetch.lean ====
section
/-! DEFINITION. Issue (spec 07 R179, 08 R182 to R184): whether a warp may issue, fetching an instruction and decoding it;
and a state in which a given instruction comes next. -/

namespace Sys2Proof.Machine

/-- Whether a die runs nothing: offline, fenced, stopped by a machine check, without firmware (R99, R104, R398, R411). -/
def State.halted (s : State) (die : Nat) : Bool :=
  s.mdl.stopped || s.mdl.fenced.contains die || s.isOffline die || s.resting die

/-- Whether a warp may issue its next instruction: a path of it runs, its workgroup runs, it does not wait out clocks, a
FUSE, the answer to a fault, or an offline home. A workgroup that drains finishes a REL whose update is on its way (R134). -/
def State.mayIssue (s : State) (w : Warp) (g : Workgroup) : Bool :=
  w.running && (decide (g.phase = .placed) || (decide (g.phase = .draining) && w.midway)) && decide (w.wake ≤ s.clock) &&
    decide (w.notBefore ≤ s.clock) && decide (w.exec &&& w.offMask = 0) && w.fuse.isNone && !s.halted g.die &&
    (match w.block with
     | some p => p.answer.isSome
     | none => true)

/-- What a fetch gives: an instruction, or the outcome of one that could not be had. -/
inductive Fetched where
  | instr (t : Thread) (i : Instr)
  | stop (r : Res)
  deriving DecidableEq, Repr

/-- Trap 0x01 with word 0 (R184, R210). -/
def Thread.illegal (t : Thread) (w : Nat) : Fetched := .stop (.trap t 0x01 (BitVec.ofNat 64 w) 0)

/-- Fetch and decode the instruction at the PC (R33, R182, R184): word 0, then, for a LONG form, word 1. -/
def Thread.fetch (t : Thread) : Fetched :=
  if t.w.pc.toNat % 8 ≠ 0 then .stop (.trap t 0x03 t.w.pc 0)
  else
    match t.fetchWord t.w.pc with
    | .error r => .stop r
    | .ok (t, w) =>
      match decode (leBytes 8 w) with
      | .ok (i, _) => .instr t i
      | .error .tooShort =>
        match t.fetchWord (t.w.pc + 8) with
        | .error r => .stop r
        | .ok (t, w1) =>
          match decode (leBytes 16 (w + 2 ^ 64 * w1)) with
          | .ok (i, _) => .instr t i
          | .error _ => t.illegal w
      | .error _ => t.illegal w

/-! A program in place -/

/-- The address, virtual and physical, at which `State.withFetchWord` puts an instruction. -/
def fetchAt : Nat := 0x10000

/-- The context, image and launch of the warp that runs it (log 7). -/
def fetchCtx : Ctx := { Ctx.empty with fqsize := 0, nofq := true }
def fetchImage : Image :=
  { Image.empty with base := BitVec.ofNat 64 fetchAt, trapvec := 0x1000, cluster := 1, sregs := 256, vregs := 1024
                     nwarps := 1, width := 8, maxdepth := 1 }
def fetchLaunch : Launch :=
  { Launch.empty with ctx := fetchCtx, image := fetchImage, levels := [(2, 1)], nspans := 1, nextIdx := 1
                      spans := [⟨0, 0, [], false, true, none, false⟩], batches := [⟨0, 0, 1, 1, true⟩] }
def fetchWg (launch : Nat) : Workgroup where
  launch := launch
  die := 0
  core := 0
  rank := 0
  d := 0
  w := 0
  t := 0
  clmember := 0
  width0 := 8
  nwarps := 1
  k := 1024
  sr := 256
  alloc := 0
  gran := 0
  scratch := []
  vregs := []
  lfsr := []
  frags := []
  active := 0
  phase := .placed
  killed := none
  order := launch
  image := none

/-- The translation of the page of `fetchAt`: itself, readable, writable and executable. -/
def fetchEntry : TlbEntry :=
  { asid := 0, vpn := 16, span := 0, ppn := 16, level := 0, r := true, w := true, x := true, glob := false, d := true
    nc := false, io := false }

/-- A warp of a launch on core 0 at `fetchAt`, which holds the given bytes, whose turn is next (log 7). -/
def State.placeFetch (s : State) (bs : List Byte) : State :=
  let u := s.nextUid
  let s := s.sysWrite fetchAt bs
  let k := s.core 0
  let s := s.setCore 0 { k with utlb := addUtlb k.utlb fetchEntry }
  { s with
    nextUid := u + 3
    schedule := ⟨0, 0, .warp (u + 2)⟩ :: s.schedule
    offline := s.offline.filter (· != 0)
    mdl := { s.mdl with stopped := false, fenced := s.mdl.fenced.filter (· != 0) }
    launches := mapPut s.launches u fetchLaunch
    wgs := mapPut s.wgs (u + 1) (fetchWg u)
    warps := mapPut s.warps (u + 2)
      (Warp.create (u + 1) 8 0 0 0 0 0 [0] (BitVec.ofNat 64 fetchAt) 0 u s.clock) }

end Sys2Proof.Machine
end

