-- ==== Sys2Proof/Machine/Heads.lean ====
section
/-! DEFINITION. Display heads (spec 15 R376, 16 R400, 17 R408 to R410), their scan-out FIFOs and urgency (05 R115), the
monitors' samples (R116). -/

namespace Sys2Proof.Machine

/-! Registers of a head (R408) -/

def State.headCtx (s : State) (die : Nat) : Nat := s.reg die 0xA0008 % 256
def State.headW (s : State) (die : Nat) : Nat := s.reg die 0xA0028 % 65536
def State.headH (s : State) (die : Nat) : Nat := s.reg die 0xA0028 / 65536 % 65536
def State.headNbuf (s : State) (die : Nat) : Nat := bitsOf (s.reg die 0xA0028) 35 32
def State.headFmt (s : State) (die : Nat) : Nat := bitsOf (s.reg die 0xA0028) 37 36
def State.dslead (s : State) (die : Nat) : Nat := s.reg die 0xA0030
def State.setHead (s : State) (die : Nat) (h : Head) : State := s.setUnit die { s.unit die with head := h }

/-- Whether a head may run with its registers at a frame period (R409). -/
def State.timingOk (s : State) (die per : Nat) : Bool :=
  let t := s.reg die 0xA0040
  decide (s.headW die + 16 ≤ timHtotal t) && decide (s.headH die + 4 ≤ timVtotal t) && decide (timVboff t < per) &&
    decide (s.dslead die < per) && decide (2 * (timHtotal t * timVtotal t) ≤ 5 * per)

/-- HEAD_ENABLE (R408, R409): a write to HEADCTX. -/
def execHeadEnable (die : Nat) (v : Dword) (s : State) : Host.Outcome State Fault Refusal :=
  event (decide (die < 9)) (fun s =>
    if s.isOffline die then s
    else
      let h := (s.unit die).head
      let ok := bitOf v.toNat 8 && (match s.flPeriod with
        | some p => s.timingOk die p
        | none => false)
      let s := s.setReg die 0xA0008 (v.toNat % 256 + if ok then 256 else 0)
      if ok then (if h.on then s else s.setHead die { h with on := true, since := s.tick, check := none })
      else s.setHead die { h with on := false, check := none, fill := 0 }) s

/-! The check and the vblank -/

/-- The vblank that follows the last edge of a die, when it has not been: its frame and tick (R409). -/
def State.dueVblank (s : State) (die : Nat) : Option (Nat × Nat) :=
  let u := s.unit die
  match u.lastEdge with
  | some l =>
    let t := l + timVboff u.head.timing
    if u.head.vblank = some t then none else some ((s.frameNo die + 2 ^ 32 - 1) % 2 ^ 32, t)
  | none => none

/-- The next edge of a die, as far as it is known: the frame that it starts and its tick. -/
def State.comingEdge (s : State) (die : Nat) : Option (Nat × Nat) :=
  let f := s.mdl.fl
  match f.fires.find? fun e => e.die == die with
  | some e => some (e.frame, e.tick)
  | none =>
    let n := (s.frameNo die + 1) % 2 ^ 32
    if s.flRole = 2 then
      match f.lastEdge, s.flPeriod with
      | some l, some m => some (n, l + m)
      | _, _ => none
    else f.nextEdge.map fun t => (n, t)

/-- The vblank that comes next on a die: its frame and tick (R409). -/
def State.nextVblank (s : State) (die : Nat) : Option (Nat × Nat) :=
  match s.dueVblank die with
  | some x => some x
  | none => (s.comingEdge die).map fun e => ((e.1 + 2 ^ 32 - 1) % 2 ^ 32, e.2 + timVboff (s.reg die 0xA0040))

/-- The frame that a latch value presents for frame `f`: none when none is released (R376, R408). -/
def presented (value f : Nat) : Option Nat := if value = 0 ∨ 2 ^ 31 ≤ value then none else some (min (value - 1) f)

/-- Read a head's render-complete latch (R400, R408); none while its line is on its way. DESIGN CHOICE (log 76): the class table of
R105 has no row for this read; it is class 0, as the head's other reads. -/
def State.readLatch (s : State) (die f : Nat) : Option (State × Option Nat) :=
  match s.readCtx (s.headCtx die) with
  | none => some (s, none)
  | some c =>
    if (s.reg die 0xA0000) % 4 ≠ 0 then some (s, none)
    else
      match s.partRead 0 die c (BitVec.ofNat 64 (s.reg die 0xA0000)) 4 with
      | .ok (s, bs) => some (s, presented (leNat bs) f)
      | .error .busy => none
      | .error _ => some (s, none)

/-- Whether a check has found a frame that is newer than the one presented last (R376). -/
def Head.newer (h : Head) (g : Option Nat) : Bool :=
  match g with
  | some g => h.shown.all fun o => decide (o < g)
  | none => false

/-- `n` fields of `m` bytes. -/
def fieldsOf (bs : List Byte) (m n : Nat) : List Nat := (List.range n).map fun i => fieldAt bs (m * i) m

/-- The Skim pass of the Dust-sheet substitute (R376, R400): the last presented image scattered by R362's rule, with the visibility
buffer presented last and the newest pose motion. For each pixel the pixel whose colour it has; a hole has its own. What cannot be
read leaves every pixel a hole (log 76); none while a line of it is on its way. -/
def State.dustSheet (s : State) (die : Nat) : Option (State × List Nat) :=
  let w := s.headW die
  let h := s.headH die
  let same := List.range (w * h)
  match (s.unit die).head.shown, (s.unit die).motion, s.readCtx (s.headCtx die) with
  | some g, some (slot, at_), some c =>
    let vis := s.reg die 0xA0018 + g % s.headNbuf die * (s.reg die 0xA0020 / 2 ^ 32)
    match s.partRead 1 die c (BitVec.ofNat 64 vis) (8 * (w * h)) with
    | .error .busy => none
    | .error _ => some (s, same)
    | .ok (s, es) =>
      match s.readCtx slot with
      | none => some (s, same)
      | some c =>
        match s.partRead 1 die c at_ (8 * (w * h)) with
        | .error .busy => none
        | .error _ => some (s, same)
        | .ok (s, ms) =>
          let src := (fieldsOf es 8 (w * h)).zipIdx.map fun e => if e.1 = clearedEntry then clearedEntry else e.2
          let best := skimAll w h 0 src (fieldsOf ms 8 (w * h)) []
          some (s, same.map fun t => ((mapFind best t).map fun b => b.2).getD t)
  | _, _, _ => some (s, same)

/-- The check for the coming vblank, when it is time and it has not been made (R400, R409). -/
def State.headCheck (s : State) (die : Nat) : State :=
  let h := (s.unit die).head
  match s.nextVblank die with
  | some (f, v) =>
    let at_ := v - s.dslead die
    if h.on ∧ at_ ≤ s.tick ∧ h.since < at_ ∧ (h.check.map fun c => c.1) ≠ some f then
      match s.readLatch die f with
      | some (s, g) =>
        if h.newer g then s.setHead die { (s.unit die).head with check := some (f, g) }
        else
          match s.dustSheet die with
          | some (s, l) => s.setHead die { (s.unit die).head with check := some (f, g), picture := l }
          | none => s
      | none => s
    else s
  | none => s

/-- DISPLAY_HEAD_CHECK (R400). -/
def execDisplayHeadCheck (die : Nat) (s : State) : Host.Outcome State Fault Refusal :=
  event (decide (die < 9) && !s.halted die) (fun s => s.headCheck die) s

/-- What a vblank shows (R376, R400, R409, R410), and whether it counts as a substitution. -/
def Head.present (h : Head) (f v lead : Nat) (held : Bool) : Head × Bool :=
  let h := { h with vblank := some v, fill := 0, line := 0, base := v, pixels := 0 }
  let dark := { h with black := true, subst := false }
  if held ∨ v - lead ≤ h.since then (dark, false)
  else
    match h.check.bind fun c => if c.1 = f then c.2 else none with
    | some g =>
      if h.newer (some g) then ({ h with shown := some g, black := false, subst := false, picture := [] }, false)
      else ({ h with black := h.shown.isNone, subst := true }, true)
    | none => ({ h with black := h.shown.isNone, subst := true }, true)

/-- VBLANK_PRESENT (R376): the check comes first. -/
def execVblankPresent (die : Nat) (s : State) : Host.Outcome State Fault Refusal :=
  event (decide (die < 9) && !s.halted die) (fun s =>
    match s.dueVblank die with
    | some (f, v) =>
      if v ≤ s.tick ∧ (s.unit die).head.on then
        let s := s.headCheck die
        let (h, sub) := (s.unit die).head.present f v (s.dslead die) (s.admitHeld ((f + 1) % 2 ^ 32))
        let s := s.setHead die h
        if sub then s.setReg die 0xA0038 ((s.reg die 0xA0038 + 1) % 2 ^ 64) else s
      else if v ≤ s.tick then s.setHead die { (s.unit die).head with vblank := some v, base := v, pixels := 0 }
      else s
    | none => s) s

/-! Scan-out -/

/-- Lines of 128 bytes to a row of pixels, to the image. -/
def State.rowLines (s : State) (die : Nat) : Nat := (s.headW die * (if s.headFmt die = 0 then 4 else 8) + 127) / 128

/-- The pixel times since the last vblank (R409). -/
def State.pixelTimes (s : State) (die : Nat) : Nat :=
  let h := (s.unit die).head
  if h.vblank.isSome then h.pixelsAt s.tick else 0

/-- The pixel times of the vertical blanking that follows a vblank. -/
def State.blankTimes (s : State) (die : Nat) : Nat :=
  let h := (s.unit die).head
  (timVtotal h.timing - s.headH die) * timHtotal h.timing

/-- The lines of the image that active scan-out has begun to take from the FIFO (R409). -/
def State.linesDue (s : State) (die : Nat) : Nat :=
  let h := (s.unit die).head
  let n := s.rowLines die
  let t := s.pixelTimes die
  let ht := timHtotal h.timing
  if ht = 0 ∨ t < s.blankTimes die then 0
  else
    let a := t - s.blankTimes die
    let col := a % ht
    min (s.headH die * n) (a / ht * n + min n (col * (if s.headFmt die = 0 then 4 else 8) / 128 + 1))

/-- Whether a head is in active scan-out. -/
def State.activeNow (s : State) (die : Nat) : Bool :=
  let t := s.pixelTimes die
  decide (s.blankTimes die ≤ t) && decide (t < timVtotal (s.unit die).head.timing * timHtotal (s.unit die).head.timing)

/-- Whether a head scans out an image. -/
def Head.scanning (h : Head) : Bool := h.on && !h.black && h.shown.isSome

/-- A head's FIFO now: lines that are due have left it; `line` counts them. -/
def State.drainHead (s : State) (die : Nat) : Head :=
  let h := (s.unit die).head
  if h.scanning then
    let n := s.linesDue die - h.line
    { h with line := h.line + n, fill := h.fill - n }
  else h

/-- The lines that a head's FIFO takes (R115, R431): all of its 4 096 in vertical blanking; in active scan-out lines are always on
their way, one in and one out, so that it never holds more than 4 094 (log 76). -/
def State.headRoom (s : State) (die : Nat) : Nat := if s.activeNow die then 4094 else 4096

/-- The fill that urgency and the monitors see. -/
def State.headFill (s : State) (die : Nat) : Nat := min (s.drainHead die).fill (s.headRoom die)

/-- ACTIVE_SCAN_OUT (R105, R408, R409): the lines that are due leave the FIFO, and a line of the image is read into it. -/
def execActiveScanOut (die : Nat) (s : State) : Host.Outcome State Fault Refusal :=
  event (decide (die < 9) && !s.halted die) (fun s =>
    let h := s.drainHead die
    match h.scanning, h.shown with
    | true, some g =>
      let s := s.setHead die h
      let i := h.line + h.fill
      if s.headRoom die ≤ h.fill ∨ s.headH die * s.rowLines die ≤ i then s
      else
        match s.readCtx (s.headCtx die) with
        | none => s
        | some c =>
          let va := s.reg die 0xA0010 + g % s.headNbuf die * (s.reg die 0xA0020 % 2 ^ 32) + 128 * i
          match s.partRead 0 die c (BitVec.ofNat 64 va) 128 with
          | .ok (s, _) => s.setHead die { (s.unit die).head with fill := h.fill + 1 }
          | .error _ => s
    | _, _ => s) s

/-! Urgency (R115) -/

def State.lowat (s : State) (die : Nat) : Nat := s.reg die 0x40900 % 4096
def State.hiwat (s : State) (die : Nat) : Nat := max (s.reg die 0x40900 / 4096 % 4096) (s.lowat die + 1)

/-- A die applies the urgency of a head to its regulators. DESIGN CHOICE (log 84): the count of raises stays at its largest value. -/
def DieUnit.applyUrgency (u : DieUnit) (head : Nat) (raised : Bool) : DieUnit :=
  let bit := BitVec.ofNat 9 (2 ^ head)
  { u with urgency := if raised then u.urgency ||| bit else u.urgency &&& ~~~bit
           raises := if raised then min (u.raises + 1) (2 ^ 32 - 1) else u.raises }

/-- A head's urgency changes: its die applies it and tells the others. -/
def State.setUrgency (s : State) (die : Nat) (raised : Bool) : State :=
  let u := s.unit die
  let s := s.setUnit die ({ u with head := { u.head with urgent := raised } }.applyUrgency die raised)
  (s.live.filter (· != die)).foldl (fun s d => s.tell die d (.urgency die raised)) s

/-- URGENCY_RAISE (R115). -/
def execUrgencyRaise (die : Nat) (s : State) : Host.Outcome State Fault Refusal :=
  event (decide (die < 9) && !s.halted die) (fun s =>
    let h := s.drainHead die
    if h.scanning ∧ !h.urgent ∧ s.headFill die < s.lowat die then s.setUrgency die true else s) s

/-- URGENCY_LOWER (R115): also when the head no longer scans. -/
def execUrgencyLower (die : Nat) (s : State) : Host.Outcome State Fault Refusal :=
  event (decide (die < 9) && !s.halted die) (fun s =>
    let h := s.drainHead die
    if h.urgent ∧ (s.hiwat die ≤ s.headFill die ∨ !h.scanning) then s.setUrgency die false else s) s

/-- Whether an older message of its sender about urgency is on its way to the same die: the changes of a head are applied in the
order in which they happened. -/
def State.urgencyBefore (s : State) (k : Nat) (m : CtlMsg) : Bool :=
  (s.ctl.take k).any fun o => o.src == m.src && o.dst == m.dst && (match o.body with
    | .urgency _ _ => true
    | _ => false)

/-- URGENCY_CHANGE (R115): a message with another head's urgency. -/
def execUrgencyChange (k : Nat) (s : State) : Host.Outcome State Fault Refusal :=
  event true (fun s0 => s0.takeCtl k fun m s => match m.body with
    | .urgency head raised => if s0.urgencyBefore k m then none else some (if s.isOffline m.dst then s else s.setUnit m.dst ((s.unit m.dst).applyUrgency head raised))
    | _ => none) s

/-- ERRORNOTE (R405): the copy of an entry of another die's error log. -/
def execErrornote (k : Nat) (s : State) : Host.Outcome State Fault Refusal :=
  event true (fun s => s.takeCtl k fun m s => match m.body with
    | .errorNote e => some (s.putError m.dst e)
    | _ => none) s

/-! Samples and the scheduler -/

/-- The FIFOs of R116 with their capacities. -/
def State.fills (s : State) (die : Nat) : List (Nat × Nat) :=
  let u := s.unit die
  let queued (g : Nat) : Nat := ((s.die die).queue.filter fun q => groupOf (q.1.line * 128 % 2 ^ 40) == g).length
  [(s.headFill die, 4096), (u.blend0.length, 4096), (u.blend1.length, 4096)] ++ (List.range 6).map fun g => (queued g, 1024)

/-- One sample of a die's FIFOs: their fills into their histograms. -/
def State.countFills (s : State) (die : Nat) (fills : List (Nat × Nat)) : State :=
  fills.zipIdx.foldl (fun s e => s.countBin die (0x44000 + 0x40 * e.2) (fillBin e.1.1 e.1.2)) s

/-- The samples of a die that are due (R116): one for the end of each interval of 64 ticks that has passed, while its monitors
count. -/
def State.sampleDie (s : State) (die : Nat) : State :=
  let u := s.unit die
  if u.sampled < s.tick / 64 then
    let t := s.setUnit die { u with sampled := s.tick / 64 }
    if s.counting die then
      (List.range (s.tick / 64 - u.sampled)).foldl (fun t i =>
        t.countFills die (State.fills { s with tick := 64 * (u.sampled + 1 + i) } die)) t
    else t
  else s

/-- FIFO_FILL_SAMPLE (R116). -/
def execFifoFillSample (die : Nat) (s : State) : Host.Outcome State Fault Refusal :=
  event (decide (die < 9) && !s.isOffline die) (fun s => s.sampleDie die) s

/-- The samples of every die whose monitors count, before anything changes a fill (R116). -/
def State.samples (s : State) : State :=
  (s.live.filter fun d => s.counting d).foldl (fun s d => s.sampleDie d) s

/-- CELLAR_MISS_SCHEDULE (R113). -/
def execCellarMissSchedule (die grp : Nat) (s : State) : Host.Outcome State Fault Refusal :=
  event (decide (die < 9) && decide (grp < 6) && !s.isOffline die) (fun s => s.cellarServe die grp) s

end Sys2Proof.Machine
end

