-- ==== Sys2Proof/Machine/Replay.lean ====
section
/-! DEFINITION. Answers to parked requesters (spec 02 R51 to R54, 16 R397): FQCMD, homes that stay offline. -/

namespace Sys2Proof.Machine

/-! Whom a command names (R51) -/

/-- The requesters that a command names: those of an address space parked on a die, or one of them by CORE, UNIT, SEQ. -/
structure FqSel where
  die : Nat
  asid : Nat
  one : Option (Nat × Nat × Nat)
  deriving DecidableEq, Repr

def FqSel.hits (q : FqSel) (die core unit : Nat) (p : Park) : Bool :=
  die == q.die && p.asid == q.asid && p.ftype != 6 && p.answer.isNone &&
    (match q.one with
     | some (c, u, n) => c == core && u == unit && n == p.seq
     | none => true)

/-- The same for a park that may be there. -/
def FqSel.hitsOpt (q : FqSel) (die core unit : Nat) (p : Option Park) : Bool := p.any (q.hits die core unit)

/-- CORE and UNIT of the units for which R47 gives none (log 2). -/
def partCore (unit : Nat) : Nat := (Config.partRecord unit 0).toNat % 1024
def partUnit (unit : Nat) : Nat := (Config.partRecord unit 1).toNat % 64

/-- A warp's parked paths that a test names get what an answer makes of their faults. -/
def Warp.answer (w : Warp) (hit : Park → Bool) (a : Park → Option Park) (now : Nat) : Warp :=
  let f (p : Option Park) : Option Park := p.bind fun k => if hit k then a k else some k
  if w.block.any hit || w.paths.any (fun x => x.park.any hit) then
    let w := { w with block := f w.block, paths := w.paths.map fun x => { x with park := f x.park } }
    if w.running then w else w.switch now
  else w

/-- The warps of workgroups that are not saved, answered. -/
def State.answerWarps (s : State) (hit : Workgroup → Warp → Park → Bool) (a : Park → Option Park) : State :=
  { s with warps := s.warps.map fun e => match mapFind s.wgs e.2.wg with
      | some g => if g.phase = .saved then e else (e.1, e.2.answer (hit g e.2) a s.clock)
      | none => e }

/-- The issued accesses whose parks meet a test, once each. -/
def State.parkedAccs (s : State) (hit : Workgroup → Warp → Park → Bool) : List (Nat × Access × Park) :=
  let l := s.warps.flatMap fun e => match mapFind s.wgs e.2.wg with
    | some g => e.2.offl.filterMap fun o => (o.park.filter (hit g e.2)).map fun p => (o.uid, p)
    | none => []
  l.foldl (fun acc e => match mapFind s.accs e.1 with
    | some a => if acc.any fun x => x.1 == e.1 then acc else acc ++ [(e.1, a, e.2)]
    | none => acc) []

/-- They are replayed (R52). -/
def State.replayAccs (s : State) (hit : Workgroup → Warp → Park → Bool) : State :=
  { s with warps := s.warps.map fun e => match mapFind s.wgs e.2.wg with
      | some g => (e.1, e.2.offReplay (hit g e.2))
      | none => e }

/-- The warps that a command names. -/
def FqSel.warps (q : FqSel) (g : Workgroup) (w : Warp) (p : Park) : Bool :=
  decide (g.phase ≠ .saved) && q.hits g.die g.core w.unit p

/-- The jobs, graphs, latch updates and frame jobs that a command names. -/
def FqSel.jobs (q : FqSel) (s : State) : List (Nat × Job) :=
  s.jobs.filter fun e => !e.2.saved && q.hitsOpt (e.2.core / 96) e.2.core e.2.entry e.2.park
def FqSel.graphs (q : FqSel) (s : State) : List (Nat × Graph) :=
  s.graphs.filter fun e => q.hitsOpt e.2.home (partCore 1) (partUnit 1) e.2.park
def FqSel.upds (q : FqSel) (s : State) : List (Nat × LatchUpd) :=
  s.upds.filter fun e => q.hitsOpt e.2.die (partCore 0) (partUnit 0) e.2.park
def FqSel.frame (q : FqSel) (s : State) : Option FrameJob :=
  (s.unit q.die).frame.filter fun j => q.hitsOpt q.die (partCore 2) (partUnit 2) j.park

/-- Whether a command names a requester that is parked now (R51). -/
def FqSel.any (q : FqSel) (s : State) : Bool :=
  (s.warps.any fun e => match mapFind s.wgs e.2.wg with
    | some g => e.2.block.any (q.warps g e.2) || (e.2.paths.any fun x => x.park.any (q.warps g e.2)) ||
          e.2.offl.any fun o => o.park.any (q.warps g e.2)
    | none => false) ||
  !(q.jobs s).isEmpty || !(q.graphs s).isEmpty || !(q.upds s).isEmpty || (q.frame s).isSome

/-- Replay (R52): nothing is parked any more; what was goes on by itself. -/
def State.replayJobs (s : State) (q : FqSel) : State := (q.jobs s).foldl (fun s e => s.putJob e.1 { e.2 with park := none }) s
def State.replayGraphs (s : State) (q : FqSel) : State := (q.graphs s).foldl (fun s e => s.putGraph e.1 { e.2 with park := none }) s
def State.replayUpds (s : State) (q : FqSel) : State :=
  (q.upds s).foldl (fun s e => { s with upds := mapPut s.upds e.1 { e.2 with park := none } }) s
def State.replayFrame (s : State) (q : FqSel) : State :=
  match q.frame s with
  | some j => s.putFrame q.die (some { j with park := none })
  | none => s
def State.replaySel (s : State) (q : FqSel) : State :=
  (((((s.answerWarps q.warps fun _ => none).replayAccs q.warps).replayJobs q).replayGraphs q).replayUpds q).replayFrame q

/-- Rejection (R52, R332, R347, R360). -/
def State.rejectJobs (s : State) (q : FqSel) : State :=
  (q.jobs s).foldl (fun s e => match e.2.park with
    | some p => s.jobFail e.1 e.2 0x05 p.va p.rejectImm
    | none => s) s
def State.rejectAccs (s : State) (q : FqSel) : State :=
  (s.parkedAccs q.warps).foldl (fun s e => s.accEnd e.1 e.2.1 0x05 e.2.2.va e.2.2.rejectImm) s
def State.rejectGraphs (s : State) (q : FqSel) : State :=
  (q.graphs s).foldl (fun s e => s.endEarly e.1 { e.2 with park := none } e.2.at_) s
def State.rejectUpds (s : State) (q : FqSel) : State :=
  (q.upds s).foldl (fun s e => ({ s with upds := mapDel s.upds e.1 } : State).latchSkip e.2) s
def State.rejectFrame (s : State) (q : FqSel) : State :=
  match q.frame s with
  | some j => s.endFrame q.die j (statusWord 7 q.die 5)
  | none => s
def State.rejectSel (s : State) (q : FqSel) : State :=
  (((((s.answerWarps q.warps fun p => some { p with answer := some 0x05 }).rejectGraphs q).rejectUpds q).rejectFrame q).rejectJobs
    q).rejectAccs q

/-- A command's fields (R51). -/
def fqOne (die : Nat) (v : BitVec 62) : FqSel :=
  ⟨die, bitsOf v.toNat 53 38, some (bitsOf v.toNat 37 28, bitsOf v.toNat 27 22, bitsOf v.toNat 21 14)⟩
def fqAsid (die : Nat) (v : BitVec 62) : FqSel := ⟨die, bitsOf v.toNat 53 38, none⟩
def fqMbz (v : BitVec 62) : Bool := bitsOf v.toNat 61 54 == 0 && bitsOf v.toNat 13 0 == 0

/-- A command that is ignored (R51). -/
def State.countStale (s : State) (die : Nat) : State :=
  s.setDie die { s.die die with stale := min ((s.die die).stale + 1) (2 ^ 32 - 1) }

/-- A command on the die of a register block (R51). -/
def State.fqcmd (s : State) (die : Nat) (v : BitVec 62) (q : FqSel) (f : State → FqSel → State) : State :=
  if s.isOffline die then s
  else if !fqMbz v || (q.one.isSome && !q.any s) then s.countStale die
  else f s q

/-- FQCMD_REPLAY_ONE (R51, R52). -/
def execFqcmdReplayOne (die : Nat) (v : BitVec 62) (s : State) : Host.Outcome State Fault Refusal :=
  event (decide (die < 9)) (fun s => s.fqcmd die v (fqOne die v) State.replaySel) s

/-- FQCMD_REJECT_ONE (R51, R52). -/
def execFqcmdRejectOne (die : Nat) (v : BitVec 62) (s : State) : Host.Outcome State Fault Refusal :=
  event (decide (die < 9)) (fun s => s.fqcmd die v (fqOne die v) State.rejectSel) s

/-- FQCMD_REPLAY_ASID (R51, R52). -/
def execFqcmdReplayAsid (die : Nat) (v : BitVec 62) (s : State) : Host.Outcome State Fault Refusal :=
  event (decide (die < 9)) (fun s => s.fqcmd die v (fqAsid die v) State.replaySel) s

/-- FQCMD_REJECT_ASID (R51, R52). -/
def execFqcmdRejectAsid (die : Nat) (v : BitVec 62) (s : State) : Host.Outcome State Fault Refusal :=
  event (decide (die < 9)) (fun s => s.fqcmd die v (fqAsid die v) State.rejectSel) s

/-! Homes that are offline (R54, R397) -/

/-- 200 ms. -/
def offlineLimit : Nat := 200000000

/-- A requester that waits for a home that has been offline for 200 ms. -/
def Park.late (p : Park) (now : Nat) : Bool := p.ftype == 6 && p.answer.isNone && decide (p.tick + offlineLimit ≤ now)

/-- The issued accesses of a warp's instruction that have waited 200 ms (R397). -/
def State.offlineAccs (s : State) (warp : Nat) (pc : Dword) : List (Nat × Access × Dword) :=
  match mapFind s.warps warp with
  | none => []
  | some w => w.offl.filterMap fun o => match mapFind s.accs o.uid with
    | some a => (o.park.filter fun p => a.pc == pc && p.late s.tick).map fun p => (o.uid, a, p.va)
    | none => none

/-- HOME_OFFLINE_TIMEOUT (R54, R397). -/
def State.offlineTimeout (s : State) (r : Requester) : State :=
  match r with
  | .path warp pc =>
    let late (at_ : Dword) (p : Park) : Bool := at_ == pc && p.late s.tick
    let up (p : Park) : Option Park := some { p with answer := some 0x0E }
    let s := s.modWarp warp fun w =>
      let block := w.block.bind fun p => if late w.pc p then up p else some p
      let paths := w.paths.map fun x => { x with park := x.park.bind fun p => if late x.pc p then up p else some p }
      let v := { w with block := block, paths := paths }
      if v.running || v.ended then v else v.switch s.clock
    (s.offlineAccs warp pc).foldl (fun s e => s.accFail e.1 e.2.1 0x0E e.2.2) s
  | .job n =>
    match mapFind s.jobs n, mapFind s.upds n, mapFind s.graphs n with
    | some j, _, _ =>
      match j.park with
      | some p => if p.late s.tick then s.jobFail n j 0x0E p.va 0 else s
      | none => s
    | none, some u, _ =>
      if u.park.any fun p => p.late s.tick then ({ s with upds := mapDel s.upds n } : State).latchSkip u else s
    | none, none, some g => if g.park.any fun p => p.late s.tick then s.endEarly n { g with park := none } g.at_ else s
    | none, none, none => s
  | .frame die =>
    match (s.unit die).frame with
    | some j => if j.park.any fun p => p.late s.tick then s.endFrame die j (statusWord 7 die 0x0E) else s
    | none => s
def execHomeOfflineTimeout (r : Requester) (s : State) : Host.Outcome State Fault Refusal :=
  event true (fun s => s.offlineTimeout r) s

/-! A home that is there again (R54, R394 step 10) -/

/-- Whether a fault waits for a home. -/
def Park.waitsFor (home : Nat) (p : Park) : Bool := p.ftype == 6 && p.answer.isNone && p.home == home

/-- The requesters that wait for a home are replayed; the issued accesses of saved workgroups, when those are restored. -/
def State.homeBack (s : State) (home : Nat) : State :=
  let free (p : Option Park) : Option Park := p.filter fun k => !k.waitsFor home
  let jobs : FMap Job := s.jobs.map fun e => (e.1, { e.2 with park := free e.2.park })
  let graphs : FMap Graph := s.graphs.map fun e => (e.1, { e.2 with park := free e.2.park })
  let upds : FMap LatchUpd := s.upds.map fun e => (e.1, { e.2 with park := free e.2.park })
  let units : FMap DieUnit := s.units.map fun e =>
    (e.1, { e.2 with frame := e.2.frame.map fun j => { j with park := free j.park } })
  let s : State := { s with jobs := jobs, graphs := graphs, upds := upds, units := units }
  let warps : FMap Warp := s.warps.map fun e => (e.1, e.2.answer (fun p => p.waitsFor home) (fun _ => none) s.clock)
  State.replayAccs { s with warps := warps } fun _ _ p => p.waitsFor home

/-- The requesters that wait for a home take home offline, since its contents are gone (R394 step 10). -/
def State.homeGone (s : State) (home : Nat) : State :=
  let up (p : Park) : Option Park := some { p with answer := some 0x0E }
  let s : State := { s with warps := s.warps.map fun e => (e.1, e.2.answer (Park.waitsFor home) up s.clock) }
  let s := (s.jobs.filter fun e => e.2.park.any (Park.waitsFor home)).foldl (fun s e =>
    s.jobFail e.1 e.2 0x0E ((e.2.park.map fun p => p.va).getD 0) 0) s
  let s := (s.graphs.filter fun e => e.2.park.any (Park.waitsFor home)).foldl (fun s e =>
    s.endEarly e.1 { e.2 with park := none } e.2.at_) s
  let s := (s.upds.filter fun e => e.2.park.any (Park.waitsFor home)).foldl (fun s e =>
    ({ s with upds := mapDel s.upds e.1 } : State).latchSkip e.2) s
  let s := (List.range 9).foldl (fun s d => match (s.unit d).frame with
    | some j => if j.park.any (Park.waitsFor home) then s.endFrame d j (statusWord 7 d 0x0E) else s
    | none => s) s
  (s.parkedAccs fun _ _ p => p.waitsFor home).foldl (fun s e => s.accFail e.1 e.2.1 0x0E e.2.2.va) s

end Sys2Proof.Machine
end

