-- ==== Sys2Proof/Machine/Loss.lean ====
section
/-! DEFINITION. Dies that go offline, and lost links (spec 01 R14, R20, 04 R98, R99, 14 R334, R337, R341, 16 R398, R399). -/

namespace Sys2Proof.Machine

/-! Groups of dies (R398) -/

/-- The dies that a set of dies reaches in `n` hops more over the links that are up: a die that is offline and whose links are up
still forwards (R394). -/
def State.reach (s : State) : Nat → List Nat → List Nat
  | 0, l => l
  | n + 1, l => s.reach n ((List.range 9).filter fun d => l.contains d || l.any fun e => s.linked d e)

/-- The groups of live dies that still reach each other (R398). -/
def State.groupsOf (s : State) : List (List Nat) :=
  (s.live.map fun d => s.live.filter fun e => (s.reach 8 [d]).contains e).eraseDups

/-- The group that goes on (R398): the largest, then the one with die 4, then the one with the lowest die. -/
def pickGroup (gs : List (List Nat)) : List Nat :=
  gs.foldl (fun (b : List Nat) g =>
    if b.length < g.length then g
    else if b.length = g.length ∧ g.contains 4 ∧ !b.contains 4 then g
    else b) []

/-- The live dies that the continuing group no longer reaches (R398). -/
def State.cutOff (s : State) : List Nat :=
  let stay := pickGroup s.groupsOf
  s.live.filter fun d => !stay.contains d

/-! What runs on a die -/

/-- The workgroups of a die that have not ended. -/
def State.wgsOn (s : State) (die : Nat) : List Nat :=
  (s.wgs.filter fun e => e.2.die == die && decide (e.2.phase ≠ .ended)).map fun e => e.1

/-- The cause of a kill that no trap brings: a fenced die's (R398), a warm reset's with KILL = 1 (R394; DESIGN CHOICE, log 50). -/
def lossCause : Nat := 0x0E

/-- The workgroups of a die are gone at once, saved ones too: lost with the die (R394 step 7), or killed, so that their launches
keep the kill (R388, R398). -/
def State.cutWork (s : State) (die : Nat) (kill : Bool) : State :=
  let gone := s.wgsOn die
  let launches := ((s.wgs.filter fun e => gone.contains e.1).map fun e => e.2.launch).eraseDups
  let s := if kill then gone.foldl (fun s i => s.killWg i lossCause) s else s
  let warps := (s.warps.filter fun e => gone.contains e.2.wg).map fun e => e.1
  let ended (g : Workgroup) : Workgroup :=
    { g with phase := .ended, alloc := 0, scratch := [], vregs := [], lfsr := [], frags := [], image := none }
  let s : State := { s with
    wgs := s.wgs.map fun e => if gone.contains e.1 then (e.1, ended e.2) else e
    warps := s.warps.filter fun e => !gone.contains e.2.wg
    accs := s.accs.filter fun e => !gone.contains e.2.wg
    jobs := s.jobs.filter fun e => !gone.contains e.2.wg
    enqs := s.enqs.filter fun e => !gone.contains e.2.wg
    acqs := s.acqs.filter fun a => !warps.contains a.warp
    lifts := s.lifts.filter fun l => !warps.contains l.warp
    arrays := s.arrays.filter fun e => e.1 / 96 != die
    savedArrays := s.savedArrays.filter fun e => !gone.contains e.1 }
  -- workgroups elsewhere may wait for them at a barrier (R171)
  (s.wgs.filter fun e => launches.contains e.2.launch).foldl (fun s e => s.evalBarriers e.1) s

/-- A saved workgroup is killed: what was saved of it is gone. -/
def State.killSaved (s : State) (id : Nat) : State :=
  let s : State := { s with
    jobs := s.jobs.filter fun e => e.2.wg != id
    savedArrays := mapDel s.savedArrays id }
  ((s.modWg id fun g => { g with image := none }).killWg id lossCause).settle id

/-- The workgroups of a die are killed (R388, R394 step 1): accesses and jobs that have been issued complete or drain; those that
are parked, and would wait for an answer, end (log 50). -/
def State.killWork (s : State) (die : Nat) : State :=
  let ids := (s.wgsOn die).filter fun i => (mapFind s.wgs i).any fun g => g.killed.isNone
  let s := ids.foldl (fun s i =>
    if (mapFind s.wgs i).any fun g => decide (g.phase = .saved) then s.killSaved i
    else (s.killWg i lossCause).settle i) s
  let on (wg : Nat) : Bool := (s.wgsOn die).contains wg
  let s := (s.jobs.filter fun e => on e.2.wg).foldl (fun s e => match e.2.park with
    | some p => s.jobFail e.1 e.2 lossCause p.va 0
    | none => s) s
  (s.accs.filter fun e => on e.2.wg && s.parkedAcc e.1).foldl (fun s e => s.accFail e.1 e.2 lossCause 0) s

/-- Whether nothing of a die's workgroups is left to complete. -/
def State.workOver (s : State) (die : Nat) : Bool :=
  (s.wgsOn die).isEmpty && !(s.accs.any fun e => coreDie e.2.core == die) && !(s.jobs.any fun e => e.2.core / 96 == die) &&
    !(s.enqs.any fun e => e.2.die == die)

/-! Launches (R334) -/

/-- Leader and mirror among the launch's live dies, `die` apart. -/
def Launch.elect (l : Launch) (live : List Nat) (die : Nat) : Launch :=
  let ds := (l.spans.map fun x => x.die).filter fun d => d != die && live.contains d
  { l with leader := ds.headD (live.headD 0), mirror := ds[1]? }

/-- A launch whose batches of a lost die cannot be run again: no further batch is granted, those that the other dies have been
granted end; a co-resident one that has not been placed never is. -/
def Launch.doom (l : Launch) : Launch :=
  { l with lost := true, again := []
           spans := l.spans.map fun x =>
             if l.coop then { x with todo := [], dry := true, asked := false, since := none, blocking := false }
             else { x with dry := true, asked := false } }

/-- Put batches in order of their index. -/
def batchOrder (l : List (Nat × Nat)) : List (Nat × Nat) := l.mergeSort fun a b => decide (a.1 ≤ b.1)

/-- The D combinations of a rank, whole (R152). -/
def Launch.rankRange (l : Launch) (rank : Nat) : List Range :=
  let nd := levelProduct l.levels 1
  let k := l.nspans
  if rank < nd then [⟨rank, rank, 0, levelProduct l.levels 2, (nd - rank + k - 1) / k - 1, k⟩] else []

/-- What the loss of a die does to a launch that includes it; `took` are the ranks of lost die-spans whose combinations the die has
placed workgroups of. -/
def Launch.loseDie (l : Launch) (live : List Nat) (took : List Nat) (die : Nat) : Launch :=
  match l.span die with
  | none => l
  | some x =>
    let mine := (l.batches.filter fun b => b.die == die).map fun b => (b.lo, b.hi)
    let l : Launch := { l.elect live die with
      spans := l.spans.filter fun y => y.die != die
      batches := l.batches.filter fun b => b.die != die }
    let hasD := l.levels.any fun e => e.1 == 1
    if l.coop ∨ l.spans = [] then l.doom
    else if hasD then
      if l.reissue then
        -- what it had itself taken over from another lost die as well
        let again := ((x.rank :: (x.todo.map fun r => r.rank) ++ took).eraseDups).flatMap l.rankRange
        { l with spans := l.spans.zipIdx.map fun y => if y.2 = 0 then { y.1 with todo := y.1.todo ++ again } else y.1 }
      else l.doom
    else if mine = [] then l
    else if l.reissue then
      { l with again := batchOrder (l.again ++ mine), spans := l.spans.map fun y => { y with dry := false } }
    else l.doom

/-- Control messages of launches to or from a lost die (R20, R334): what went to a lost leader or mirror goes to the new
one, a grant that waited for the lost mirror is sent; what the lost die sent, or was sent, is gone. -/
def State.reroute (s : State) (die : Nat) : State :=
  let old := s.ctl
  old.foldl (fun s m =>
    if m.src ≠ die ∧ m.dst ≠ die then { s with ctl := s.ctl ++ [m] }
    else
      match m.body with
      | .batchReq l =>
        if m.src ≠ die ∧ (mapFind s.launches l).isSome then s.tell m.src (s.launch l).leader (.batchReq l) else s
      | .batchMirror l lo hi d =>
        let x := s.launch l
        if (mapFind s.launches l).isNone ∨ d = die then s
        else
          match x.mirror with
          | some n => s.tell x.leader n (.batchMirror l lo hi d)
          | none => s.tell x.leader d (.batchGrant l lo hi)
      | .batchGrant l lo hi => if m.dst ≠ die ∧ (mapFind s.launches l).isSome then s.tell (s.launch l).leader m.dst (.batchGrant l lo hi) else s
      | .pantryEnq u => if m.src ≠ die then s.tell m.src m.dst (.pantryEnq u) else s
      | .powerStep mhz => if m.dst ≠ die then s.tell s.mdl.mgmt m.dst (.powerStep mhz) else s
      | .errorNote e => if m.src ≠ die ∧ s.mdl.mgmt ≠ m.src then s.tell m.src s.mdl.mgmt (.errorNote e) else s
      | _ => s) { s with ctl := [] }

/-- The ranks that workgroups of a launch on a die have. -/
def State.ranksOn (s : State) (lid die : Nat) : List Nat :=
  ((s.wgs.filter fun e => e.2.launch == lid && e.2.die == die).map fun e => e.2.rank).eraseDups

/-- The launches that include a lost die follow R334. -/
def State.loseLaunches (s : State) (die : Nat) : State :=
  let live := s.live.filter (· != die)
  (({ s with launches := s.launches.map fun e => (e.1, e.2.loseDie live (s.ranksOn e.1 die) die) } : State)).reroute die

/-- The launches that include a die under warm reset are suspended, and their roles move (R394 step 1). -/
def State.suspendLaunches (s : State) (die : Nat) : State :=
  let live := s.live
  { s with launches := s.launches.map fun e =>
      if e.2.spans.any fun x => x.die == die then (e.1, { e.2.elect live die with suspended := true }) else e }

/-! STEER (R341) -/

/-- The next live die after `d`, in ascending order and wrapping after 8. -/
def nextLive (live : List Nat) (d : Nat) : Nat := (((List.range 9).map fun i => (d + 1 + i) % 9).find? fun e => live.contains e).getD d

/-- Write entry `h` of STEER on every die. -/
def State.setSteer (s : State) (h v : Nat) : State :=
  (List.range 9).foldl (fun s d =>
    let off := 0x10800 + 8 * (h / 16)
    let x := s.reg d off
    let old := x / 2 ^ (4 * (h % 16)) % 16
    s.setReg d off (x - old * 2 ^ (4 * (h % 16)) + v * 2 ^ (4 * (h % 16)))) s

/-- The entries that name a die are rewritten; the dies that an entry has named are kept for their return, the last first (R341,
R394). -/
def State.remapSteer (s : State) (die : Nat) : State :=
  let live := s.live.filter (· != die)
  (List.range 512).foldl (fun s h =>
    if s.steer s.mdl.mgmt h = die then
      let past := storeGet [] s.mdl.steered h
      ({ s with mdl := { s.mdl with steered := storeSet [] s.mdl.steered h (die :: past) } } : State).setSteer h (nextLive live die)
    else s) s

/-- The entries that named a die before it went away name it again (R394 step 9), and no longer one that took its place. -/
def State.restoreSteer (s : State) (die : Nat) : State :=
  (s.mdl.steered.filter fun e => e.2.contains die).foldl (fun s e =>
    let past := (e.2.dropWhile (· != die)).drop 1
    ({ s with mdl := { s.mdl with steered := storeSet [] s.mdl.steered e.1 past } } : State).setSteer e.1 die) s

/-! Going offline (R98, R99) -/

/-- Transactions at other homes that wait for a reply of the die go on as if it had said NOCOPY (R98). -/
def State.noReplies (s : State) (die : Nat) : State :=
  (List.range 9).foldl (fun s h =>
    if h = die ∨ s.isOffline h then s
    else
      ((s.die h).txns.filter fun t => t.waits.contains die).foldl (fun s t =>
        match (s.die h).txns.find? fun u => u.msg.line == t.msg.line && u.waits.contains die with
        | some u => s.homeGo h { u with waits := u.waits.filter (· != die) }
        | none => s) s) s

/-- Transactions at other homes that the die itself had asked for: those that wait for no reply are over; the snoops of the others
that have not arrived are taken back, and they end with the replies to the rest. -/
def State.endTxns (s : State) (die : Nat) : State :=
  (List.range 9).foldl (fun s h =>
    if h = die ∨ s.isOffline h then s
    else
      let s := s.setDie h { s.die h with queue := (s.die h).queue.filter fun m => m.1.src != die }
      ((s.die h).txns.filter fun t => t.msg.src == die).foldl (fun s t =>
        match t.phase with
        | .snoops =>
          let mine (m : CohMsg) : Bool := m.src == h && m.line == t.msg.line && m.code.isSnoop
          let kept := (s.net.filter mine).map fun m => m.dst
          let s : State := { s with net := s.net.filter fun m => !mine m }
          s.homeGo h { t with waits := t.waits.filter fun d => !kept.contains d }
        | .evict _ => s
        | _ => s.homeClose h t.msg.line) s) s

/-- Requests of other dies that the die had accepted are answered with HomeOffline (R99); one whose line has come is
over. Requests still on their way are answered when they arrive. -/
def State.refuseRequests (s : State) (die : Nat) : State :=
  (List.range 9).foldl (fun s d =>
    if d = die then s
    else
      ((s.die d).reqs.filter fun r => homeOf r.line == die).foldl (fun s r =>
        if s.net.any fun m => m.src == d && m.txn == r.txn && m.dst == die then s
        else if r.inst then s.reqDel d r.txn
        else s.send (msgOf .homeOffline (s.refuser d die) d d 0 r.cls r.txn r.line)) s) s

/-- What the other dies keep of a die that goes offline ends: its head's urgency (R115), its edges (R407), its part in a step of the
clock (R413). -/
def State.unitsOffline (s : State) (die : Nat) : State :=
  let bit := BitVec.ofNat 9 (2 ^ die)
  let s := (List.range 9).foldl (fun s d => s.setUnit d { s.unit d with urgency := (s.unit d).urgency &&& ~~~bit }) s
  let s := s.setHead die { (s.unit die).head with urgent := false }
  let p := s.mdl.power
  ({ s with
    ctl := s.ctl.filter fun m => m.src != die || (match m.body with | .urgency _ _ => false | _ => true)
    mdl := { s.mdl with
      fl := { s.mdl.fl with fires := s.mdl.fl.fires.filter fun e => e.die != die }
      power := { p with waits := p.waits.filter (· != die) } } } : State).powerArm

/-- A die is marked offline on every live die (R98, R99, R394 step 4, R398): messages of its own and replies to it are gone;
WriteBacks to it wait. -/
def State.markOffline (s : State) (die : Nat) : State :=
  if s.isOffline die then s
  else
    let s : State := { s with
      offline := die :: s.offline
      net := s.net.filter fun m => m.src != die && (m.dst != die || m.code.isRequest || m.code == .writeBack) }
    let s := ((s.noReplies die).endTxns die).refuseRequests die
    let s := s.setDie die { s.die die with txns := [], queue := [], reqs := [], wbs := [] }
    let s := (s.remapSteer die).unitsOffline die
    -- collectives of the die, enqueues on their way to it
    let s := (s.colls.filter fun x => x.set.contains die || x.members.any fun m => m.die == die).foldl
      (fun s x => s.collFail x 0x0E) s
    (s.enqs.filter fun e => e.2.waits.contains die).foldl (fun s e => s.resteer e.1 die) s

/-- The management role (R399): die 4 when it runs, else the lowest die. -/
def State.moveRole (s : State) : State :=
  let live := s.live
  if live.contains s.mdl.mgmt then s
  else { s with mdl := { s.mdl with mgmt := live.headD s.mdl.mgmt } }

/-- The records and deques of a die are lost (R337, R341). -/
def State.losePantry (s : State) (die : Nat) : State :=
  let n := (s.unit die).pantry.recs.length
  let s : State := { s with
    deques := s.deques.filter fun e => e.1 / 96 != die
    bad := s.bad.filter fun b => match b.at_ with
      | .pantry d => d != die
      | .deque c => c / 96 != die
      | _ => true }
  let u := s.unit die
  (s.setUnit die { u with pantry := { u.pantry with recs := [], rings := [] } }).counts s.mdl.mgmt 0x10408 false n

/-- Updates of completion latches that a lost die was to make are made by the die with the management role. -/
def State.moveUpds (s : State) (die : Nat) : State :=
  { s with upds := s.upds.map fun e => if e.2.die = die then (e.1, { e.2 with die := s.mdl.mgmt }) else e
           graphs := s.graphs.filter fun e => e.2.home != die }

/-- The lines that a die holds dirty and that another die homes (R99): in L2, in the Attic, or come for a request and not
installed. -/
def State.dirtyAway (s : State) (die : Nat) : List Nat :=
  let l2 := ((s.die die).l2.filter fun e => homeOf e.2.line != die && (decide (e.2.st = .m) || decide (e.2.st = .o))).map
    fun e => e.2.line
  let base := (die * 2 ^ 40 + atticTag s.attic) / 128
  let tags := ((s.mem.filter fun e => decide (base ≤ e.1 / 128) && decide (e.1 / 128 < base + 2 ^ atticS s.attic)).map
    fun e => e.1 / 128).eraseDups
  let attic := tags.flatMap fun t => (List.range 16).filterMap fun w =>
    (atticTagOf (entryOf (memLine s.mem t) w)).bind fun a => if a.st = .m ∨ a.st = .o then some a.line else none
  let come := ((s.die die).reqs.filter fun r => !r.inst && r.got.any fun g => decide (g.2 ≠ 0)).map fun r => r.line
  (l2 ++ attic ++ come).eraseDups

/-- Whether a message carries the only dirty copy of its line: a WriteBack, data given up, data forwarded with ownership. -/
def CohMsg.onlyCopy (m : CohMsg) : Bool :=
  decide (m.smask ≠ 0) && (match m.code with
    | .writeBack | .data => true
    | .dataFwd => decide (m.cd ≠ 0)
    | _ => false)

/-! Messages at a lost link (R20) -/

/-- A control-class message is delivered. -/
def State.pickCtl (dst : Nat) (body : CtlBody) (k : Nat) : State → Host.Outcome State Fault Refusal :=
  match body with
  | .launchFwd _ => execLaunchfwd k
  | .batchReq _ => execBatchreq k
  | .batchGrant _ _ _ => execBatchgrant k
  | .batchMirror _ _ _ _ => execBatchmirror k
  | .batchDone _ _ _ _ => execBatchdone k
  | .latchWake _ => execLatchwake k
  | .pantryEnq _ => execPantryenq k
  | .pantryCode _ => execPantrycode k
  | .graphDone _ _ _ => execGraphdone k
  | .urgency _ _ => execUrgencyChange k
  | .errorNote _ => execErrornote k
  | .powerStep _ => execPowerstep dst

/-- Whether a message that goes from one side of a cut to the other is past it: its first hop, which it has taken (log 19), led to the
other side. -/
def State.pastLink (s : State) (out : List Nat) (src dst : Nat) : Bool :=
  out.contains src != out.contains dst && out.contains (s.nextHop src dst) == out.contains dst && s.routed src dst

/-- The messages that are past the links that cut a group of dies off are delivered unchanged (R20). -/
def State.deliverPast (s : State) (out : List Nat) : State :=
  let net := s.net.filter fun m => s.pastLink out m.src m.dst
  let ctl := s.ctl.filter fun m => s.pastLink out m.src m.dst
  let s : State := { s with
    net := s.net.filter fun m => !s.pastLink out m.src m.dst
    ctl := s.ctl.filter fun m => !s.pastLink out m.src m.dst }
  let s := net.foldl (fun s m =>
    if m.code = .homeOffline then s.homeOfflineArrive m
    else (s.deliver m).getD { s with net := s.net ++ [m] }) s
  ctl.foldl (fun s m =>
    match State.pickCtl m.dst m.body s.ctl.length { s with ctl := s.ctl ++ [m] } with
    | .next s => s
    | _ => s) s

/-- Whether a message is lost with a group of dies that is cut off. What waits to go to one of them from a die that runs on is not: a
request is answered with HomeOffline (R20), a WriteBack waits. -/
def CohMsg.goesWith (m : CohMsg) (out : List Nat) : Bool :=
  out.contains m.src || (out.contains m.dst && !(m.code.isRequest || m.code == .writeBack))

/-- The messages that a group of dies takes with it as it is cut off (R99; log 50): a transaction that waits for a WriteBack of
it, or for data that one of them has forwarded, completes from memory; a WriteBack whose acknowledgement is lost is over. -/
def State.cutMessages (s : State) (out : List Nat) : State :=
  let lost := s.net.filter fun m => m.goesWith out
  let s : State := { s with net := s.net.filter fun m => !m.goesWith out }
  lost.foldl (fun s m =>
    let h := homeOf m.line
    if out.contains h ∨ s.isOffline h then
      if m.code = .ack ∧ m.cd = 0 ∧ m.src = h then
        s.setDie m.dst { s.die m.dst with wbs := (s.die m.dst).wbs.filter (· != (m.line, m.txn)) }
      else s
    else
      let t := (s.die h).txns.find? fun t => t.holds m.line
      match m.code, t with
      | .writeBack, some t => if t.wbWait then s.homeGo h { t with wbWait := false } else s
      | .dataFwd, some t =>
        -- the owner's Ack has come, so that the home counts on the data
        if out.contains m.src ∧ !out.contains m.dst ∧ !t.waits.contains m.src then
          s.send { msgOf .dataFwd h m.dst m.req m.cd m.cls m.txn m.line with data := memLine s.mem m.line }
        else s
      | _, _ => s) s

/-- Dies that fence themselves (R398), with what follows for the group that goes on (R99, R334, R337, R341, R399). -/
def State.fence (s : State) (out : List Nat) : State :=
  let far (x : Nat) : Bool := !out.contains (homeOf x) && !s.isOffline (homeOf x)
  let held := out.flatMap s.dirtyAway
  let sent := (s.net.filter fun m => m.goesWith out && m.onlyCopy).map fun m => m.line
  let lines := ((held ++ sent).eraseDups).filter far
  let mdl : Module := { s.mdl with
    fenced := out ++ s.mdl.fenced
    -- a warm reset of a die that is cut off ends with it (log 50)
    warm := s.mdl.warm.filter fun r => !out.contains r.die || decide (4 < r.step) }
  let s := ({ s with mdl := mdl } : State).moveRole.installRoutes
  let s := (out.foldl (fun s d => s.cutWork d true) s).cutMessages out
  let s := out.foldl (fun s d => (((s.losePantry d).loseLaunches d).markOffline d).moveUpds d) s
  lines.foldl (fun s x =>
    s.logError { structure_ := 10, die := homeOf x, sector := 0, lost := true, uncorr := false, line := x }) s

/-- The live dies find out whom they still reach (R398): the groups that do not go on fence themselves; the others get new route
tables (R20). -/
def State.regroup (s : State) : State :=
  match s.cutOff with
  | [] => s.installRoutes
  | out => s.fence out

/-- Links are lost or go down (R20): what is past them is delivered, and then the dies regroup. -/
def State.loseLinks (s : State) (lost down : List (Nat × Nat)) : State :=
  let enter (s : State) : State := { s with mdl := { s.mdl with lost := lost, down := down } }
  (enter (s.deliverPast (enter s).cutOff)).regroup

/-- LINK_LOST (R20, R398, R399): the messages whose next hop it was go on by the new route tables; a group of dies that the
continuing group cannot reach fences itself. -/
def execLinkLost (a b : Nat) (s : State) : Host.Outcome State Fault Refusal :=
  event (fabricLinks.contains (linkOf a b)) (fun s =>
    if s.mdl.lost.contains (linkOf a b) then s else s.loseLinks (linkOf a b :: s.mdl.lost) s.mdl.down) s

end Sys2Proof.Machine
end

