-- ==== Sys2Proof/Machine/Resets.lean ====
section
/-! DEFINITION. Machine checks (spec 04 R104), boot and life cycle (17 R411, R412), the warm reset of one die (16 R393 to
R396). -/

namespace Sys2Proof.Machine

/-! Machine checks -/

/-- Whether an address lies in the tag area of a die's Attic reservation, in the part that holds Attic tags (cause 1 of R415) or in
the part that holds the home directory (cause 2) (R84, R86). -/
def State.tagPart (s : State) (die pa cause : Nat) : Bool :=
  let lo := die * 2 ^ 40 + atticTag s.attic
  let n := 2 ^ (atticS s.attic + 7)
  let from_ := lo + (cause - 1) * n
  (cause == 1 || cause == 2) && decide (from_ ≤ pa) && decide (pa < from_ + n)

/-- MACHINE_CHECK (R104, R414, R415): 1 an error in an Attic tag line, 2 in a home directory line, at an address of one; 3 a message
with a reserved code. -/
def execMachineCheck (cause : Byte) (die : Nat) (pa : BitVec 48) (s : State) : Host.Outcome State Fault Refusal :=
  let tag := s.tagPart die pa.toNat cause.toNat
  let msg := cause == 3 && decide (pa.toNat < 64) && reservedMsg pa.toNat
  event (decide (die < 9) && (tag || msg) && !s.mdl.stopped) (fun s =>
    s.machineCheck cause.toNat die (if cause = 3 then pa.toNat else pa.toNat / 128 * 128)) s

/-! Boot (R411, R412) -/

/-- The number of a life-cycle state in a report; the key that it accepts: 0 the manufacture key, 1 the owner key. -/
def LifeState.code : LifeState → Nat
  | .manufacture => 0
  | .secured => 1
  | .returned => 2
def LifeState.key : LifeState → Nat
  | .secured => 1
  | _ => 0

/-- An Attic setting, a port mode (R402) as numbers of their boot configuration blocks. -/
def atticNo : Config.AtticSize → Nat
  | .sixteenth => 0
  | .eighth => 1
  | .quarter => 2
def portNo (root : Bool) : Nat := if root then 1 else 0

/-- Extend a die's measurement log by an entry (R412). -/
def DieUnit.extend (u : DieUnit) (entry : List Byte) : DieUnit :=
  { u with measure := sha384 (u.measure ++ entry), measured := u.measured + 1 }

/-- A die boots with an image (R411, R412): its log begins, or it waits in recovery. -/
def DieUnit.boot (u : DieUnit) (ok : Bool) (attic : Config.AtticSize) (root : Bool) (image : List Byte) : DieUnit :=
  let u := { u with measure := List.replicate 48 0, measured := 0, recovery := !ok }
  if ok then ((u.extend image).extend (Config.bootBlock 0 (atticNo attic))).extend (Config.bootBlock 1 (portNo root)) else u

/-- Memory without the tag areas of the Attics (R83, R394). -/
def withoutTags (attic : Config.AtticSize) (m : FMap Byte) : FMap Byte :=
  m.filter fun e => !(decide (e.1 < 0x90000000000) && decide (atticTag attic ≤ e.1 % 2 ^ 40))

/-- Memory that is not homed on a die (R23). -/
def outsideDies (m : FMap Byte) : FMap Byte := m.filter fun e => decide (0x90000000000 ≤ e.1)

/-- A reset of the whole module (R104, R402, R411): all SRAM is zeroed, and every die boots with the boot configuration's Attic
setting and port mode; memory is as given. The driver's vectors are no state of the part that a rule resets (log 9). -/
def State.restart (s : State) (attic : Config.AtticSize) (root : Bool) (life : LifeState) (image : List Byte) (mem : FMap Byte) :
    State :=
  let ok := Config.signatureOk life.key image
  { State.reset with
    tick := s.tick, clock := s.clock, schedule := s.schedule, turnNo := s.turnNo, freshCount := s.freshCount
    msis := s.msis, hostData := s.hostData, attic := attic, mem := mem
    bad := s.bad.filter fun b => decide (b.at_ = .dram)
    units := (List.range 9).map fun d => (d, DieUnit.reset.boot ok attic root image)
    mdl := { Module.reset with life := life, image := image, booted := ok, root := root, vectors := s.mdl.vectors } }

/-- MODULE_RESET (R104, R27, R402): memory keeps its contents. -/
def execModuleReset (b : BootSetup) (s : State) : Host.Outcome State Fault Refusal :=
  event true (fun s => s.restart b.attic b.root s.mdl.life s.mdl.image (withoutTags b.attic s.mem)) s

/-- POWER_ON_BOOT (R402, R411): all memory is zeroed before the first launch is accepted. -/
def execPowerOnBoot (b : BootSetup) (image : List Byte) (s : State) : Host.Outcome State Fault Refusal :=
  event true (fun s =>
    { s.restart b.attic b.root s.mdl.life image [] with tick := 0, clock := 0, msis := [], hostData := [], bad := [] }) s

/-- LIFE_CYCLE_TRANSITION (R411): a command signed by the key of the current state; it zeroes the dies' memory, not what
lies in the external window. -/
def execLifeCycleTransition (cmd : List Byte) (s : State) : Host.Outcome State Fault Refusal :=
  event true (fun s =>
    let next : Option LifeState := match s.mdl.life with
      | .manufacture => some .secured
      | .secured => some .returned
      | .returned => none
    match next with
    | some l => if Config.signatureOk s.mdl.life.key cmd then s.restart s.attic s.mdl.root l s.mdl.image (outsideDies s.mem) else s
    | none => s) s

/-! The reset of one die -/

/-- RSTSTAT (R393). -/
def State.rststat (s : State) (cmd result : Nat) : State := s.setReg s.mdl.mgmt 0x80008 (cmd / 2 ^ 32 * 2 ^ 32 + result)

/-- Go on to a step of the reset under way; end it. -/
def State.warmTo (s : State) (r : WarmReset) (k : Nat) : State := { s with mdl := { s.mdl with warm := some { r with step := k } } }
def State.warmEnd (s : State) (r : WarmReset) (result : Nat) : State :=
  ({ s with mdl := { s.mdl with warm := none } } : State).rststat r.cmd.toNat result

/-- Step 1, workgroups saved (R390): those of the die stop, a co-resident launch's on all its dies with them (R157), and each is saved
once it has drained. Those for which a save area has no room run on to their end (log 50). -/
def State.saveAll (s : State) (die : Nat) : State :=
  let s := (s.wgs.filter fun e => e.2.die == die).foldl (fun s e =>
    match mapFind s.wgs e.1 with
    | some g => if g.phase = .placed ∨ g.phase = .growing then (s.preempt (s.together (e.1, g))).getD s else s
    | none => s) s
  (s.wgs.filter fun e => e.2.die == die && decide (e.2.phase = .draining)).foldl (fun s e =>
    if s.drained e.1 then s.saveWg e.1 else s) s

/-- Whether every workgroup of a die is saved or has ended. -/
def State.allSaved (s : State) (die : Nat) : Bool :=
  s.wgs.all fun e => e.2.die != die || decide (e.2.phase = .saved) || decide (e.2.phase = .ended)

/-- The lines of a range of memory with a byte that is not 0. -/
def State.linesIn (s : State) (lo n : Nat) : List Nat :=
  ((s.mem.filter fun e => decide (lo ≤ e.1 / 128) && decide (e.1 / 128 < lo + n)).map fun e => e.1 / 128).eraseDups

/-- The lines that a die's home directory holds. -/
def State.dirLines (s : State) (die : Nat) : List Nat :=
  let n := 2 ^ atticS s.attic
  (s.linesIn ((die * 2 ^ 40 + atticTag s.attic) / 128 + n) n).flatMap fun t => (List.range 16).filterMap fun w =>
    (dirEntryOf (entryOf (memLine s.mem t) w)).map fun e => die * 2 ^ 33 + e.line

/-- BackInvs of a recall to the dies that the directory names (R87, R98). DESIGN CHOICE (log 90): they belong to no request, and are
class 5, that of the directory's own accesses. -/
def State.recallSnoops (s : State) (x : Nat) : State :=
  let h := homeOf x
  match s.dirView x with
  | none => s.dirSet x none
  | some (_, _, p) =>
    let ds := presDies p
    let m := msgOf .backInv h h h 0 5 0 x
    ds.foldl (fun s d => s.send (msgOf .backInv h d h 0 5 0 x))
      (s.txnPut h ⟨m, s.tick, .recall, ds, false, none, false, false, [], false⟩)

/-- Step 2: the recall of a line from the other dies begins (R87, R98). -/
def State.recallLine (s : State) (x : Nat) : State := (s.dirRead x).recallSnoops x

/-- Whether the die's home agents are idle, new requests apart, and nothing of its own lines is on its way. -/
def State.homeIdle (s : State) (die : Nat) : Bool :=
  (s.die die).txns.isEmpty && s.net.all fun m => homeOf m.line != die || m.code.isRequest

/-- Whether nothing but requests to its homes is on its way from or to a die, and no WriteBack of it is open. -/
def State.dieQuiet (s : State) (die : Nat) : Bool :=
  (s.die die).wbs.isEmpty && s.net.all fun m => m.src != die && (m.dst != die || m.code.isRequest)

/-- The lines in a die's Attic, with their ways and tags. -/
def State.atticLines (s : State) (die : Nat) : List (Nat × AtticTag) :=
  (s.linesIn ((die * 2 ^ 40 + atticTag s.attic) / 128) (2 ^ atticS s.attic)).flatMap fun t =>
    (List.range 16).filterMap fun w => (atticTagOf (entryOf (memLine s.mem t) w)).map fun a => (w, a)

/-- A die gives up the lines of some homes that its L2 and its Attic hold (R98, R102), each dirty one by `back`. -/
def State.giveUp (s : State) (die : Nat) (homes : Nat → Bool) (back : State → Nat → Nat → Line → Byte → State) : State :=
  let dirty (st : Moesi) : Bool := decide (st = .m) || decide (st = .o)
  let s := ((s.die die).l2.filter fun e => homes (homeOf e.2.line)).foldl (fun s e =>
    let s := (s.collectL1 die e.2.line e.1 .take none).l2Heal die e.1
    match mapFind (s.die die).l2 e.1 with
    | some l =>
      let s := s.l2Del die e.1
      if dirty l.st then back s l.line l.cls l.data l.dirty else s
    | none => s) s
  ((s.atticLines die).filter fun e => homes (homeOf e.2.line)).foldl (fun s e =>
    let x := e.2.line
    let s := s.atticHeal die x
    match s.atticFind die x with
    | none => s
    | some (w, t) =>
      let dl := atticDataLine s.attic die x w
      let data := memLine s.mem dl
      let s := (s.tagTouch (atticTagLine s.attic die x) true).atticPut die x w 0
      if dirty t.st then back (s.cellarReq dl 5 false) x 5 data t.dirty else s) s

/-- Step 3: the remote lines of a die's L2 and Attic go home or are dropped. -/
def State.sendHome (s : State) (die : Nat) : State :=
  s.giveUp die (fun h => h != die) fun s x c data k => s.sendWb die x c data k

/-- The recall of a fenced die's lines, as its reset begins (R87, R98): dirty data is written to memory, WriteBacks that wait for the
die have come. DEDUCED (log 94): a warm reset of a fenced die begins at step 6, and its lines must not outlive its directory. -/
def State.recallFenced (s : State) (die : Nat) : State :=
  let write (s : State) (x c : Nat) (data : Line) (k : Byte) : State := (s.cellarReq x c true).memWrite x data (nibSectors k)
  let wait (m : CohMsg) : Bool := m.code == .writeBack && m.dst == die
  let s := (s.net.filter wait).foldl (fun s m =>
    let s := write s m.line m.cls m.data m.smask
    s.setDie m.src { s.die m.src with wbs := (s.die m.src).wbs.filter (· != (m.line, m.txn)) }) s
  let s : State := { s with net := s.net.filter fun m => !wait m }
  s.live.foldl (fun s d => s.giveUp d (fun h => h == die) fun s x _ data k => write s x 5 data k) s

/-- Step 3 ends: the L2 and the Cellar are flushed. -/
def State.flushOwn (s : State) (die : Nat) : State :=
  let s := ((s.die die).l2.map fun e => e.1).foldl (fun s k => s.l2Evict die k) s
  s.setDie die { s.die die with cellar := [] }

/-- Step 6: logic and SRAM of a die, the tag area of its Attic, its whole memory when WIPE = 1. A head keeps its registers
and starts again (R396). -/
def State.resetLogic (s : State) (die : Nat) (wipe : Bool) : State :=
  let lo := die * 2 ^ 40 + if wipe then 0 else atticTag s.attic
  let hi := (die + 1) * 2 ^ 40
  let head := { Head.reset with on := (s.unit die).head.on }
  let s := s.moveUpds die
  let s : State := { s with
    mem := s.mem.filter fun e => !(decide (lo ≤ e.1) && decide (e.1 < hi))
    cores := s.cores.filter fun e => coreDie e.1 != die
    dies := mapDel s.dies die
    arrays := s.arrays.filter fun e => e.1 / 96 != die
    deques := s.deques.filter fun e => e.1 / 96 != die
    regs := s.regs.filter fun e => e.1 / 2 ^ 32 != die || (decide (0xA0000 ≤ e.1 % 2 ^ 32) && decide (e.1 % 2 ^ 32 < 0xA0048))
    bad := s.bad.filter fun b => match b.at_ with
      | .dram => !(wipe && homeOf b.line == die)
      | a => s.badDie a b.line != die }
  (s.setUnit die { DieUnit.reset with head := head }).setFrame die 0

/-- The registers that the management die forwards (R399), and those that it hands back. -/
def mgmtRegs : List Nat :=
  [0x10000, 0x10200, 0x10210, 0x10508, 0x90000, 0x90010, 0xC0000] ++ ((List.range 16).map fun i => 0x91000 + 8 * i) ++
    ((List.range 32).map fun i => 0x10800 + 8 * i)

/-- Step 9: a die is live again (R28, R395, R399, R407). -/
def State.readmit (s : State) (die : Nat) : State :=
  let s : State := { s with
    offline := s.offline.filter (· != die)
    mdl := { s.mdl with fenced := s.mdl.fenced.filter (· != die) } }
  let m := s.mdl.mgmt
  let s := mgmtRegs.foldl (fun s off => s.setReg die off (s.reg m off)) s
  let s := (s.restoreSteer die).setFrame die (s.frameNo m)
  let u := s.unit die
  let v := s.unit m
  let s := s.setUnit die { u with
    missed := v.missed, locked := v.locked, lastEdge := v.lastEdge, urgency := v.urgency
    head := { u.head with since := s.tick, check := none, timing := s.reg die 0xA0040 } }
  if die = 4 then
    let s := s.setReg 4 0x80008 (s.reg m 0x80008)
    { s with mdl := { s.mdl with mgmt := 4 } }
  else s

/-- The launches that a die's reset suspended are lost with it, or go on. -/
def State.unsuspend (s : State) : State := { s with launches := s.launches.map fun e => (e.1, { e.2 with suspended := false }) }

/-- The links of a die (R14). -/
def linksOf (die : Nat) : List (Nat × Nat) := fabricLinks.filter fun l => l.1 == die || l.2 == die

/-- Step 5: a die's links go down, and the others get new route tables; a group that is cut off now fences itself (R20, R398). -/
def State.linksDown (s : State) (die : Nat) : State :=
  s.loseLinks s.mdl.lost (linksOf die ++ s.mdl.down).eraseDups

/-- Step 8: a die's links train again; one that was lost before has been repaired. -/
def State.linksUp (s : State) (die : Nat) : State :=
  let mine (l : Nat × Nat) : Bool := (linksOf die).contains l
  let mdl : Module := { s.mdl with lost := s.mdl.lost.filter fun l => !mine l, down := s.mdl.down.filter fun l => !mine l }
  { s with mdl := mdl }

/-- The next step of a warm reset (R394), when the one before has finished. -/
def State.warmStep (s : State) (r : WarmReset) : State :=
  let die := r.die
  match r.step with
  | 1 =>
    if r.kill then
      let s := (s.killWork die).loseLaunches die
      if s.workOver die then s.warmTo r 2 else s
    else
      let s := s.saveAll die
      if s.allSaved die then (s.suspendLaunches die).warmTo r 2 else s
  | 2 =>
    if !s.homeIdle die then s
    else
      match s.dirLines die with
      | [] => s.warmTo r 3
      | xs => xs.foldl (fun s x => s.recallLine x) s
  | 3 => if (s.die die).reqs.all fun q => homeOf q.line == die then ((s.sendHome die).flushOwn die).warmTo r 4 else s
  | 4 =>
    if s.dieQuiet die then
      let s := s.markOffline die
      -- launches accepted meanwhile
      (if r.kill then s.loseLaunches die else s.suspendLaunches die).warmTo r 5
    else s
  | 5 => ((s.losePantry die).linksDown die).warmTo r 6
  | 6 => (((if s.mdl.fenced.contains die then s.recallFenced die else s).resetLogic die r.wipe)).warmTo r 7
  | 7 =>
    let ok := Config.signatureOk s.mdl.life.key s.mdl.image
    let s := s.setUnit die ((s.unit die).boot ok s.attic s.mdl.root s.mdl.image)
    if ok then s.warmTo r 8 else (((s.cutWork die false).unsuspend).loseLaunches die).warmEnd r 2
  | 8 => (s.linksUp die).warmTo r 9
  | 9 => (s.readmit die).installRoutes.warmTo r 10
  | _ => ((if r.wipe then s.homeGone die else s.homeBack die).unsuspend).warmEnd r 0

/-- Whether a host core of a die runs (R393). -/
def State.hartsOn (s : State) (die : Nat) : Bool := (List.range 8).any fun h => !s.parkedHarts.contains (die * 8 + h)

/-- A store to RSTCMD (R393, R398): refused, or the reset begins. The host cores of a fenced die run no longer. -/
def State.rstcmd (s : State) (v : Dword) : State :=
  let x := v.toNat
  let die := x % 16
  let wipe := bitOf x 4
  let kill := wipe || bitOf x 5
  if x / 64 % 2 ^ 26 ≠ 0 ∨ 8 < die ∨ die = s.mdl.mgmt ∨ s.mdl.warm.isSome ∨
      (s.isOffline die ∧ !(s.mdl.fenced.contains die && kill)) ∨ (!s.isOffline die ∧ s.hartsOn die) then s.rststat x 1
  else s.warmTo ⟨v, die, kill, wipe, 1⟩ (if s.isOffline die then 6 else 1)

/-- A store to RSTCMD of the die with the management role (R393), or a step of the reset that it began (R394). -/
def State.warm (s : State) (die : Nat) (v : WarmCmd) : State :=
  if v.step = 0 then (if die = s.mdl.mgmt then s.rstcmd v.value else s)
  else
    match s.mdl.warm with
    | some r => if r.cmd = v.value ∧ r.step = v.step then s.warmStep r else s
    | none => s

/-- WARM_RESET (R393, R394): KILL = 0, WIPE = 0. -/
def execWarmReset (die : Nat) (v : WarmCmd) (s : State) : Host.Outcome State Fault Refusal :=
  event (decide (die < 9) && !bitOf v.value.toNat 5 && !bitOf v.value.toNat 4) (fun s => s.warm die v) s

/-- WARM_RESET_KILL (R393, R394). -/
def execWarmResetKill (die : Nat) (v : WarmCmd) (s : State) : Host.Outcome State Fault Refusal :=
  event (decide (die < 9) && bitOf v.value.toNat 5 && !bitOf v.value.toNat 4) (fun s => s.warm die v) s

/-- WARM_RESET_WIPE (R393, R394). -/
def execWarmResetWipe (die : Nat) (v : WarmCmd) (s : State) : Host.Outcome State Fault Refusal :=
  event (decide (die < 9) && bitOf v.value.toNat 4) (fun s => s.warm die v) s

/-- FIRMWARE_IMAGE_WRITE (R411): a die in recovery verifies the new image; one that a reset left offline goes on with its links,
its workgroups gone. -/
def execFirmwareImageWrite (die : Nat) (image : List Byte) (s : State) : Host.Outcome State Fault Refusal :=
  event (decide (die < 9)) (fun s =>
    if (s.unit die).recovery then
      let ok := Config.signatureOk s.mdl.life.key image
      let s : State := { s with mdl := { s.mdl with image := image } }
      let s := s.setUnit die ((s.unit die).boot ok s.attic s.mdl.root image)
      let s : State := if ok ∧ s.isOffline die then ((((s.linksUp die).readmit die).installRoutes).homeBack die) else s
      if (List.range 9).all fun d => !(s.unit d).recovery then { s with mdl := { s.mdl with booted := true } } else s
    else s) s

end Sys2Proof.Machine
end

