-- ==== Sys2Proof/Machine/Host.lean ====
section
/-! DEFINITION. What the host does (spec 17 R401, R402, R415): the registers of the register blocks as it reads and writes
them, the accesses of host cores and peers to memory (06 R146). -/

namespace Sys2Proof.Machine

/-! Reading registers -/

/-- Whether a register is one that the die with the management role serves, whose value the other dies show (R399, R415). -/
def mgmtServed (off : Nat) : Bool :=
  off == 0x10000 || off == 0x10200 || off == 0x10210 || off == 0x10508 || off == 0x90000 || off == 0x90010 || off == 0xC0000 ||
    (decide (0x91000 ≤ off) && decide (off < 0x91080))

/-- The value of the 64-bit register at an offset that is a multiple of 8 (R415 and the rules that give the register). -/
def State.readReg (s : State) (die off : Nat) : Nat :=
  let d := s.die die
  let u := s.unit die
  if off = 0x10008 then s.mdl.mgmt
  else if mgmtServed off then s.mgmtReg off
  else if off = 0x10100 then d.fheld.length + d.stale * 2 ^ 32
  else if off = 0x10500 then portNo s.mdl.root
  else if 0x11000 ≤ off ∧ off < 0x11800 then (d.fq ((off - 0x11000) / 8)).head
  else if 0x12000 ≤ off ∧ off < 0x12800 then
    let q := d.fq ((off - 0x12000) / 8)
    q.tail + if q.phase then 2 ^ 32 else 0
  else if off = 0x40908 then u.urgency.toNat + u.raises * 2 ^ 32
  else if 0x60000 ≤ off ∧ off < 0x61000 then u.pantry.readWord ((off - 0x60000) / 64) ((off - 0x60000) % 64 / 8)
  else if off = 0x90008 then s.frameNo die * 2 ^ 32 + u.missed * 65536 + (if u.locked then 1 else 0)
  else if 0xB0000 ≤ off ∧ off < 0xB2000 then
    leNat ((((mapFind u.errlog ((off - 0xB0000) / 32)).getD []).drop ((off - 0xB0000) % 32)).take 8)
  else if off = 0xC0008 then s.mdl.power.mhz + s.mdl.power.steps * 2 ^ 32
  -- write-only: FQCMD, INVCMD, GSIGPORT, FJPORT, the enqueue ports
  else if off = 0x10108 ∨ off = 0x10208 ∨ (0x13000 ≤ off ∧ off < 0x13800) ∨ (0x70000 ≤ off ∧ off < 0x70040) ∨ 0x100000 ≤ off then 0
  else s.reg die off

/-! Registers without a behaviour of their own -/

/-- A register that a write only stores: whether the management die serves it, and its bits that are not reserved. -/
structure PlainReg where
  mgmt : Bool
  mask : Nat
  deriving DecidableEq, Repr

def plainReg (off : Nat) : Option PlainReg :=
  let ones : Nat := 2 ^ 64 - 1
  if off = 0x10000 then some ⟨true, 2 ^ 48 - 2 ^ 14⟩
  else if off = 0x10200 then some ⟨true, ones⟩
  else if off = 0x10300 then some ⟨false, 2 ^ 48 - 2 ^ 12⟩
  else if off = 0x10308 then some ⟨false, 2 ^ 64 - 2 ^ 12⟩
  else if 0x40100 ≤ off ∧ off < 0x40900 then some ⟨false, 0xFF⟩
  else if off = 0x40900 then some ⟨false, 0x1FF00FFFFFF⟩
  else if off = 0x41000 then some ⟨false, 1⟩
  else if 0x91000 ≤ off ∧ off < 0x91080 then some ⟨true, ones - (2 ^ 38 - 2)⟩
  else if off = 0xA0000 ∨ off = 0xA0010 ∨ off = 0xA0018 ∨ off = 0xA0020 ∨ off = 0xA0030 ∨ off = 0xA0040 then some ⟨false, ones⟩
  else if off = 0xA0028 then some ⟨false, 2 ^ 38 - 1⟩
  else if off = 0xB2008 then some ⟨false, 0xFF⟩
  else if off = 0xC0000 then some ⟨true, 0xFFFF⟩
  else none

/-- A field of CTXCLS as it is stored (R106). -/
def ctxClsField (v : Nat) : Nat := if 1 ≤ v ∧ v ≤ 8 then 0 else v

/-- What a plain register stores of a written value. -/
def storedValue (off mask v : Nat) : Nat :=
  let x := v &&& mask
  if 0x40100 ≤ off ∧ off < 0x40900 then ctxClsField (x / 16 % 16) * 16 + ctxClsField (x % 16) else x

/-- Whether a register holds a live monitor, a snapshot (R117). -/
def liveMonitor (off : Nat) : Bool :=
  (decide (0x42000 ≤ off) && decide (off < 0x43000)) || (decide (0x44000 ≤ off) && decide (off < 0x45000))
def snapMonitor (off : Nat) : Bool := liveMonitor (off - 0x1000) && decide (0x1000 ≤ off)

/-- Clear the monitors of a die: MINLAT becomes 0xFFFF_FFFF, which is its reset value. Copy them into the snapshot
registers. -/
def State.clearMonitors (s : State) (die : Nat) : State :=
  { s with regs := s.regs.filter fun e => !(e.1 / 2 ^ 32 == die && liveMonitor (e.1 % 2 ^ 32)) }
def State.snapMonitors (s : State) (die : Nat) : State :=
  let live := s.regs.filter fun e => e.1 / 2 ^ 32 == die && liveMonitor (e.1 % 2 ^ 32)
  let kept := s.regs.filter fun e => !(e.1 / 2 ^ 32 == die && snapMonitor (e.1 % 2 ^ 32))
  { s with regs := live.foldl (fun m e => mapPut m (e.1 + 0x1000) e.2) kept }

/-- A store to MONCTL (R117): what is due is sampled under the old RUN; SNAP comes before CLEAR. -/
def State.monctl (s : State) (die v : Nat) : State :=
  let s := s.sampleDie die
  let s := if bitOf v 2 then s.snapMonitors die else s
  (if bitOf v 1 then s.clearMonitors die else s).setReg die 0x41000 (v % 2)

/-- REGISTER_WRITE (R8, R399, R415): the die with the management role forwards its registers; read-only registers and other
dies' copies ignore writes. -/
def execRegisterWrite (die off : Nat) (v : Dword) (s : State) : Host.Outcome State Fault Refusal :=
  event (decide (die < 9) && off % 8 == 0) (fun s =>
    match plainReg off with
    | none => s
    | some r =>
      let x := storedValue off r.mask v.toNat
      if s.isOffline die then s
      else if off = 0x41000 then s.monctl die v.toNat
      else if off = 0xB2008 then (s.errorsTaken die x).setReg die off x
      else if r.mgmt then (if die = s.mdl.mgmt then (List.range 9).foldl (fun s d => s.setReg d off x) s else s)
      else s.setReg die off x) s

/-! Registers with a behaviour of their own -/

/-- STEER_WRITE (R399, R415): entries of 9 to 15 are stored as h mod 9; the management die forwards the word. -/
def steerWord (w v : Nat) : Nat :=
  (List.range 16).foldl (fun a i =>
    let e := v / 2 ^ (4 * i) % 16
    a + (if 9 ≤ e then (16 * w + i) % 9 else e) * 2 ^ (4 * i)) 0
def execSteerWrite (die w : Nat) (v : Dword) (s : State) : Host.Outcome State Fault Refusal :=
  event (decide (die < 9) && decide (w < 32)) (fun s =>
    if s.isOffline die then s
    else
      let x := steerWord w v.toNat
      let dies := if die = s.mdl.mgmt then List.range 9 else [die]
      dies.foldl (fun s d => s.setReg d (0x10800 + 8 * w) x) s) s

/-- A placed workgroup's watchdog is looked at (R389). -/
def State.watch (s : State) (wg : Nat) : State :=
  match execWorkgroupWatchdog wg s with
  | .next s => s
  | _ => s

/-- WDOG_WRITE (R389): it takes effect at once. -/
def execWdogWrite (die : Nat) (v : Dword) (s : State) : Host.Outcome State Fault Refusal :=
  event (decide (die < 9)) (fun s =>
    if s.isOffline die then s
    else
      let s := s.setReg die 0x80100 (v.toNat % 2 ^ 32)
      (s.wgs.filter fun e => e.2.die == die).foldl (fun s e => s.watch e.1) s) s

/-- CLSCFG as it is stored (R108). -/
def clsStored (v : Nat) : Nat :=
  let burst := bitsOf v 38 32
  clsWord (bitsOf v 63 62) (min (bitsOf v 61 57) 16) (min (bitsOf v 56 48) 256) (min (bitsOf v 47 39) 256)
    (if burst = 0 ∨ 64 < burst then 64 else burst)

/-- CLSCFG_WRITE (R108, R109): the buckets keep what they hold, up to the new BURST. -/
def execClscfgWrite (die c : Nat) (v : Dword) (s : State) : Host.Outcome State Fault Refusal :=
  event (decide (die < 9) && decide (c < 16)) (fun s =>
    if s.isOffline die then s
    else
      let x := clsStored v.toNat
      let cap := bitsOf x 38 32 * 2048
      let s := (List.range 6).foldl (fun s g =>
        let q := s.group die g
        s.setGroup die g { q with
          rate := storeSet (0, 0) q.rate c (min cap (s.rateTokens die g c), s.tick)
          floor := storeSet (0, 0) q.floor c (min cap (s.floorTokens die g c), s.tick) }) s
      s.setReg die (0x40000 + 8 * c) x) s

/-- MONCTL_SNAP (R117): SNAP, and CLEAR after it when both are written. -/
def execMonctlSnap (die : Nat) (v : Dword) (s : State) : Host.Outcome State Fault Refusal :=
  event (decide (die < 9) && bitOf v.toNat 2) (fun s => if s.isOffline die then s else s.monctl die v.toNat) s

/-- MONCTL_CLEAR (R117). -/
def execMonctlClear (die : Nat) (v : Dword) (s : State) : Host.Outcome State Fault Refusal :=
  event (decide (die < 9) && bitOf v.toNat 1 && !bitOf v.toNat 2) (fun s =>
    if s.isOffline die then s else s.monctl die v.toNat) s

/-! Attestation -/

/-- The first 120 bytes of a report (R412). -/
def State.report (s : State) (die : Nat) (nonce : List Byte) : List Byte :=
  let u := s.unit die
  leBytes 4 0x5441565A ++ leBytes 1 die ++ leBytes 1 s.mdl.life.code ++ leBytes 2 0 ++ nonce ++ u.measure ++
    leBytes 8 u.measured ++ leBytes 8 0

/-- ATTREQ_WRITE (R412): the report over the nonce, or a refusal in RETURN. It waits while a line of it is on its way. Its accesses
are class 2, as those of the host that asks (log 80). -/
def execAttreqWrite (die : Nat) (v : Dword) (s : State) : Host.Outcome State Fault Refusal :=
  event (decide (die < 9) && !s.isOffline die && !s.paBusy v.toNat && !s.paBusy (v.toNat + 128)) (fun s =>
    let pa := v.toNat / 256 * 256
    let s := (s.setReg die 0xD0000 pa).setReg die 0xD0008 0
    if s.mdl.life = .returned then s.setReg die 0xD0008 2
    else if !paOpen s.attic s.window pa then s
    else
      let r := s.report die (s.readBytes 2 pa 48)
      let sig := leBytes 96 (Config.attestSign die r)
      let s := ((s.homeTouch (some die) pa 2 false).homeTouch (some die) pa 2 true).homeTouch (some die) (pa + 128) 2 true
      (State.writeBytes 4 s pa (r ++ sig)).setReg die 0xD0008 1) s

/-! Memory -/

/-- What an AMO leaves of an old value and its operand (RV64A, log 9). -/
def amoOp (op n old x : Nat) : Nat :=
  match op with
  | 0 => x
  | 1 => (old + x) % 2 ^ n
  | 2 => old &&& x
  | 3 => old ||| x
  | 4 => old ^^^ x
  | 5 => if (BitVec.ofNat n x).slt (BitVec.ofNat n old) then x else old
  | 6 => if (BitVec.ofNat n old).slt (BitVec.ofNat n x) then x else old
  | 7 => min old x
  | _ => max old x

/-- What an access of the host reads, and the bytes that it writes. -/
def hostDoes (a : HostAccess) (old : Nat) : List Byte × Option (List Byte) :=
  match a.op with
  | .load | .fetch | .noSnoop => (leBytes a.size old, none)
  | .store => ([], some a.data)
  | .amo op => (leBytes a.size old, some (leBytes a.size (amoOp op (8 * a.size) old (leNat a.data))))
  | .offline | .online | .vector _ _ _ => ([], none)

/-- The place of an access in its page. -/
def hostLow (a : HostAccess) : Nat := (match a.via with | some v => v.2.toNat | none => a.pa.toNat) % 4096

/-- Whether an access can be made: aligned to its size within a line, an operand of its size; a vector for a hart that there is. -/
def hostOk (a : HostAccess) : Bool :=
  match a.op with
  | .vector k v h => decide (k < 6) && decide (v < 2 ^ 32) && decide (h < 72)
  | _ =>
    decide (0 < a.size) && decide (hostLow a % 128 + a.size ≤ 128) &&
      (match a.op with
       | .store => a.data.length == a.size
       | .amo op => decide (op < 9) && (a.size == 4 || a.size == 8) && hostLow a % a.size == 0 && a.data.length == a.size
       | _ => true)

/-- An access is made: what it read is shown. -/
def State.hostDone (s : State) (got : List Byte) : State :=
  { s with hostData := if got = [] then s.hostData else got, hostFault := false }

/-- An access to a range that R25 closes: the host's own access fault. -/
def State.hostFails (s : State) : State := { s with hostFault := true }

/-- Whether the host of an access is there (R393, R399, R401, R411): a hart that runs, on a die with firmware that runs or has
stopped for a machine check; a peer while die 4 has its port; BAR0 while the port works as an endpoint. -/
def State.hostThere (s : State) (a : HostAgent) : Bool :=
  match a with
  | .hart h => decide (h < 72) && !s.parkedHarts.contains h && s.live.contains (h / 8) && !(s.unit (h / 8)).recovery
  | .peer => s.live.contains 4 && !(s.unit 4).recovery
  | .bar0 => s.live.contains 4 && !(s.unit 4).recovery && !s.mdl.root

/-- A hart's access to memory of the part (R96): by its own cache, which the L2 of its die tracks like an L1, as a request of class 2.
Where the line has to be asked for, the access is made when it comes again. -/
def State.hartAccess (s : State) (a : HostAccess) (hart pa : Nat) : State :=
  let c := hartCore hart
  let x := pa / 128
  let i := pa % 128
  let h : Hints := .plain
  match a.op with
  | .offline | .online | .vector _ _ _ => s
  | .store =>
    match s.l1Write c x (linePlace i (leNat a.data)) (nibBytes i a.size) h 2 with
    | (s, true) => s.hostDone []
    | (s, false) => s
  | _ =>
    match s.l1Read c x i a.size h 2 with
    | (s, none) => s
    | (s, some bs) =>
      let (got, put) := hostDoes a (leNat bs)
      match put with
      | none => s.hostDone got
      | some new =>
        match s.l1Write c x (linePlace i (leNat new)) (nibBytes i a.size) h 2 with
        | (s, true) => s.hostDone got
        | (s, false) => s

/-- A peer's access to memory of the part (R96, R402): coherent, in one step at the line's home; a No-Snoop read sees memory alone. -/
def State.peerAccess (s : State) (a : HostAccess) (pa : Nat) : State :=
  if s.paBusy pa || s.isOffline (homeOf (pa / 128)) then s
  else if a.op = .noSnoop then (s.homeTouch none pa 2 false).hostDone (leBytes a.size (memNat s.mem pa a.size))
  else
    let (got, put) := hostDoes a (s.viewNat pa a.size)
    let s := s.homeTouch none pa 2 put.isSome
    (match put with
     | some bs => s.sysWrite pa bs
     | none => s).hostDone got

/-- An access to a register block (R23, R401, R402): a load; what a store does are that register's events. -/
def State.registerAccess (s : State) (a : HostAccess) (die off : Nat) : State :=
  if s.isOffline die then s
  else
    match a.op with
    | .load => s.hostDone (leBytes a.size (s.readReg die (off / 8 * 8) / 2 ^ (8 * (off % 8))))
    | _ => s

/-- Take a hart offline, or online again (R393); a hart of a die that does not run stays as it is. -/
def State.park (s : State) (a : HostAgent) (on : Bool) : State :=
  match a with
  | .hart h =>
    if !decide (h < 72) || !s.live.contains (h / 8) then s
    else { s with parkedHarts := if on then s.parkedHarts.filter (· != h) else h :: s.parkedHarts.filter (· != h) }
  | _ => s

/-- The driver, which runs on a hart, sets a vector and the hart that takes it (R401). -/
def Vectors.set (v : Vectors) (k n h : Nat) : Vectors :=
  let v := { v with harts := storeSet 0 v.harts k h }
  if k = 2 then { v with error := n }
  else if k = 3 then { v with machineCheck := n }
  else if k = 4 then { v with frameLock := n }
  else if k = 5 then { v with power := n }
  else v

/-- What a host core's virtual address comes to (R401, log 9): the physical one, a walk that has to wait, or a page fault. -/
inductive HostTr where
  | pa (s : State) (pa : Nat)
  | wait
  | fault
  deriving DecidableEq, Repr

/-- A host core's walk of the part's page tables (R38 to R42, R401), with no TLB. -/
def State.hartTranslate (s : State) (die slot : Nat) (op : HostOp) (va : Dword) : HostTr :=
  match s.readCtx slot with
  | none => .fault
  | some c =>
    let access := match op with
      | .store => 1
      | .amo _ => 2
      | .fetch => 3
      | _ => 0
    if !c.canonical va then .fault
    else
      let w := s.walk die c (c.vpn va)
      if w.busy s then .wait
      else
        match w.res with
        | .fault f => if f.ftype = 6 then .wait else .fault
        | .leaf e addr pte =>
          if leafLacks access e.r e.w e.x then .fault
          else
            match (w.touch die s).markLeaf addr pte (accWrites access) with
            | .busy | .offline _ => .wait
            | .done s => .pa s (e.pa va)

/-- An access of the host at a physical address (R25, R96, R402). -/
def State.hostAt (s : State) (a : HostAccess) (pa : Nat) : State :=
  match paKind s.attic s.window pa with
  | .dram _ _ =>
    (match a.agent with
     | .hart h => s.hartAccess a h pa
     | _ => s.peerAccess a pa)
  | .external =>
    let (got, put) := hostDoes a (memNat s.mem pa a.size)
    (match put with
     | some bs => s.sysWrite pa bs
     | none => s).hostDone got
  | .register die off => s.registerAccess a die off
  | _ => s.hostFails

/-- HOST_CORE_ACCESS (R25, R96, R105, R146, R401, R402): an access of class 2 by a hart or a peer. -/
def execHostCoreAccess (a : HostAccess) (s : State) : Host.Outcome State Fault Refusal :=
  event (hostOk a) (fun s =>
    let pa := a.pa.toNat
    match a.op with
    | .offline => s.park a.agent false
    | .online => s.park a.agent true
    | .vector k n h =>
      if !s.hostThere a.agent then s else { s with mdl := { s.mdl with vectors := s.mdl.vectors.set k n h } }
    | _ =>
      if !s.hostThere a.agent then s
      else
        match a.agent, a.via with
        -- BAR0 of 64 GiB: the register block of die d at d × 4 GiB (R402)
        | .bar0, _ => if pa / 2 ^ 32 < 9 then s.registerAccess a (pa / 2 ^ 32) (pa % 2 ^ 32) else s.hostFails
        | .hart h, some (slot, va) =>
          (match s.hartTranslate (h / 8) slot a.op va with
           | .pa s pa => s.hostAt a pa
           | .wait => s
           | .fault => s.hostFails)
        | _, _ => s.hostAt a pa) s

end Sys2Proof.Machine
end

