-- ==== Sys2Proof/Machine/Scalar.lean ====
section
/-! DEFINITION. The S3 instructions: scalar arithmetic, mask operations, special registers and MODE (spec 09 R211 to
R224, 08 R209). -/

namespace Sys2Proof.Machine

/-- Whether the type of an S3 word names pairs, and whether it is signed (R190, R212). -/
def s3Wide (f : S3F) : Bool := f.ty == 2 || f.ty == 3
def s3Signed (f : S3F) : Bool := f.ty == 0 || f.ty == 2
def s3Sb (f : S3F) : Nat := (f.imm.extractLsb' 0 8).toNat

/-- Registers of an operand: one or a pair. -/
def s3Opd (f : S3F) (r : Nat) : Opd := if s3Wide f then .s r 2 2 else .s r 1 1
def s3Dest (f : S3F) : Opd := if s3Wide f then .ds f.sd.toNat 2 2 else .ds f.sd.toNat 1 1

/-- The register operands of an S3 arithmetic instruction (R212, R198). -/
def s3Opds (f : S3F) (two : Bool) : List Opd :=
  (if two then [s3Opd f f.sa.toNat] else []) ++ (if f.isimm then [] else [s3Opd f (s3Sb f)]) ++ [s3Dest f]

/-- The old destination, where an opcode reads it: SBFI (R216). -/
def s3Old (i : Instr) (f : S3F) : List Opd :=
  match i with
  | .sbfi _ => [s3Opd f f.sd.toNat]
  | _ => []

/-- Read an operand; write the destination (R212). -/
def Warp.s3Read (w : Warp) (f : S3F) (r : Nat) : Nat := if s3Wide f then (w.spair r).toNat else (w.sreg r).toNat
def Warp.s3Write (w : Warp) (f : S3F) (v : Nat) : Warp :=
  if s3Wide f then w.setSpair f.sd.toNat (BitVec.ofNat 64 v) else w.setSreg f.sd.toNat (BitVec.ofNat 32 v)

/-- Operand b (R190, R212): the immediate is sign-extended for i64 and zero-extended for n64. -/
def Warp.s3B (w : Warp) (f : S3F) : Nat :=
  if f.isimm then (if f.ty = 2 then (f.imm.signExtend 64).toNat else f.imm.toNat) else w.s3Read f (s3Sb f)

/-- An opcode with no floating-point form. -/
def noFp (_ : RCtx) (_ _ : Nat) : Nat × BitVec 5 := (0, 0)

/-- SSET under f32 (R219). -/
def setFp (cc : Nat) (c : RCtx) (a b : Nat) : Nat × BitVec 5 :=
  let r := fcompare fmtF32 c.ftzi cc a b
  (if r.1 then 1 else 0, r.2)

/-- SLEA's scale (R218). -/
def sleaScale (f : S3F) : Nat := if f.isimm then 0 else (f.imm.extractLsb' 8 3).toNat

/-- An S3 arithmetic instruction (R212 to R219): `int` computes from signedness, width, A, B and the old
destination; `fp` under f32, with its exceptions (R217). -/
def s3Exec (i : Instr) (f : S3F) (two : Bool) (int : Bool → Nat → Nat → Nat → Nat → Nat)
    (fp : RCtx → Nat → Nat → Nat × BitVec 5) (s : State) : Host.Outcome State Fault Refusal :=
  issue i (s3Opds f two ++ s3Old i f) true (fun t =>
    let a := t.w.s3Read f f.sa.toNat
    let b := t.w.s3B f
    if f.ty = 4 then
      let r := fp ((fpEnvNoSto t.w.mode).ctx false 0) a b
      t.arith r.2 fun t => .next { t with w := t.w.s3Write f r.1 }
    else
      let n := if s3Wide f then 64 else 32
      .next { t with w := t.w.s3Write f (int (s3Signed f) n a b (t.w.s3Read f f.sd.toNat)) }) s

/-- A mask operation on groups (R220). -/
def maskExec (i : Instr) (f : S3F) (two : Bool) (fn : Warp → LaneMask → LaneMask → LaneMask) (s : State) :
    Host.Outcome State Fault Refusal :=
  issue i ((if two then [.m f.sa.toNat] else []) ++ [.m (s3Sb f), .dm f.sd.toNat]) true (fun t =>
    .next { t with w := t.w.setGroup f.sd.toNat (fn t.w (t.w.group f.sa.toNat) (t.w.group (s3Sb f))) }) s

/-- MCNT and MFIRST (R220): a number from a group. -/
def maskCount (i : Instr) (f : S3F) (fn : Nat → LaneMask → Nat) (s : State) : Host.Outcome State Fault Refusal :=
  issue i [.m (s3Sb f), .ds f.sd.toNat 1 1] true (fun t =>
    .next { t with w := t.w.setSreg f.sd.toNat (BitVec.ofNat 32 (fn t.w.width (t.w.group (s3Sb f)))) }) s

/-- MLIVE and MEXEC (R220). -/
def maskRead (i : Instr) (f : S3F) (fn : Warp → LaneMask) (s : State) : Host.Outcome State Fault Refusal :=
  issue i [.dm f.sd.toNat] true (fun t => .next { t with w := t.w.setGroup f.sd.toNat (fn t.w) }) s

/-- The digit of level `k` (R151): `levels` gives kind and extent of each level. -/
def levelDigit (levels : List (Nat × Nat)) (d w tt k : Nat) : Nat :=
  match levels[k]? with
  | none => 0
  | some (kind, ext) =>
    let n := if kind = 1 then d else if kind = 2 then w else if kind = 3 then tt else 0
    let below := levelProduct (levels.drop (k + 1)) kind
    if kind = 0 then 0 else n / below % ext

/-- The width of a special register in words (R209): none for a number that is not in the table. -/
def sregWords (n : Nat) : Option Nat :=
  if n ≤ 0x0D ∨ n = 0x10 ∨ n = 0x11 ∨ n = 0x12 ∨ n = 0x18 ∨ n = 0x19 ∨ n = 0x1C ∨ n = 0x1D then some 1
  else if n = 0x1A ∨ n = 0x1B ∨ n = 0x1E then some 2
  else none

/-- Whether SSETR may write a special register (R209). -/
def sregWritable (n : Nat) : Bool := n == 0x18 || n == 0x19 || n == 0x1A || n == 0x1B || n == 0x1C

/-- The value of a special register (R209); `%tickhi` apart from its latch. -/
def Thread.special (t : Thread) (n : Nat) : Dword :=
  let w32 (x : Nat) : Dword := BitVec.ofNat 64 (x % 2 ^ 32)
  match n with
  | 0x00 => 0
  | 0x01 => w32 t.w.width
  | 0x02 => w32 t.w.warpid
  | 0x03 => w32 t.w.splitIdx
  | 0x04 => w32 t.g.w
  | 0x05 => w32 t.g.rank
  | 0x06 => w32 t.g.clmember
  | 0x07 => w32 t.g.core
  | 0x10 => w32 t.s.tick
  | 0x11 => match t.w.tickLatch with
    | some h => h.setWidth 64
    | none => w32 (t.s.tick / 2 ^ 32)
  | 0x12 => (storeGet 0 t.s.frames t.g.die).setWidth 64
  | 0x18 => t.w.mode.setWidth 64
  | 0x19 => t.w.cause.setWidth 64
  | 0x1A => t.w.trappc
  | 0x1B => t.w.trapaddr
  | 0x1C => t.w.trapimm.setWidth 64
  | 0x1D => w32 t.launch.depth
  | 0x1E => t.w.trapsrc
  | k => if 0x08 ≤ k ∧ k ≤ 0x0D then w32 (levelDigit t.launch.levels t.g.d t.g.w t.g.t (k - 8)) else 0

/-- What reading `%ticklo` or `%tickhi` does to the latch (R209). -/
def Thread.latchTick (t : Thread) (n : Nat) : Warp :=
  if n = 0x10 then { t.w with tickLatch := some (BitVec.ofNat 32 (t.s.tick / 2 ^ 32)) }
  else if n = 0x11 then { t.w with tickLatch := none }
  else t.w

/-- Seed every lane of the warp from MODE's SEED (R295). -/
def Thread.reseed (t : Thread) : Thread :=
  (List.range t.w.width).foldl (fun t l => t.setLane l (lfsrSeed (modeSeed t.w.mode) l)) t

/-- Write a special register (R209, R222, R295). -/
def Thread.setSpecial (t : Thread) (n : Nat) (v : Dword) : Thread :=
  match n with
  | 0x18 => { t with w := { t.w with mode := loWord v } }.reseed
  | 0x19 => { t with w := { t.w with cause := loWord v &&& 0xFF } }
  | 0x1A => { t with w := { t.w with trappc := v } }
  | 0x1B => { t with w := { t.w with trapaddr := v } }
  | 0x1C => { t with w := { t.w with trapimm := loWord v } }
  | _ => t

/-- SMOV (R214). Copies operand b to a scalar register. -/
def execSmov (f : S3F) (s : State) : Host.Outcome State Fault Refusal :=
  s3Exec (.smov f) f false (fun _ _ _ b _ => b) (fun _ _ b => (b, 0)) s

/-- SADD (R214). Scalar add. -/
def execSadd (f : S3F) (s : State) : Host.Outcome State Fault Refusal :=
  s3Exec (.sadd f) f true (fun _ n a b _ => (a + b) % 2 ^ n) (fadd fmtF32) s

/-- SSUB (R214). Scalar subtract. -/
def execSsub (f : S3F) (s : State) : Host.Outcome State Fault Refusal :=
  s3Exec (.ssub f) f true (fun _ n a b _ => (a + 2 ^ n - b) % 2 ^ n) (fsub fmtF32) s

/-- SMUL (R214). Scalar multiply, low bits or rounded f32 product. -/
def execSmul (f : S3F) (s : State) : Host.Outcome State Fault Refusal :=
  s3Exec (.smul f) f true (fun _ n a b _ => a * b % 2 ^ n) (fmul fmtF32) s

/-- SMULH (R214). High half of the scalar integer product. -/
def execSmulh (f : S3F) (s : State) : Host.Outcome State Fault Refusal :=
  s3Exec (.smulh f) f true (fun g n a b _ => mulHigh g n a b) noFp s

/-- SDIV (R215). Scalar integer division rounded toward zero. -/
def execSdiv (f : S3F) (s : State) : Host.Outcome State Fault Refusal :=
  s3Exec (.sdiv f) f true (fun g n a b _ => divInt g n a b) noFp s

/-- SREM (R215). Scalar integer remainder with the sign of the dividend. -/
def execSrem (f : S3F) (s : State) : Host.Outcome State Fault Refusal :=
  s3Exec (.srem f) f true (fun g n a b _ => remInt g n a b) noFp s

/-- SMIN (R214). Scalar minimum. -/
def execSmin (f : S3F) (s : State) : Host.Outcome State Fault Refusal :=
  s3Exec (.smin f) f true (fun g n a b _ => minInt g n a b) (fun c a b => fminmax fmtF32 false c.ftzi c.ftzo a b) s

/-- SMAX (R214). Scalar maximum. -/
def execSmax (f : S3F) (s : State) : Host.Outcome State Fault Refusal :=
  s3Exec (.smax f) f true (fun g n a b _ => maxInt g n a b) (fun c a b => fminmax fmtF32 true c.ftzi c.ftzo a b) s

/-- SAND (R214). Scalar bitwise AND. -/
def execSand (f : S3F) (s : State) : Host.Outcome State Fault Refusal :=
  s3Exec (.sand f) f true (fun _ _ a b _ => a &&& b) noFp s

/-- SOR (R214). Scalar bitwise OR. -/
def execSor (f : S3F) (s : State) : Host.Outcome State Fault Refusal :=
  s3Exec (.sor f) f true (fun _ _ a b _ => a ||| b) noFp s

/-- SXOR (R214). Scalar bitwise XOR. -/
def execSxor (f : S3F) (s : State) : Host.Outcome State Fault Refusal :=
  s3Exec (.sxor f) f true (fun _ _ a b _ => a ^^^ b) noFp s

/-- SSHL (R214). Scalar shift left. -/
def execSshl (f : S3F) (s : State) : Host.Outcome State Fault Refusal :=
  s3Exec (.sshl f) f true (fun _ n a b _ => shlN n a b) noFp s

/-- SSHR (R214). Scalar logical shift right. -/
def execSshr (f : S3F) (s : State) : Host.Outcome State Fault Refusal :=
  s3Exec (.sshr f) f true (fun _ n a b _ => shrN n a b) noFp s

/-- SSAR (R214). Scalar arithmetic shift right. -/
def execSsar (f : S3F) (s : State) : Host.Outcome State Fault Refusal :=
  s3Exec (.ssar f) f true (fun _ n a b _ => sarN n a b) noFp s

/-- SROT (R214). Scalar rotate left. -/
def execSrot (f : S3F) (s : State) : Host.Outcome State Fault Refusal :=
  s3Exec (.srot f) f true (fun _ n a b _ => rotN n a b) noFp s

/-- SBFE (R216). Scalar bit-field extract. -/
def execSbfe (f : S3F) (s : State) : Host.Outcome State Fault Refusal :=
  s3Exec (.sbfe f) f true (fun g n a b _ => bfExtract g n a b) noFp s

/-- SBFI (R216). Scalar bit-field insert into the destination. -/
def execSbfi (f : S3F) (s : State) : Host.Outcome State Fault Refusal :=
  s3Exec (.sbfi f) f true (fun _ n a b d => bfInsert n d a b) noFp s

/-- SPOPC (R214). Scalar population count. -/
def execSpopc (f : S3F) (s : State) : Host.Outcome State Fault Refusal :=
  s3Exec (.spopc f) f false (fun _ n _ b _ => popc n b) noFp s

/-- SCLZ (R214). Scalar count of leading zeros. -/
def execSclz (f : S3F) (s : State) : Host.Outcome State Fault Refusal :=
  s3Exec (.sclz f) f false (fun _ n _ b _ => clzN n b) noFp s

/-- SFFS (R214). Index of the lowest set bit, all ones for zero. -/
def execSffs (f : S3F) (s : State) : Host.Outcome State Fault Refusal :=
  s3Exec (.sffs f) f false (fun _ n _ b _ => (ffsN n b).getD (2 ^ n - 1)) noFp s

/-- SLEA (R218). Computes A plus B shifted by a scale. -/
def execSlea (f : S3F) (s : State) : Host.Outcome State Fault Refusal :=
  s3Exec (.slea f) f true (fun _ n a b _ => (a + b * 2 ^ sleaScale f) % 2 ^ n) noFp s

/-- SSET_EQ (R219). Writes 1 when A equals B, else 0. -/
def execSsetEq (f : S3F) (s : State) : Host.Outcome State Fault Refusal :=
  s3Exec (.ssetEq f) f true (fun g n a b _ => if compareInt g n 0 a b then 1 else 0) (setFp 0) s

/-- SSET_NE (R219). Writes 1 when A differs from B or is unordered. -/
def execSsetNe (f : S3F) (s : State) : Host.Outcome State Fault Refusal :=
  s3Exec (.ssetNe f) f true (fun g n a b _ => if compareInt g n 1 a b then 1 else 0) (setFp 1) s

/-- SSET_LT (R219). Writes 1 when A is less than B. -/
def execSsetLt (f : S3F) (s : State) : Host.Outcome State Fault Refusal :=
  s3Exec (.ssetLt f) f true (fun g n a b _ => if compareInt g n 2 a b then 1 else 0) (setFp 2) s

/-- SSET_LE (R219). Writes 1 when A is at most B. -/
def execSsetLe (f : S3F) (s : State) : Host.Outcome State Fault Refusal :=
  s3Exec (.ssetLe f) f true (fun g n a b _ => if compareInt g n 3 a b then 1 else 0) (setFp 3) s

/-- SSET_GT (R219). Writes 1 when A is greater than B. -/
def execSsetGt (f : S3F) (s : State) : Host.Outcome State Fault Refusal :=
  s3Exec (.ssetGt f) f true (fun g n a b _ => if compareInt g n 4 a b then 1 else 0) (setFp 4) s

/-- SSET_GE (R219). Writes 1 when A is at least B. -/
def execSsetGe (f : S3F) (s : State) : Host.Outcome State Fault Refusal :=
  s3Exec (.ssetGe f) f true (fun g n a b _ => if compareInt g n 5 a b then 1 else 0) (setFp 5) s

/-- SSET_UO (R219). Writes 1 when either f32 operand is NaN. -/
def execSsetUo (f : S3F) (s : State) : Host.Outcome State Fault Refusal :=
  s3Exec (.ssetUo f) f true (fun g n a b _ => if compareInt g n 6 a b then 1 else 0) (setFp 6) s

/-- SSET_OR (R219). Writes 1 when neither f32 operand is NaN. -/
def execSsetOr (f : S3F) (s : State) : Host.Outcome State Fault Refusal :=
  s3Exec (.ssetOr f) f true (fun g n a b _ => if compareInt g n 7 a b then 1 else 0) (setFp 7) s

/-- MAND (R220). AND of two mask groups. -/
def execMand (f : S3F) (s : State) : Host.Outcome State Fault Refusal :=
  maskExec (.mand f) f true (fun _ a b => a &&& b) s

/-- MOR (R220). OR of two mask groups. -/
def execMor (f : S3F) (s : State) : Host.Outcome State Fault Refusal :=
  maskExec (.mor f) f true (fun _ a b => a ||| b) s

/-- MXOR (R220). XOR of two mask groups. -/
def execMxor (f : S3F) (s : State) : Host.Outcome State Fault Refusal :=
  maskExec (.mxor f) f true (fun _ a b => a ^^^ b) s

/-- MANDN (R220). A AND NOT B of two mask groups. -/
def execMandn (f : S3F) (s : State) : Host.Outcome State Fault Refusal :=
  maskExec (.mandn f) f true (fun _ a b => a &&& ~~~b) s

/-- MNOT (R220). Complement of a mask group over the warp's width. -/
def execMnot (f : S3F) (s : State) : Host.Outcome State Fault Refusal :=
  maskExec (.mnot f) f false (fun _ _ b => ~~~b) s

/-- MCNT (R220). Counts the set bits of a mask group. -/
def execMcnt (f : S3F) (s : State) : Host.Outcome State Fault Refusal :=
  maskCount (.mcnt f) f (fun w m => laneCount w m) s

/-- MFIRST (R220). Index of the lowest set bit of a mask group. -/
def execMfirst (f : S3F) (s : State) : Host.Outcome State Fault Refusal :=
  maskCount (.mfirst f) f (fun w m => (lowestLane w m).getD 0xFFFFFFFF) s

/-- MLIVE (R220). Writes the live mask to a group. -/
def execMlive (f : S3F) (s : State) : Host.Outcome State Fault Refusal :=
  maskRead (.mlive f) f (fun w => w.live) s

/-- MEXEC (R220). Writes the running path's exec to a group. -/
def execMexec (f : S3F) (s : State) : Host.Outcome State Fault Refusal :=
  maskRead (.mexec f) f (fun w => w.exec) s

/-- MSETX (R221): lanes outside live and helper, or in a parked path, are refused. -/
def execMsetx (f : S3F) (s : State) : Host.Outcome State Fault Refusal :=
  issue (.msetx f) [.m (s3Sb f)] true (fun t =>
    let x := t.w.group (s3Sb f)
    let h := t.w.paths.foldl (fun m p => m ||| p.mask) 0
    if t.w.handler then .trap t 0x01 (word0 (.msetx f)) 0
    else if x = 0 ∨ x &&& ~~~t.w.present ≠ 0 ∨ x &&& h ≠ 0 then .trap t 0x02 (word0 (.msetx f)) 0
    else .next { t with w := { t.w with exec := x } }) s

/-- SGETR (R222). -/
def execSgetr (f : S3F) (s : State) : Host.Outcome State Fault Refusal :=
  let n := (s3Sb f)
  let k := (sregWords n).getD 1
  issue (.sgetr f) [.ds f.sd.toNat k k] (sregWords n).isSome (fun t =>
    let v := t.special n
    let w := t.latchTick n
    .next { t with w := if k = 2 then w.setSpair f.sd.toNat v else w.setSreg f.sd.toNat (loWord v) }) s

/-- SSETR (R222). -/
def execSsetr (f : S3F) (s : State) : Host.Outcome State Fault Refusal :=
  let n := (s3Sb f)
  let k := (sregWords n).getD 1
  issue (.ssetr f) [.s f.sa.toNat k k] (sregWritable n) (fun t =>
    let v := if k = 2 then t.w.spair f.sa.toNat else (t.w.sreg f.sa.toNat).setWidth 64
    if n = 0x18 ∧ !modeRmLegal (loWord v) then .trap t 0x02 (word0 (.ssetr f)) 0
    else .next (t.setSpecial n v)) s

/-- SMODE (R223, R295). -/
def execSmode (f : S3F) (s : State) : Host.Outcome State Fault Refusal :=
  issue (.smode f) (s3Opds f true) true (fun t =>
    let a := t.w.sreg f.sa.toNat
    let b := BitVec.ofNat 32 (t.w.s3B f)
    let old := t.w.mode
    let new := (old &&& ~~~a) ||| (b &&& a)
    if !modeRmLegal new then .trap t 0x02 (word0 (.smode f)) 0
    else
      let t := { t with w := { t.w with mode := new } }
      let t := if a.extractLsb' 16 16 = 0 then t else t.reseed
      .next { t with w := t.w.setSreg f.sd.toNat old }) s

end Sys2Proof.Machine
end

