-- ==== Sys2Proof/Machine/Dispatch.lean ====
section
/-! DEFINITION. One arm for each instruction and event: the meaning that it calls. -/

namespace Sys2Proof.Machine

/-- Run one instruction on the chosen warp, or one event. -/
def exec (i : Instr) (s : State) : Host.Outcome State Fault Refusal :=
  match i with
  | .vmov f => Sys2Proof.Machine.execVmov f s
  | .vadd f => Sys2Proof.Machine.execVadd f s
  | .vsub f => Sys2Proof.Machine.execVsub f s
  | .vmul f => Sys2Proof.Machine.execVmul f s
  | .vmulh f => Sys2Proof.Machine.execVmulh f s
  | .vmad f => Sys2Proof.Machine.execVmad f s
  | .vmin f => Sys2Proof.Machine.execVmin f s
  | .vmax f => Sys2Proof.Machine.execVmax f s
  | .vabs f => Sys2Proof.Machine.execVabs f s
  | .vneg f => Sys2Proof.Machine.execVneg f s
  | .vand f => Sys2Proof.Machine.execVand f s
  | .vor f => Sys2Proof.Machine.execVor f s
  | .vxor f => Sys2Proof.Machine.execVxor f s
  | .vnot f => Sys2Proof.Machine.execVnot f s
  | .vshl f => Sys2Proof.Machine.execVshl f s
  | .vshr f => Sys2Proof.Machine.execVshr f s
  | .vsar f => Sys2Proof.Machine.execVsar f s
  | .vrot f => Sys2Proof.Machine.execVrot f s
  | .vbfe f => Sys2Proof.Machine.execVbfe f s
  | .vbfi f => Sys2Proof.Machine.execVbfi f s
  | .vpopc f => Sys2Proof.Machine.execVpopc f s
  | .vclz f => Sys2Proof.Machine.execVclz f s
  | .vbrev f => Sys2Proof.Machine.execVbrev f s
  | .vadd64 f => Sys2Proof.Machine.execVadd64 f s
  | .vsub64 f => Sys2Proof.Machine.execVsub64 f s
  | .vmulw f => Sys2Proof.Machine.execVmulw f s
  | .vsel f => Sys2Proof.Machine.execVsel f s
  | .vcmpEq f => Sys2Proof.Machine.execVcmpEq f s
  | .vcmpNe f => Sys2Proof.Machine.execVcmpNe f s
  | .vcmpLt f => Sys2Proof.Machine.execVcmpLt f s
  | .vcmpLe f => Sys2Proof.Machine.execVcmpLe f s
  | .vcmpGt f => Sys2Proof.Machine.execVcmpGt f s
  | .vcmpGe f => Sys2Proof.Machine.execVcmpGe f s
  | .vcmpUo f => Sys2Proof.Machine.execVcmpUo f s
  | .vcmpOr f => Sys2Proof.Machine.execVcmpOr f s
  | .vclass f => Sys2Proof.Machine.execVclass f s
  | .vrcp f => Sys2Proof.Machine.execVrcp f s
  | .vrsq f => Sys2Proof.Machine.execVrsq f s
  | .vsqrt f => Sys2Proof.Machine.execVsqrt f s
  | .vexp2 f => Sys2Proof.Machine.execVexp2 f s
  | .vlog2 f => Sys2Proof.Machine.execVlog2 f s
  | .vsin f => Sys2Proof.Machine.execVsin f s
  | .vcos f => Sys2Proof.Machine.execVcos f s
  | .vdiv f => Sys2Proof.Machine.execVdiv f s
  | .vtanh f => Sys2Proof.Machine.execVtanh f s
  | .cvt f => Sys2Proof.Machine.execCvt f s
  | .pack8 f => Sys2Proof.Machine.execPack8 f s
  | .unpk8 f => Sys2Proof.Machine.execUnpk8 f s
  | .pack4 f => Sys2Proof.Machine.execPack4 f s
  | .unpk4 f => Sys2Proof.Machine.execUnpk4 f s
  | .vdot4 f => Sys2Proof.Machine.execVdot4 f s
  | .vdot2 f => Sys2Proof.Machine.execVdot2 f s
  | .vidx f => Sys2Proof.Machine.execVidx f s
  | .vmad4 f csel vc => Sys2Proof.Machine.execVmad4 f csel vc s
  | .longImmediateForm op f imm => Sys2Proof.Machine.execLongImmediateForm op f imm s
  | .shfl f => Sys2Proof.Machine.execShfl f s
  | .shflx f => Sys2Proof.Machine.execShflx f s
  | .shflup f => Sys2Proof.Machine.execShflup f s
  | .shfldn f => Sys2Proof.Machine.execShfldn f s
  | .bcst f => Sys2Proof.Machine.execBcst f s
  | .redadd f => Sys2Proof.Machine.execRedadd f s
  | .redmin f => Sys2Proof.Machine.execRedmin f s
  | .redmax f => Sys2Proof.Machine.execRedmax f s
  | .redand f => Sys2Proof.Machine.execRedand f s
  | .redor f => Sys2Proof.Machine.execRedor f s
  | .redxor f => Sys2Proof.Machine.execRedxor f s
  | .scan f => Sys2Proof.Machine.execScan f s
  | .scanx f => Sys2Proof.Machine.execScanx f s
  | .scanmax f => Sys2Proof.Machine.execScanmax f s
  | .vote f => Sys2Proof.Machine.execVote f s
  | .matchLanes f => Sys2Proof.Machine.execMatchLanes f s
  | .ddx f => Sys2Proof.Machine.execDdx f s
  | .ddy f => Sys2Proof.Machine.execDdy f s
  | .smov f => Sys2Proof.Machine.execSmov f s
  | .sadd f => Sys2Proof.Machine.execSadd f s
  | .ssub f => Sys2Proof.Machine.execSsub f s
  | .smul f => Sys2Proof.Machine.execSmul f s
  | .smulh f => Sys2Proof.Machine.execSmulh f s
  | .sdiv f => Sys2Proof.Machine.execSdiv f s
  | .srem f => Sys2Proof.Machine.execSrem f s
  | .smin f => Sys2Proof.Machine.execSmin f s
  | .smax f => Sys2Proof.Machine.execSmax f s
  | .sand f => Sys2Proof.Machine.execSand f s
  | .sor f => Sys2Proof.Machine.execSor f s
  | .sxor f => Sys2Proof.Machine.execSxor f s
  | .sshl f => Sys2Proof.Machine.execSshl f s
  | .sshr f => Sys2Proof.Machine.execSshr f s
  | .ssar f => Sys2Proof.Machine.execSsar f s
  | .srot f => Sys2Proof.Machine.execSrot f s
  | .sbfe f => Sys2Proof.Machine.execSbfe f s
  | .sbfi f => Sys2Proof.Machine.execSbfi f s
  | .spopc f => Sys2Proof.Machine.execSpopc f s
  | .sclz f => Sys2Proof.Machine.execSclz f s
  | .sffs f => Sys2Proof.Machine.execSffs f s
  | .slea f => Sys2Proof.Machine.execSlea f s
  | .ssetEq f => Sys2Proof.Machine.execSsetEq f s
  | .ssetNe f => Sys2Proof.Machine.execSsetNe f s
  | .ssetLt f => Sys2Proof.Machine.execSsetLt f s
  | .ssetLe f => Sys2Proof.Machine.execSsetLe f s
  | .ssetGt f => Sys2Proof.Machine.execSsetGt f s
  | .ssetGe f => Sys2Proof.Machine.execSsetGe f s
  | .ssetUo f => Sys2Proof.Machine.execSsetUo f s
  | .ssetOr f => Sys2Proof.Machine.execSsetOr f s
  | .mand f => Sys2Proof.Machine.execMand f s
  | .mor f => Sys2Proof.Machine.execMor f s
  | .mxor f => Sys2Proof.Machine.execMxor f s
  | .mandn f => Sys2Proof.Machine.execMandn f s
  | .mnot f => Sys2Proof.Machine.execMnot f s
  | .mcnt f => Sys2Proof.Machine.execMcnt f s
  | .mfirst f => Sys2Proof.Machine.execMfirst f s
  | .mlive f => Sys2Proof.Machine.execMlive f s
  | .mexec f => Sys2Proof.Machine.execMexec f s
  | .msetx f => Sys2Proof.Machine.execMsetx f s
  | .sgetr f => Sys2Proof.Machine.execSgetr f s
  | .ssetr f => Sys2Proof.Machine.execSsetr f s
  | .smode f => Sys2Proof.Machine.execSmode f s
  | .bra f => Sys2Proof.Machine.execBra f s
  | .brd f => Sys2Proof.Machine.execBrd f s
  | .brx f => Sys2Proof.Machine.execBrx f s
  | .call f => Sys2Proof.Machine.execCall f s
  | .ret f => Sys2Proof.Machine.execRet f s
  | .exitLanes f => Sys2Proof.Machine.execExit f s
  | .trapInstr f => Sys2Proof.Machine.execTrap f s
  | .tret f => Sys2Proof.Machine.execTret f s
  | .brk f => Sys2Proof.Machine.execBrk f s
  | .skip f => Sys2Proof.Machine.execSkip f s
  | .joinInstr f => Sys2Proof.Machine.execJoin f s
  | .nop f => Sys2Proof.Machine.execNop f s
  | .sld f => Sys2Proof.Machine.execSld f s
  | .sst f => Sys2Proof.Machine.execSst f s
  | .sldl f => Sys2Proof.Machine.execSldl f s
  | .satom f => Sys2Proof.Machine.execSatom f s
  | .spref f => Sys2Proof.Machine.execSpref f s
  | .ld f => Sys2Proof.Machine.execLd f s
  | .st f => Sys2Proof.Machine.execSt f s
  | .stn4 f => Sys2Proof.Machine.execStn4 f s
  | .ldw f => Sys2Proof.Machine.execLdw f s
  | .stw f => Sys2Proof.Machine.execStw f s
  | .atomAdd f => Sys2Proof.Machine.execAtomAdd f s
  | .atomFadd f => Sys2Proof.Machine.execAtomFadd f s
  | .atomMin f => Sys2Proof.Machine.execAtomMin f s
  | .atomMax f => Sys2Proof.Machine.execAtomMax f s
  | .atomAnd f => Sys2Proof.Machine.execAtomAnd f s
  | .atomOr f => Sys2Proof.Machine.execAtomOr f s
  | .atomXor f => Sys2Proof.Machine.execAtomXor f s
  | .atomExch f => Sys2Proof.Machine.execAtomExch f s
  | .atomCas f => Sys2Proof.Machine.execAtomCas f s
  | .atomInc f => Sys2Proof.Machine.execAtomInc f s
  | .atomDec f => Sys2Proof.Machine.execAtomDec f s
  | .atomFaddbf f => Sys2Proof.Machine.execAtomFaddbf f s
  | .pref f => Sys2Proof.Machine.execPref f s
  | .clean f => Sys2Proof.Machine.execClean f s
  | .drop f => Sys2Proof.Machine.execDrop f s
  | .bar f => Sys2Proof.Machine.execBar f s
  | .barc f => Sys2Proof.Machine.execBarc f s
  | .bard f => Sys2Proof.Machine.execBard f s
  | .waitc f => Sys2Proof.Machine.execWaitc f s
  | .waitb f => Sys2Proof.Machine.execWaitb f s
  | .acq f => Sys2Proof.Machine.execAcq f s
  | .rel f => Sys2Proof.Machine.execRel f s
  | .bindRegion f => Sys2Proof.Machine.execBindRegion f s
  | .unbindRegion f => Sys2Proof.Machine.execUnbindRegion f s
  | .fence f => Sys2Proof.Machine.execFence f s
  | .nap f => Sys2Proof.Machine.execNap f s
  | .yield f => Sys2Proof.Machine.execYield f s
  | .arrb f => Sys2Proof.Machine.execArrb f s
  | .mloadw f => Sys2Proof.Machine.execMloadw f s
  | .mflip f => Sys2Proof.Machine.execMflip f s
  | .mstream f => Sys2Proof.Machine.execMstream f s
  | .mnest f => Sys2Proof.Machine.execMnest f s
  | .mdrain f => Sys2Proof.Machine.execMdrain f s
  | .mzero f => Sys2Proof.Machine.execMzero f s
  | .cpy f => Sys2Proof.Machine.execCpy f s
  | .gath f => Sys2Proof.Machine.execGath f s
  | .coll f => Sys2Proof.Machine.execColl f s
  | .splitWarp f => Sys2Proof.Machine.execSplitWarp f s
  | .fuseWarp f => Sys2Proof.Machine.execFuseWarp f s
  | .penq f => Sys2Proof.Machine.execPenq f s
  | .penqW f => Sys2Proof.Machine.execPenqW f s
  | .plift f => Sys2Proof.Machine.execPlift f s
  | .launchInstr f => Sys2Proof.Machine.execLaunchInstr f s
  | .nextIter f => Sys2Proof.Machine.execNextIter f s
  | .dqpush f => Sys2Proof.Machine.execDqpush f s
  | .dqpop f => Sys2Proof.Machine.execDqpop f s
  | .dqsteal f => Sys2Proof.Machine.execDqsteal f s
  | .qpush f => Sys2Proof.Machine.execQpush f s
  | .qpop f => Sys2Proof.Machine.execQpop f s
  | .gsigReplay f => Sys2Proof.Machine.execGsigReplay f s
  | .gsigDone f => Sys2Proof.Machine.execGsigDone f s
  | .tex f => Sys2Proof.Machine.execTex f s
  | .texf f => Sys2Proof.Machine.execTexf f s
  | .trav f => Sys2Proof.Machine.execTrav f s
  | .emit f => Sys2Proof.Machine.execEmit f s
  | .kill f => Sys2Proof.Machine.execKill f s
  | .visr f => Sys2Proof.Machine.execVisr f s
  | .memoryAccessCompletion uid parts => Sys2Proof.Machine.execMemoryAccessCompletion uid parts s
  | .pageWalkComplete die k => Sys2Proof.Machine.execPageWalkComplete die k s
  | .shootdownComplete => Sys2Proof.Machine.execShootdownComplete s
  | .readshared k => Sys2Proof.Machine.execReadshared k s
  | .readown k => Sys2Proof.Machine.execReadown k s
  | .upgrade k => Sys2Proof.Machine.execUpgrade k s
  | .writeback k => Sys2Proof.Machine.execWriteback k s
  | .atomicMsg k => Sys2Proof.Machine.execAtomicMsg k s
  | .readnc k => Sys2Proof.Machine.execReadnc k s
  | .writenc k => Sys2Proof.Machine.execWritenc k s
  | .snpshared k => Sys2Proof.Machine.execSnpshared k s
  | .snpinv k => Sys2Proof.Machine.execSnpinv k s
  | .backinv k => Sys2Proof.Machine.execBackinv k s
  | .dataMsg k => Sys2Proof.Machine.execDataMsg k s
  | .datafwd k => Sys2Proof.Machine.execDatafwd k s
  | .ackMsg k => Sys2Proof.Machine.execAckMsg k s
  | .homeoffline k => Sys2Proof.Machine.execHomeoffline k s
  | .launchfwd k => Sys2Proof.Machine.execLaunchfwd k s
  | .batchreq k => Sys2Proof.Machine.execBatchreq k s
  | .batchgrant k => Sys2Proof.Machine.execBatchgrant k s
  | .batchmirror k => Sys2Proof.Machine.execBatchmirror k s
  | .batchdone k => Sys2Proof.Machine.execBatchdone k s
  | .pantryenq k => Sys2Proof.Machine.execPantryenq k s
  | .pantrycode k => Sys2Proof.Machine.execPantrycode k s
  | .graphdone k => Sys2Proof.Machine.execGraphdone k s
  | .latchwake k => Sys2Proof.Machine.execLatchwake k s
  | .acqRereadTimeout warp pc => Sys2Proof.Machine.execAcqRereadTimeout warp pc s
  | .workgroupPlacement die => Sys2Proof.Machine.execWorkgroupPlacement die s
  | .carveoutGrow core => Sys2Proof.Machine.execCarveoutGrow core s
  | .carveoutShrink core => Sys2Proof.Machine.execCarveoutShrink core s
  | .preemption die => Sys2Proof.Machine.execPreemption die s
  | .workgroupRestore die => Sys2Proof.Machine.execWorkgroupRestore die s
  | .launchCompletion uid => Sys2Proof.Machine.execLaunchCompletion uid s
  | .napExpiry warp => Sys2Proof.Machine.execNapExpiry warp s
  | .splitChildReady warp => Sys2Proof.Machine.execSplitChildReady warp s
  | .fuseRendezvous warp => Sys2Proof.Machine.execFuseRendezvous warp s
  | .heldTrapDelivery warp => Sys2Proof.Machine.execHeldTrapDelivery warp s
  | .engineJobStart job => Sys2Proof.Machine.execEngineJobStart job s
  | .engineChunk job => Sys2Proof.Machine.execEngineChunk job s
  | .engineJobComplete job => Sys2Proof.Machine.execEngineJobComplete job s
  | .mnestStep job => Sys2Proof.Machine.execMnestStep job s
  | .recordSealAge die k => Sys2Proof.Machine.execRecordSealAge die k s
  | .recordDispatch die => Sys2Proof.Machine.execRecordDispatch die s
  | .skimJob die => Sys2Proof.Machine.execSkimJob die s
  | .depthRasterJob die => Sys2Proof.Machine.execDepthRasterJob die s
  | .rasterRecord die => Sys2Proof.Machine.execRasterRecord die s
  | .visibilityWaveJob die => Sys2Proof.Machine.execVisibilityWaveJob die s
  | .forwardRasterJob die => Sys2Proof.Machine.execForwardRasterJob die s
  | .frameJobCompletion die => Sys2Proof.Machine.execFrameJobCompletion die s
  | .blendWrite die q => Sys2Proof.Machine.execBlendWrite die q s
  | .graphRunStart k => Sys2Proof.Machine.execGraphRunStart k s
  | .graphNodeRelease k node => Sys2Proof.Machine.execGraphNodeRelease k node s
  | .faultQueueMsiRepeat die slot => Sys2Proof.Machine.execFaultQueueMsiRepeat die slot s
  | .fqheadWrite die slot v => Sys2Proof.Machine.execFqheadWrite die slot v s
  | .fqcmdReplayOne die v => Sys2Proof.Machine.execFqcmdReplayOne die v s
  | .fqcmdRejectOne die v => Sys2Proof.Machine.execFqcmdRejectOne die v s
  | .fqcmdReplayAsid die v => Sys2Proof.Machine.execFqcmdReplayAsid die v s
  | .fqcmdRejectAsid die v => Sys2Proof.Machine.execFqcmdRejectAsid die v s
  | .invcmdAll die v => Sys2Proof.Machine.execInvcmdAll die v s
  | .invcmdAsid die v => Sys2Proof.Machine.execInvcmdAsid die v s
  | .invcmdPageAsid die v => Sys2Proof.Machine.execInvcmdPageAsid die v s
  | .invcmdPageAll die v => Sys2Proof.Machine.execInvcmdPageAll die v s
  | .homeOfflineTimeout r => Sys2Proof.Machine.execHomeOfflineTimeout r s
  | .cellarMissSchedule die grp => Sys2Proof.Machine.execCellarMissSchedule die grp s
  | .machineCheck cause die pa => Sys2Proof.Machine.execMachineCheck cause die pa s
  | .frameedge e => Sys2Proof.Machine.execFrameedge e s
  | .powerstep die => Sys2Proof.Machine.execPowerstep die s
  | .errornote k => Sys2Proof.Machine.execErrornote k s
  | .urgencyChange k => Sys2Proof.Machine.execUrgencyChange k s
  | .urgencyRaise die => Sys2Proof.Machine.execUrgencyRaise die s
  | .urgencyLower die => Sys2Proof.Machine.execUrgencyLower die s
  | .fifoFillSample die => Sys2Proof.Machine.execFifoFillSample die s
  | .launchSubmission die off data => Sys2Proof.Machine.execLaunchSubmission die off data s
  | .placementBlockTimeout die => Sys2Proof.Machine.execPlacementBlockTimeout die s
  | .pathTimesliceExpiry warp => Sys2Proof.Machine.execPathTimesliceExpiry warp s
  | .workgroupWatchdog wg => Sys2Proof.Machine.execWorkgroupWatchdog wg s
  | .collPortTimeout port => Sys2Proof.Machine.execCollPortTimeout port s
  | .pantryClassDescriptorWrite die c word v => Sys2Proof.Machine.execPantryClassDescriptorWrite die c word v s
  | .frameJobSubmission die off data => Sys2Proof.Machine.execFrameJobSubmission die off data s
  | .graphReplayPort die slot v => Sys2Proof.Machine.execGraphReplayPort die slot v s
  | .graphDeadlineSlip k node => Sys2Proof.Machine.execGraphDeadlineSlip k node s
  | .frameEdgeGenerate => Sys2Proof.Machine.execFrameEdgeGenerate s
  | .frameEdgeFire die => Sys2Proof.Machine.execFrameEdgeFire die s
  | .frameEdgeTimer => Sys2Proof.Machine.execFrameEdgeTimer s
  | .frameEdgeMissed => Sys2Proof.Machine.execFrameEdgeMissed s
  | .flcfgWrite die v => Sys2Proof.Machine.execFlcfgWrite die v s
  | .fladmitWrite die v => Sys2Proof.Machine.execFladmitWrite die v s
  | .displayHeadCheck die => Sys2Proof.Machine.execDisplayHeadCheck die s
  | .vblankPresent die => Sys2Proof.Machine.execVblankPresent die s
  | .headEnable die v => Sys2Proof.Machine.execHeadEnable die v s
  | .powerStepDown watts10 => Sys2Proof.Machine.execPowerStepDown watts10 s
  | .powerStepUp watts100 => Sys2Proof.Machine.execPowerStepUp watts100 s
  | .linkLost a b => Sys2Proof.Machine.execLinkLost a b s
  | .warmReset die v => Sys2Proof.Machine.execWarmReset die v s
  | .warmResetKill die v => Sys2Proof.Machine.execWarmResetKill die v s
  | .warmResetWipe die v => Sys2Proof.Machine.execWarmResetWipe die v s
  | .wdogWrite die v => Sys2Proof.Machine.execWdogWrite die v s
  | .clscfgWrite die c v => Sys2Proof.Machine.execClscfgWrite die c v s
  | .monctlSnap die v => Sys2Proof.Machine.execMonctlSnap die v s
  | .monctlClear die v => Sys2Proof.Machine.execMonctlClear die v s
  | .steerWrite die w v => Sys2Proof.Machine.execSteerWrite die w v s
  | .attreqWrite die v => Sys2Proof.Machine.execAttreqWrite die v s
  | .lifeCycleTransition cmd => Sys2Proof.Machine.execLifeCycleTransition cmd s
  | .firmwareImageWrite die image => Sys2Proof.Machine.execFirmwareImageWrite die image s
  | .powerOnBoot b image => Sys2Proof.Machine.execPowerOnBoot b image s
  | .registerWrite die off v => Sys2Proof.Machine.execRegisterWrite die off v s
  | .moduleReset b => Sys2Proof.Machine.execModuleReset b s
  | .hostCoreAccess a => Sys2Proof.Machine.execHostCoreAccess a s
  | .activeScanOut die => Sys2Proof.Machine.execActiveScanOut die s

end Sys2Proof.Machine
end

