-- ==== Sys2Proof/Machine/Turns.lean ====
section
/-! DEFINITION. What happens in one step (log 1): a warp issues, an event happens, or time passes. -/

namespace Sys2Proof.Machine

/-- A warp's turn: a held trap first (R387), then an answered fault (R52), else the instruction at its PC. A warp that may
not issue does nothing. -/
def State.turn (s : State) (id : Nat) : Host.Outcome State Fault Refusal :=
  match mapFind s.warps id with
  | none => .next s
  | some w =>
    match mapFind s.wgs w.wg with
    | none => .next s
    | some g =>
      if s.mayIssue w g then
        if w.held ≠ [] ∧ !w.handler ∧ w.block.isNone ∧ !w.midway then execHeldTrapDelivery id s
        else
          let t : Thread := ⟨s, id, w, g⟩
          match w.block with
          | some p =>
            match p.answer with
            | some c => .next ((Res.trap t c p.va (if c = 0x05 then p.rejectImm else 0)).finish w.pc 0)
            | none => .next s
          | none =>
            match t.fetch with
            | .instr t i => exec i { t.put with cur := some id }
            | .stop r => .next (r.finish w.pc 0)
      else .next s

/-- A turn of the schedule. Only an event can be scheduled as one: an instruction that has a word runs when a warp comes
to it. -/
def State.act (s : State) : Act → Host.Outcome State Fault Refusal
  | .warp id => s.turn id
  | .event i => if encode i = [] then exec i s else .next s

/-- Time passes. -/
def State.pass (s : State) (ticks clocks : Nat) : State := { s with tick := s.tick + ticks, clock := s.clock + clocks }

/-! Without a schedule -/

/-- What time brings about: the end of a NAP (R282), of a split child's wait (R174), of a path's time slice (R168), of 200 ms at an
offline home (R397), a node's deadline (R349), the watchdog (R389), pre-emption (R336, R390), a wait that blocks younger launches
(R335), a fault MSI that is due again (R48). -/
inductive Due where
  | nap (warp : Nat)
  | child (warp : Nat)
  | slice (warp : Nat)
  | home (r : Requester)
  | slip (k node : Nat)
  | watchdog (wg : Nat)
  | preempt (die : Nat)
  | block (die : Nat)
  | msi (die slot : Nat)
  deriving DecidableEq, Repr

/-- A step that the machine can take of itself. -/
inductive Pick where
  | warp (id : Nat)
  | access (uid parts : Nat)
  | walk (die k : Nat)
  | shootdown
  | net (code : CohCode) (k : Nat)
  | ctl (dst : Nat) (body : CtlBody) (k : Nat)
  | acq (warp : Nat) (pc : Dword)
  | fuse (warp : Nat)
  | job (uid stage : Nat)
  | place (die : Nat)
  | restore (die : Nat)
  | carve (core : Nat) (grow : Bool)
  | seal_ (die k : Nat)
  | warm
  | over (uid : Nat)
  | record (die : Nat)
  | graph (k : Nat) (nodes : List Nat)
  | frame (die : Nat)
  | cellar (die grp : Nat)
  | edge (die : Nat)
  | head (die : Nat)
  | due (e : Due)
  deriving DecidableEq, Repr

/-- Run a list of events that follow each other. -/
def runAll : List (State → Host.Outcome State Fault Refusal) → State → Host.Outcome State Fault Refusal
  | [], s => .next s
  | f :: r, s =>
    match f s with
    | .next s => runAll r s
    | x => x

/-- A coherence message is delivered. -/
def State.pickNet (code : CohCode) (k : Nat) : State → Host.Outcome State Fault Refusal :=
  match code with
  | .readShared => execReadshared k
  | .readOwn => execReadown k
  | .upgrade => execUpgrade k
  | .writeBack => execWriteback k
  | .atomic => execAtomicMsg k
  | .readNC => execReadnc k
  | .writeNC => execWritenc k
  | .snpShared => execSnpshared k
  | .snpInv => execSnpinv k
  | .backInv => execBackinv k
  | .data => execDataMsg k
  | .dataFwd => execDatafwd k
  | .ack => execAckMsg k
  | .homeOffline => execHomeoffline k

/-- What the edges of the frame lock need on a die: the next one is made, its message arrives, it fires. -/
def State.edgeSteps (s : State) (die : Nat) : List (State → Host.Outcome State Fault Refusal) :=
  let msgs := (s.mdl.fl.fires.filter fun e => e.die == die && !e.here).map fun e =>
    execFrameedge (.inside die (BitVec.ofNat 32 e.frame) (e.tick - s.tick))
  [execFrameEdgeGenerate, execFrameEdgeTimer, execFrameEdgeMissed] ++ msgs ++ [execFrameEdgeFire die]

/-- What is due happens. -/
def Due.run (e : Due) : State → Host.Outcome State Fault Refusal :=
  match e with
  | .nap w => execNapExpiry w
  | .child w => execSplitChildReady w
  | .slice w => execPathTimesliceExpiry w
  | .home r => execHomeOfflineTimeout r
  | .slip k n => execGraphDeadlineSlip k n
  | .watchdog g => execWorkgroupWatchdog g
  | .preempt d => execPreemption d
  | .block d => execPlacementBlockTimeout d
  | .msi d n => execFaultQueueMsiRepeat d n

/-- Take such a step. -/
def Pick.run (p : Pick) (s : State) : Host.Outcome State Fault Refusal :=
  match p with
  | .warp id => s.turn id
  | .access uid n => execMemoryAccessCompletion uid (List.range n) s
  | .walk die k => execPageWalkComplete die k s
  | .shootdown => execShootdownComplete s
  | .net code k => State.pickNet code k s
  | .ctl dst body k => State.pickCtl dst body k s
  | .acq w pc => execAcqRereadTimeout w pc s
  | .fuse w => execFuseRendezvous w s
  | .job uid stage =>
    if stage = 0 then execEngineJobStart uid s
    else if stage = 1 then execMnestStep uid s
    else if stage = 2 then execEngineChunk uid s
    else execEngineJobComplete uid s
  | .place die => execWorkgroupPlacement die s
  | .restore die => execWorkgroupRestore die s
  | .seal_ die k => execRecordSealAge die k s
  | .warm =>
    match s.mdl.warm with
    | some r =>
      if r.wipe then execWarmResetWipe s.mdl.mgmt ⟨r.cmd, r.step⟩ s
      else if r.kill then execWarmResetKill s.mdl.mgmt ⟨r.cmd, r.step⟩ s
      else execWarmReset s.mdl.mgmt ⟨r.cmd, r.step⟩ s
    | none => .next s
  | .carve core grow => if grow then execCarveoutGrow core s else execCarveoutShrink core s
  | .over uid => execLaunchCompletion uid s
  | .record die => execRecordDispatch die s
  | .graph k nodes => runAll (execGraphRunStart k :: nodes.map fun n => execGraphNodeRelease k n) s
  | .frame die =>
    runAll [execSkimJob die, execDepthRasterJob die, execRasterRecord die, execForwardRasterJob die, execVisibilityWaveJob die,
      execBlendWrite die 0, execBlendWrite die 1, execFrameJobCompletion die] s
  | .cellar die grp => execCellarMissSchedule die grp s
  | .edge die => runAll (s.edgeSteps die) s
  | .head die =>
    runAll [execDisplayHeadCheck die, execVblankPresent die, execUrgencyRaise die, execActiveScanOut die, execUrgencyRaise die,
      execUrgencyLower die, execFifoFillSample die] s
  | .due e => e.run s

/-- The warps that may issue, or that wait in FUSE. -/
def State.warpPicks (s : State) : List Pick :=
  s.warps.flatMap fun e => match mapFind s.wgs e.2.wg with
    | some g => if s.mayIssue e.2 g then [Pick.warp e.1] else if e.2.fuse.isSome then [Pick.fuse e.1] else []
    | none => []

/-- Walks that may end. -/
def State.walkPicks (s : State) : List Pick :=
  s.dies.flatMap fun e => e.2.miss.zipIdx.flatMap fun m => if m.1.res.isNone then [Pick.walk e.1 m.2] else []

/-- Messages on their way. -/
def State.msgPicks (s : State) : List Pick :=
  let coh : List Pick := s.net.zipIdx.map fun m => Pick.net m.1.code m.2
  let ctl : List Pick := s.ctl.zipIdx.map fun m => Pick.ctl m.1.dst m.1.body m.2
  ctl ++ coh

/-- Jobs of the engines. -/
def State.jobPicks (s : State) : List Pick :=
  s.jobs.flatMap fun e =>
    if e.2.saved || e.2.park.isSome then [] else [Pick.job e.1 0, Pick.job e.1 1, Pick.job e.1 2, Pick.job e.1 3]

/-- Launches, workgroups, carve-outs. -/
def State.placePicks (s : State) : List Pick :=
  let ends : List Pick := s.launches.map fun e => Pick.over e.1
  let upds : List Pick := s.upds.map fun e => Pick.over e.1
  let dies : List Pick := if s.launches.isEmpty then [] else (List.range 9).flatMap fun d => [Pick.place d, Pick.restore d]
  let cores : List Pick := s.cores.flatMap fun e =>
    if e.2.resize.isSome then [Pick.carve e.1 true]
    else if carveOf (gransHi (s.gransOn e.1)) < e.2.carve then [Pick.carve e.1 false] else []
  (dies ++ cores) ++ (ends ++ upds)

/-- The Pantry's records, the graphs, frame jobs, the Cellar's misses, frame lock, display heads. -/
def State.unitPicks (s : State) : List Pick :=
  let recs : List Pick := s.units.flatMap fun e =>
    if e.2.pantry.recs.isEmpty then []
    else Pick.record e.1 :: (e.2.pantry.nextDue s.tick).toList.map fun k => Pick.seal_ e.1 k
  let graphs : List Pick := s.graphs.map fun e => Pick.graph e.1 (match e.2.run with
    | some r => r.ready
    | none => [])
  let frames : List Pick := s.units.flatMap fun e =>
    if e.2.frame.isSome || !e.2.waiting.isEmpty || !e.2.blend0.isEmpty || !e.2.blend1.isEmpty then [Pick.frame e.1] else []
  let cellars : List Pick := s.units.flatMap fun e => e.2.groups.flatMap fun g =>
    if g.2.misses.isEmpty then [] else [Pick.cellar e.1 g.1]
  let edges : List Pick := if s.mdl.fl = FrameLock.reset then [] else s.live.map fun d => Pick.edge d
  let heads : List Pick := s.units.flatMap fun e => if e.2.head.on then [Pick.head e.1] else []
  [recs, graphs, frames, cellars, edges, heads].flatten

/-- What is due of a warp. -/
def State.warpDue (s : State) (id : Nat) (w : Warp) : List Due :=
  let past (t : Nat) : Bool := decide (t ≠ 0) && decide (t ≤ s.clock)
  let nap : List Due := if past w.wake || w.paths.any fun p => past p.wake then [.nap id] else []
  let child : List Due := if past w.notBefore then [.child id] else []
  let slice : List Due :=
    if w.running && !w.paths.isEmpty && decide (w.slice + 4096 ≤ s.clock) then [.slice id] else []
  let late (p : Option Park) : Bool := p.any fun k => k.late s.tick
  let own : List Dword := if late w.block then [w.pc] else []
  let parked : List Dword := (w.paths.filter fun p => late p.park).map fun p => p.pc
  let issued : List Dword := w.offl.filterMap fun o => if late o.park then (mapFind s.accs o.uid).map fun a => a.pc else none
  let homes : List Due := (own ++ parked ++ issued).map fun pc => .home (.path id pc)
  [nap, child, slice, homes].flatten

/-- What waits 200 ms for an offline home beside the warps (R397). -/
def State.lateJobs (s : State) : List Due :=
  let late (p : Option Park) : Bool := p.any fun k => k.late s.tick
  let jobs : List Nat := (s.jobs.filter fun e => late e.2.park).map fun e => e.1
  let upds : List Nat := (s.upds.filter fun e => late e.2.park).map fun e => e.1
  let graphs : List Nat := (s.graphs.filter fun e => late e.2.park).map fun e => e.1
  let frames : List Nat := (s.units.filter fun e => e.2.frame.any fun j => late j.park).map fun e => e.1
  (jobs ++ upds ++ graphs).map (fun n => .home (.job n)) ++ frames.map fun d => .home (.frame d)

/-- The nodes of a graph that are past their deadline (R349). -/
def State.lateNodes (s : State) (k : Nat) (g : Graph) : List Due :=
  match g.run, g.header s with
  | some r, .ok h =>
    ((List.range (fieldAt h.2 8 4)).filter fun n => !r.finished.contains n && !r.late.contains n &&
      (match g.node s n with
       | .ok x => decide (x.2.dead ≠ 0xFFFFFFFF) && decide (r.start + x.2.dead ≤ s.tick)
       | .error _ => false)).map fun n => .slip k n
  | _, _ => []

/-- The distributor's clocks and its displacing of workgroups (R335, R336, R389, R390). -/
def State.placeDue (s : State) : List Due :=
  let dogs : List Due := (s.wgs.filter fun e =>
    let n := s.reg e.2.die 0x80100 % 2 ^ 32
    decide (e.2.phase = .placed) && decide (n ≠ 0) && decide (e.2.active + n * 1000 ≤ s.tick)).map fun e => .watchdog e.1
  let drains (d : Nat) : Bool := s.wgs.any fun e => e.2.die == d && decide (e.2.phase = .draining)
  let room (d : Nat) : Bool := !s.launches.isEmpty && s.reg d 0x10308 != 0
  let stops : List Due := ((List.range 9).filter fun d => drains d || room d).map fun d => .preempt d
  let waits (d : Nat) : Bool := s.launches.any fun e => e.2.spans.any fun x =>
    x.die == d && !x.blocking && x.since.any fun t => decide (t + 100000 ≤ s.tick)
  let blocks : List Due := ((List.range 9).filter waits).map fun d => .block d
  [dogs, stops, blocks].flatten

/-- The fault MSIs that are due again (R48). -/
def State.msiDue (s : State) : List Due :=
  s.dies.flatMap fun e => e.2.fqs.filterMap fun q => match q.2.lastMsi with
    | some t =>
      if q.2.tail ≠ q.2.head % (s.ctxFor q.1).fqLen ∧ t + 10000 ≤ s.tick then some (.msi e.1 q.1) else none
    | none => none

/-- All that is due. -/
def State.duePicks (s : State) : List Pick :=
  let warps : List Due := s.warps.flatMap fun e => s.warpDue e.1 e.2
  let nodes : List Due := s.graphs.flatMap fun e => s.lateNodes e.1 e.2
  ([warps, s.lateJobs, nodes, s.placeDue, s.msiDue].flatten).map fun e => .due e

/-- The steps that the machine may take of itself now. -/
def State.picks (s : State) : List Pick :=
  let accs : List Pick := s.accs.map fun e => Pick.access e.1 e.2.parts.length
  let acqs : List Pick := s.acqs.map fun a => Pick.acq a.warp a.pc
  let inv : List Pick := (if s.mdl.inv.isEmpty then [] else [Pick.shootdown]) ++ if s.mdl.warm.isSome then [Pick.warm] else []
  [s.warpPicks, accs, s.walkPicks, inv, s.msgPicks, acqs, s.jobPicks, s.placePicks, s.unitPicks, s.duePicks].flatten

/-- The ticks of a step without a schedule, and the clocks in them (R413, log 1). -/
def paceTicks : Nat := 10
def State.paceClocks (s : State) : Nat := s.mdl.power.mhz * paceTicks / 1000

/-- What happens when nothing is scheduled: the possible steps come round in turn; with none, only time passes. -/
def State.idle (s : State) : Host.Outcome State Fault Refusal :=
  let s := (s.pass paceTicks s.paceClocks).samples
  let ps := s.picks
  match ps[s.turnNo % ps.length]? with
  | some p => p.run { s with turnNo := s.turnNo + 1 }
  | none => .next s

end Sys2Proof.Machine
end

