-- ==== Sys2Proof/Machine/Step.lean ====
section
/-! DEFINITION. One step of the machine (log 1), and how an instruction is put in place for it (log 7). -/

namespace Sys2Proof.Machine

/-- One step: time passes, and then the next turn of the schedule; without one, what the machine does of itself. -/
def step (s : State) : Host.Outcome State Fault Refusal :=
  match s.schedule with
  | t :: r => (({ s with schedule := r } : State).pass t.ticks t.clocks).samples.act t.act
  | [] => s.idle

/-- The state `s` with the instruction whose bits are `w`, of which `nbits` are given, where the next step fetches: a
launch of one warp has been placed on core 0 and has the next turn (log 7). -/
def State.withFetchWord (s : State) (nbits w : Nat) : State := s.placeFetch (leBytes 16 (w % 2 ^ nbits))

end Sys2Proof.Machine
end

