-- ==== Sys2Proof/Safety.lean ====
section
/-! DEFINITION. What counts as a safe run, and the terms in which statements speak of one instruction: the thread that
executes it, the state in which that thread has gone on, the state in which it has taken a trap. -/

namespace Sys2Proof.Machine

/-- The canonical form of memory: addresses strictly rising, and no byte listed that reads as an unlisted one does
(0, log 6). -/
abbrev Memory.wf (m : FMap Byte) : Bool := storeWf 0 m

/-- A row of the opcode table that has a word, so that a warp can fetch it (R182); the others are events (95). -/
def HasWord (i : Instr) : Prop := encode i ≠ []

/-- A state from which the next step answers a state: no fault, no refusal. -/
def State.Steps (s : State) : Prop := ∃ t, step s = .next t

/-- A run of any number of steps that meets no stop. -/
def State.Safe (s : State) : Prop := ∀ n, ∃ t, Sys2Proof.core.run n s = .next t

/-- `t` is the thread on which `exec` acts in `s`: a path of its warp runs, and no translation fault holds it. -/
def Running (s : State) (t : Thread) : Prop := s.thread = some t ∧ t.w.block = none

/-- `t` runs in `s` and instruction `i` passes steps 4 and 5 of R184 there: its fields are legal, its register operands
`ops` lie in the kernel's registers with their alignment (R198), what its entry calls an illegal operand is not the case
(`lim`), and no register that it reads lies in a sector that holds an error (R100, R101). -/
structure Ready (s : State) (t : Thread) (i : Instr) (ops : List Opd) (lim : Bool) : Prop where
  running : Running s t
  legal : i.wf = true
  operands : t.operandsOk ops = true
  limits : lim = true
  sound : ∀ b ∈ t.s.bad, ops.any (fun o => o.touches t.w (Machine.readLanes i t.w) t.id b) = false

/-- The state in which the running path of `t` stands at the instruction that follows one of `len` bytes; its workgroup has
issued in this tick (R389). All else is as `t` has it. -/
def Thread.advance (t : Thread) (len : Nat) : State :=
  { t.s with
    warps := mapPut t.s.warps t.id { t.w with pc := t.w.pc + BitVec.ofNat 64 len, stall := none }
    wgs := mapPut t.s.wgs t.w.wg { t.g with active := t.s.tick } }

/-- The state in which `t` stands as it is, its workgroup having issued in this tick. -/
def Thread.stand (t : Thread) : State := t.touch.put

/-- Whether a trap of the thread is delivered to a handler (R384, R385): it is not in handler mode, and its image has a trap
vector. -/
def Thread.Traps (t : Thread) : Prop := t.w.handler = false ∧ t.launch.image.trapvec ≠ 0

/-- The state in which the thread has taken a trap at its own instruction (R384): %cause, %trappc, %trapsrc, %trapaddr,
%trapimm and the trap exec hold what they save, handler mode is on, the path stands at the trap vector; the miss table holds
no requester any more that waited at this instruction (R44). -/
def Thread.trapped (t : Thread) (cause : Word) (addr : Dword) (imm : Word) : State :=
  { t.s.forgetMiss t.die t.id t.w.pc with
    warps := mapPut t.s.warps t.id { t.w with
      cause := cause, trappc := t.w.pc, trapsrc := t.w.pc, trapaddr := addr, trapimm := imm
      trapExec := t.w.exec, handler := true, boundary := false, running := true
      pc := t.launch.image.base + t.launch.image.trapvec, wake := 0, nap := false, trapWake := t.w.wake
      trapNap := if t.w.nap then some t.w.pc else none, fuse := none, stall := none, block := none }
    wgs := mapPut t.s.wgs t.w.wg { t.g with active := t.s.tick } }

/-- The state in which a trap of the thread that no handler can take has killed its workgroup (R385, R388), and what follows from its
warps' end has happened. -/
def Thread.killed (t : Thread) (cause : Nat) : State :=
  ((Thread.stand { t with s := t.s.forgetMiss t.die t.id t.w.pc }).killWg t.w.wg cause).settle t.w.wg

end Sys2Proof.Machine
end

