-- ==== Sys2Proof/Certificates/Slice0/Obligations.lean ====
section
/-! DEFINITION. The statements for the provers. A statement about one instruction speaks of the thread `t` that executes
it (`Ready`, `Running`: spec 08 R184, R198) and concludes with the state that `exec` answers. That state is written out
from `t`: `advance`, `stand` and `trapped` (Sys2Proof/Safety.lean) change the warp and the workgroup of `t` and nothing else,
so each such equation is also the instruction's frame. -/

open Sys2Proof Sys2Proof.Machine

namespace Sys2Proof.Machine

/-! Fields that are all zero, to write an instruction's operands beside them. -/

def noV3 : V3F := ⟨false, false, false, 0, false, 0, false, 0, 0, 0, 0, 0⟩
def noXl : XlF := ⟨false, false, 0, false, 0, 0, 0, 0, 0, 0⟩
def noS3 : S3F := ⟨0, 0, false, 0, 0⟩
def noSb : SbF := ⟨0, 0, 0, 0⟩
def noSm : SmF := ⟨0, 0, 0, 0, 0⟩
def noVm : VmF := ⟨0, false, 0, false, 0, 0, 0, 0, 0, 0, 0⟩
def noSy : SyF := ⟨0, 0, 0, 0, 0, 0⟩
def noEn : EnF := ⟨0, 0xFF, 0xFF, false, 0, 0⟩
def noWq : WqF := ⟨0, 0, 0, 0, 0, 0⟩
def noGx : GxF := ⟨0, false, 0, false, 0, 0, 0, 0, 0⟩

/-- A word of 8 bytes decodes to an instruction, with nothing after it. -/
def wordIs (w : Nat) (i : Instr) : Prop := decode (leBytes 8 w) = .ok (i, [])

/-- The state in which a turn acts: the schedule goes on, time passes, and what the monitors sample meanwhile is counted (R116). -/
def State.onTurn (s : State) (r : List Turn) (ticks clocks : Nat) : State :=
  (State.pass { s with schedule := r } ticks clocks).samples

end Sys2Proof.Machine

/-! Words and steps -/

/-- R182 to R197: the decoder reads back every word that the encoder writes, whatever follows it: for every well-formed
instruction that has a word, with every operand at every value. -/
def Obligations.DecodeOfEncode : Prop :=
  ∀ (i : Instr) (rest : List Byte), i.wf = true → HasWord i → decode (encodeBytes i ++ rest) = .ok (i, rest)

/-- R182 to R197: a word has one meaning. Whatever bytes decode to an instruction are the bytes of that instruction, which
is well-formed and has a word: no bit of them is passed over. -/
def Obligations.DecodeIsExact : Prop :=
  ∀ (bs rest : List Byte) (i : Instr), decode bs = .ok (i, rest) → bs = encodeBytes i ++ rest ∧ i.wf = true ∧ HasWord i

/-- Words of the encoding examples of spec 09 to 15, one of each format, decode to the instruction beside them. -/
def Obligations.SpecWordsDecode : Prop :=
  wordIs 0x000210060100A060 (.vmad { noV3 with ty := 2, rnd := 1, vb := 6, va := 4, vd := 10 }) ∧
  wordIs 0x2000700500008181 (.vote { noXl with tos := true, g := 7, vb := 5, vd := 8 }) ∧
  wordIs 0x1FFFFFFF90305022 (.sadd { noS3 with imm := 0xFFFFFFFC, isimm := true, sa := 3, sd := 5 }) ∧
  wordIs 0xFFFFFFC030702013 (.bra { noSb with off := 0xFFFFFFC0, cond := 3, sb := 7, sa := 2 }) ∧
  wordIs 0x0000010220208014 (.sld { noSm with off := 0x40, scope := 4, size := 2, sbase := 2, sd := 8 }) ∧
  wordIs 0x0028830600C0A025
    (.st { noVm with gs := 2, gen := true, scope := 4, size := 3, sbase := 6, voff := 3, vdata := 10 }) ∧
  wordIs 0x0001440181614086 (.bindRegion { noSy with imm := 40, scope := 4, sc := 24, sb := 22, sa := 20 }) ∧
  wordIs 0x0000888900210047 (.mnest { noEn with imm := 1, sx := 17, sl := 18, vf := 2, sc := 16 }) ∧
  wordIs 0x0109100000000078 (.launchInstr { noWq with imm := 1, sD := 9, sB := 16 }) ∧
  wordIs 0x0001001801000049 (.emit { noGx with mode := 1, sdesc := 24, va := 4 }) ∧
  decode (leBytes 8 0x000200020040801F ++ leBytes 8 0x405) =
    .ok (.vmad4 { noV3 with ty := 2, vb := 2, va := 1, vd := 8 } 1 5, [])

/-- Steps 1 and 2 of R184: a word with FMT 0xA to 0xE is refused, and so is one of FMT 0xF with an OP that has no long form
(R199: 0x01 and 0x80 upward), whatever their other bits and whatever follows. -/
def Sys2Proof.Part.ReservedWordsRefused : Prop :=
  ∀ (w : Dword) (rest : List Byte),
    (10 ≤ (w.extractLsb' 0 4).toNat → (w.extractLsb' 0 4).toNat ≤ 14 →
      decode (bytesOfWord w ++ rest) = .error .reservedFormat) ∧
    ((w.extractLsb' 0 4).toNat = 15 → (w.extractLsb' 4 8).toNat ≠ 1 → (w.extractLsb' 4 8).toNat < 0x80 →
      decode (bytesOfWord w ++ rest) = .error .reservedOpcode)

/-- A STEP RUNS THE DECODED INSTRUCTION (R33, R182, R184). A fetch gives the 8 bytes of code at the address, or those that an earlier fetch
of the same 64 bytes brought. When the next turn is a warp's that may issue, with no held trap and no fault to answer, and the bytes at
its PC decode to `i`, then the step is `exec i` on that warp, after the ticks and clocks of the turn. The second word of a long form is
read when word 0 asks for it. -/
def Obligations.StepRunsFetched : Prop :=
  (∀ (t t' : Thread) (va : Dword) (w : Nat), t.fetchWord va = .ok (t', w) →
    ∃ u pa, t.codePlace va 8 = .ok (u, pa) ∧ (w = u.s.viewNat pa 8 ∨ mapFind t.w.fetched (va.toNat / 8) = some w)) ∧
  (∀ (t u : Thread) (va : Dword) (pa : Nat), t.codePlace va 8 = .ok (u, pa) → mapFind t.w.fetched (va.toNat / 8) = none →
    ∃ t', t.fetchWord va = .ok (t', u.s.viewNat pa 8) ∧ t'.s = u.s ∧ t'.g = t.g ∧
      t'.w = { t.w with fetched := u.s.fetchAhead va.toNat pa }) ∧
  (∀ (t t' : Thread) (w : Nat) (i : Instr), t.w.pc.toNat % 8 = 0 → t.fetchWord t.w.pc = .ok (t', w) →
    decode (leBytes 8 w) = .ok (i, []) → t.fetch = .instr t' i) ∧
  (∀ (t t' t'' : Thread) (w w1 : Nat) (i : Instr), t.w.pc.toNat % 8 = 0 → t.fetchWord t.w.pc = .ok (t', w) →
    decode (leBytes 8 w) = .error .tooShort → t'.fetchWord (t'.w.pc + 8) = .ok (t'', w1) →
    decode (leBytes 16 (w + 2 ^ 64 * w1)) = .ok (i, []) → t.fetch = .instr t'' i) ∧
  (∀ (s : State) (ticks clocks id : Nat) (r : List Turn) (w : Warp) (g : Workgroup) (t : Thread) (i : Instr),
    s.schedule = ⟨ticks, clocks, .warp id⟩ :: r →
    mapFind s.warps id = some w → mapFind s.wgs w.wg = some g →
    (s.onTurn r ticks clocks).mayIssue w g = true → w.held = [] → w.block = none →
    Thread.fetch ⟨s.onTurn r ticks clocks, id, w, g⟩ = .instr t i →
    step s = exec i { t.put with cur := some id })

/-- R184, R210 and R384: a warp whose PC is no multiple of 8 traps with cause 0x03 and the PC as address; one whose word the
decoder refuses traps with cause 0x01 and word 0 as address. That a misaligned PC traps at that very PC, with the PC as %trapaddr, is
the model's choice (log 52, DEDUCED). -/
def Sys2Proof.Part.FetchTraps : Prop :=
  ∀ (s : State) (ticks clocks id : Nat) (r : List Turn) (w : Warp) (g : Workgroup),
    s.schedule = ⟨ticks, clocks, .warp id⟩ :: r →
    mapFind s.warps id = some w → mapFind s.wgs w.wg = some g →
    (s.onTurn r ticks clocks).mayIssue w g = true → w.held = [] → w.block = none →
    let t : Thread := ⟨s.onTurn r ticks clocks, id, w, g⟩
    t.Traps →
    (w.pc.toNat % 8 ≠ 0 → step s = .next (t.trapped 3 w.pc 0)) ∧
    (∀ (t' : Thread) (x : Nat) (e : Reject), w.pc.toNat % 8 = 0 → t.fetchWord w.pc = .ok (t', x) → t'.Traps →
      decode (leBytes 8 x) = .error e → e ≠ .tooShort → step s = .next (t'.trapped 1 (BitVec.ofNat 64 x) 0))

/-- No step stops: from every state, reached or not, the next step answers a state. What the spec calls an error of a
program is a trap, a status or a stall; no instruction or event is refused. -/
def Obligations.EveryStepAnswers : Prop := ∀ s : State, s.Steps ∧ s.Safe

/-- What reset leaves (R2, R27, R57, R99, R105, R108, R115, R389, R408, R411, R415): memory and caches empty, no work, no die offline,
the management role on die 4, the Attic at 1/8, 1.8 GHz, and the registers. The model's choice: that the bytes of the external window
read as 0 too (log 6), and the reset values of the parts of a core and a die for which the spec gives none (log 5: DESIGN CHOICE). -/
def Obligations.ResetState : Prop :=
  let s := State.reset
  (∀ pa, s.byte pa = 0) ∧ (∀ c, s.core c = Core.reset) ∧ (∀ d, s.die d = Die.reset) ∧
  s.warps = [] ∧ s.wgs = [] ∧ s.launches = [] ∧ s.jobs = [] ∧ s.accs = [] ∧ s.net = [] ∧
  s.offline = [] ∧ s.mdl.lost = [] ∧ s.mdl.mgmt = 4 ∧ s.attic = .eighth ∧ s.mdl.power.mhz = 1800 ∧
  ∀ d < 9, s.reg d 0x10000 = 0 ∧ s.reg d 0x10200 = 0 ∧ s.reg d 0x10210 = 0 ∧ s.reg d 0x10300 = 0 ∧ s.reg d 0x10308 = 0 ∧
    s.reg d 0x80100 = 100000 ∧ s.reg d 0x40900 = 0x1FF00800400 ∧ s.reg d 0xA0030 = 500000 ∧
    s.reg d 0x90000 = 0 ∧ s.reg d 0xD0008 = 0 ∧
    (∀ c < 16, s.reg d (0x40000 + 8 * c) =
      (match c with
       | 0 => clsWord 0 2 32 0 64 | 1 => clsWord 0 2 48 0 32 | 2 => clsWord 1 2 64 16 16 | 3 => clsWord 2 3 256 32 64
       | 4 => clsWord 3 4 256 32 64 | 5 => clsWord 2 2 256 16 32 | 6 => clsWord 1 0 64 8 8 | 7 => clsWord 2 0 128 16 32
       | 8 => clsWord 1 1 64 8 8 | _ => clsWord 2 0 256 0 64)) ∧
    (∀ h < 512, s.reg d (0x10800 + 8 * (h / 16)) / 2 ^ (4 * (h % 16)) % 16 = h % 9)

/-- Memory keeps its canonical form (R7 gives its bytes; the form is the model's, so that equal memories are equal data): from every state whose memory
lists its bytes in rising order of address, none of them 0, a step leaves a memory that does too. -/
def Obligations.MemoryStaysCanonical : Prop :=
  ∀ s s' : State, Memory.wf s.mem = true → step s = .next s' → Memory.wf s'.mem = true

/-- The memory of the reset state has that form: every byte reads as 0. R411 says so of the part's memory; of the external window it is the
model's choice (log 6, DESIGN CHOICE). -/
def Obligations.ResetMemoryCanonical : Prop := Memory.wf State.reset.mem = true ∧ ∀ pa, State.reset.byte pa = 0

/-! Scalar instructions -/

namespace Sys2Proof.Machine

/-- Operand b of an S3 word at 32 and at 64 bits (R190, R212). -/
def s3B32 (w : Warp) (f : S3F) : Word := if f.isimm then f.imm else w.sreg (s3Sb f)
def s3B64 (w : Warp) (f : S3F) : Dword :=
  if f.isimm then (if f.ty = 2 then f.imm.signExtend 64 else f.imm.setWidth 64) else w.spair (s3Sb f)

/-- An S3 instruction under an integer type completes: sd, or the pair at sd, receives `res` of the width, of whether the type
is signed, of A, B and the old destination; nothing else changes but the PC. -/
def S3Gives (i : Instr) (f : S3F) (two : Bool) (res : (n : Nat) → Bool → BitVec n → BitVec n → BitVec n → BitVec n) : Prop :=
  ∀ s t, Ready s t i (s3Opds f two ++ s3Old i f) true → f.ty ≠ 4 →
    let wide := res 64 (decide (f.ty = 2)) (t.w.spair f.sa.toNat) (s3B64 t.w f) (t.w.spair f.sd.toNat)
    let narrow := res 32 (decide (f.ty = 0)) (t.w.sreg f.sa.toNat) (s3B32 t.w f) (t.w.sreg f.sd.toNat)
    let w : Warp := if f.ty = 2 ∨ f.ty = 3 then t.w.setSpair f.sd.toNat wide else t.w.setSreg f.sd.toNat narrow
    exec i s = .next (Thread.advance { t with w := w } 8)

/-- The high half of a product; SDIV and SREM of R215; the field of R216. -/
def resHigh (n : Nat) (g : Bool) (a b : BitVec n) : BitVec n :=
  if g then (a.signExtend (2 * n) * b.signExtend (2 * n)).extractLsb' n n
  else (a.setWidth (2 * n) * b.setWidth (2 * n)).extractLsb' n n
def resDiv (n : Nat) (g : Bool) (a b : BitVec n) : BitVec n :=
  if b = 0 then BitVec.allOnes n else if g then a.sdiv b else a / b
def resRem (n : Nat) (g : Bool) (a b : BitVec n) : BitVec n :=
  if b = 0 then a else if g then a.srem b else a % b
def resLen (n : Nat) (b : BitVec n) : Nat :=
  if n ≤ b.toNat % 256 then 0 else min (b.toNat / 256 % 256) (n - b.toNat % 256)
def resBfe (n : Nat) (g : Bool) (a b : BitVec n) : BitVec n :=
  let x : BitVec (resLen n b) := (a >>> (b.toNat % 256)).setWidth (resLen n b)
  if g then x.signExtend n else x.setWidth n
def resBfi (n : Nat) (a b d : BitVec n) : BitVec n :=
  let off := b.toNat % 256
  let m : BitVec n := ((1 <<< resLen n b) - 1) <<< off
  (d &&& ~~~m) ||| ((a <<< off) &&& m)
/-- A condition of R219 on integers. -/
def resCond (cc n : Nat) (g : Bool) (a b : BitVec n) : Bool :=
  match cc with
  | 0 => a == b
  | 1 => a != b
  | 2 => if g then a.slt b else a.ult b
  | 3 => if g then a.sle b else a.ule b
  | 4 => if g then b.slt a else b.ult a
  | _ => if g then b.sle a else b.ule a

end Sys2Proof.Machine

/-- R214 under the integer types: SMOV, SADD, SSUB, SMUL, SMULH, SMIN, SMAX, the logic operations, the shifts by B mod N, SPOPC,
SCLZ and SFFS. No flag changes. -/
def Obligations.ScalarArithmetic : Prop :=
  ∀ f : S3F,
    S3Gives (.smov f) f false (fun _ _ _ b _ => b) ∧
    S3Gives (.sadd f) f true (fun _ _ a b _ => a + b) ∧
    S3Gives (.ssub f) f true (fun _ _ a b _ => a - b) ∧
    S3Gives (.smul f) f true (fun _ _ a b _ => a * b) ∧
    S3Gives (.smulh f) f true (fun n g a b _ => resHigh n g a b) ∧
    S3Gives (.smin f) f true (fun n g a b _ => if resCond 2 n g b a then b else a) ∧
    S3Gives (.smax f) f true (fun n g a b _ => if resCond 2 n g a b then b else a) ∧
    S3Gives (.sand f) f true (fun _ _ a b _ => a &&& b) ∧
    S3Gives (.sor f) f true (fun _ _ a b _ => a ||| b) ∧
    S3Gives (.sxor f) f true (fun _ _ a b _ => a ^^^ b) ∧
    S3Gives (.sshl f) f true (fun n _ a b _ => a <<< (b.toNat % n)) ∧
    S3Gives (.sshr f) f true (fun n _ a b _ => a >>> (b.toNat % n)) ∧
    S3Gives (.ssar f) f true (fun n _ a b _ => a.sshiftRight (b.toNat % n)) ∧
    S3Gives (.srot f) f true (fun n _ a b _ => a.rotateLeft (b.toNat % n)) ∧
    S3Gives (.spopc f) f false (fun n _ _ b _ => BitVec.ofNat n ((List.range n).filter b.getLsbD).length) ∧
    S3Gives (.sclz f) f false
      (fun n _ _ b _ => BitVec.ofNat n ((List.range n).reverse.takeWhile (fun i => !b.getLsbD i)).length) ∧
    S3Gives (.sffs f) f false
      (fun n _ _ b _ => ((List.range n).find? b.getLsbD).elim (BitVec.allOnes n) (BitVec.ofNat n))

/-- R215 whole: SDIV rounds toward zero and SREM has the sign of the dividend; B = 0 gives all ones and A; the most negative
number by −1 gives itself and 0; none of these traps or sets a flag. -/
def Obligations.ScalarDivision : Prop :=
  ∀ f : S3F,
    S3Gives (.sdiv f) f true (fun n g a b _ => resDiv n g a b) ∧
    S3Gives (.srem f) f true (fun n g a b _ => resRem n g a b)

/-- R216 whole, with R218 and the integer rows of R219: SBFE and SBFI on the clamped field, SLEA, and SSET with every integer
condition. -/
def Obligations.ScalarFieldsAndConditions : Prop :=
  ∀ f : S3F,
    S3Gives (.sbfe f) f true (fun n g a b _ => resBfe n g a b) ∧
    S3Gives (.sbfi f) f true (fun n _ a b d => resBfi n a b d) ∧
    S3Gives (.slea f) f true (fun _ _ a b _ => a + b <<< (if f.isimm then 0 else (f.imm.extractLsb' 8 3).toNat)) ∧
    S3Gives (.ssetEq f) f true (fun n g a b _ => if resCond 0 n g a b then 1 else 0) ∧
    S3Gives (.ssetNe f) f true (fun n g a b _ => if resCond 1 n g a b then 1 else 0) ∧
    S3Gives (.ssetLt f) f true (fun n g a b _ => if resCond 2 n g a b then 1 else 0) ∧
    S3Gives (.ssetLe f) f true (fun n g a b _ => if resCond 3 n g a b then 1 else 0) ∧
    S3Gives (.ssetGt f) f true (fun n g a b _ => if resCond 4 n g a b then 1 else 0) ∧
    S3Gives (.ssetGe f) f true (fun n g a b _ => if resCond 5 n g a b then 1 else 0)

namespace Sys2Proof.Machine

/-- An S3 instruction under f32 (R217) with the value and the exceptions `fp` of A and B: without an enabled exception the flags
become sticky and sd is written; with one the flags become sticky and arithmetic (0x0C) is raised, sd as it was. -/
def S3FloatGives (i : Instr) (f : S3F) (two : Bool) (fp : RCtx → Nat → Nat → Nat × BitVec 5) : Prop :=
  ∀ s t, Ready s t i (s3Opds f two ++ s3Old i f) true → f.ty = 4 →
    let r := fp ((fpEnvNoSto t.w.mode).ctx false 0) (t.w.sreg f.sa.toNat).toNat (s3B32 t.w f).toNat
    let w := t.w.raise r.2
    (r.2 &&& modeEnables t.w.mode = 0 →
      exec i s = .next (Thread.advance { t with w := w.setSreg f.sd.toNat (BitVec.ofNat 32 r.1) } 8)) ∧
    (r.2 &&& modeEnables t.w.mode ≠ 0 → t.Traps →
      exec i s = .next (Thread.trapped { t with w := w } 0x0C 0 (r.2.setWidth 32)))

end Sys2Proof.Machine

/-- R217 and the f32 column of R219: SADD, SSUB, SMUL, SMIN, SMAX and SSET under f32, with the sticky flags of MODE and the
arithmetic trap; SMOV copies the bits and raises nothing. -/
def Obligations.ScalarFloat : Prop :=
  (∀ f : S3F, S3FloatGives (.smov f) f false (fun _ _ b => (b, 0)) ∧
    S3FloatGives (.sadd f) f true (fadd fmtF32) ∧ S3FloatGives (.ssub f) f true (fsub fmtF32) ∧
    S3FloatGives (.smul f) f true (fmul fmtF32) ∧
    S3FloatGives (.smin f) f true (fun c a b => fminmax fmtF32 false c.ftzi c.ftzo a b) ∧
    S3FloatGives (.smax f) f true (fun c a b => fminmax fmtF32 true c.ftzi c.ftzo a b)) ∧
  (∀ (f : S3F) (i : Instr) (cc : Nat),
    (i, cc) ∈ [(Instr.ssetEq f, 0), (.ssetNe f, 1), (.ssetLt f, 2), (.ssetLe f, 3), (.ssetGt f, 4), (.ssetGe f, 5), (.ssetUo f, 6),
      (.ssetOr f, 7)] →
    S3FloatGives i f true (fun c a b =>
      let r := fcompare fmtF32 c.ftzi cc a b
      (if r.1 then 1 else 0, r.2)))

/-- R220: the mask operations write groups from groups, or a count or an index; MLIVE and MEXEC write the warp's own masks. -/
def Sys2Proof.Part.MaskOperations : Prop :=
  ∀ (f : S3F) (s : State) (t : Thread),
    let a := t.w.group f.sa.toNat
    let b := t.w.group (s3Sb f)
    let group (i : Instr) (ops : List Opd) (m : LaneMask) : Prop :=
      Ready s t i ops true → exec i s = .next (Thread.advance { t with w := t.w.setGroup f.sd.toNat m } 8)
    let number (i : Instr) (ops : List Opd) (n : Nat) : Prop :=
      Ready s t i ops true → exec i s = .next (Thread.advance { t with w := t.w.setSreg f.sd.toNat (BitVec.ofNat 32 n) } 8)
    let three : List Opd := [.m f.sa.toNat, .m (s3Sb f), .dm f.sd.toNat]
    group (.mand f) three (a &&& b) ∧ group (.mor f) three (a ||| b) ∧ group (.mxor f) three (a ^^^ b) ∧
    group (.mandn f) three (a &&& ~~~b) ∧ group (.mnot f) [.m (s3Sb f), .dm f.sd.toNat] (~~~b) ∧
    number (.mcnt f) [.m (s3Sb f), .ds f.sd.toNat 1 1] ((List.range t.w.width).filter b.getLsbD).length ∧
    number (.mfirst f) [.m (s3Sb f), .ds f.sd.toNat 1 1] (((List.range t.w.width).find? b.getLsbD).getD 0xFFFFFFFF) ∧
    group (.mlive f) [.dm f.sd.toNat] t.w.live ∧ group (.mexec f) [.dm f.sd.toNat] t.w.exec

/-- R164 and R220: what a written group reads as. Bits below the warp's width are the mask's; from the width up they are 0; no other
scalar register changes. -/
def Sys2Proof.Part.MaskGroupReadsBack : Prop :=
  ∀ (w : Warp) (r : Nat) (m : LaneMask), w.width ∈ [8, 16, 32, 64, 128] →
    (w.setGroup r m).group r = m &&& laneAll w.width ∧
    (∀ q, q < r ∨ r + max 1 (w.width / 32) ≤ q → (w.setGroup r m).sreg q = w.sreg q) ∧
    (w.width < 32 → ((w.setGroup r m).sreg r).toNat < 2 ^ w.width)

/-- R221: MSETX outside handler mode. The group X becomes exec when it is not empty, names no lane that has left, and none that
is parked; else illegal operand (0x02) is raised and exec is unchanged. -/
def Obligations.SetExec : Prop :=
  ∀ (f : S3F) (s : State) (t : Thread), Ready s t (.msetx f) [.m (s3Sb f)] true →
    let x := t.w.group (s3Sb f)
    let parked := t.w.paths.foldl (fun m p => m ||| p.mask) 0
    let good := x ≠ 0 ∧ x &&& ~~~(t.w.live ||| t.w.helper) = 0 ∧ x &&& parked = 0
    (t.w.handler = false → good →
      exec (.msetx f) s = .next (Thread.advance { t with w := { t.w with exec := x } } 8)) ∧
    (t.w.handler = false → ¬ good → t.launch.image.trapvec ≠ 0 →
      exec (.msetx f) s = .next (t.trapped 2 (word0 (.msetx f)) 0))

namespace Sys2Proof.Machine

/-- Digit `k` of the index space (R151): of d for a D level, of w for a C level, of t for a T level; the highest-numbered level of a kind
varies fastest. -/
def levelValue (levels : List (Nat × Nat)) (g : Workgroup) (k : Nat) : Nat :=
  match levels[k]? with
  | none | some (0, _) => 0
  | some (kind, extent) =>
    let n := if kind = 1 then g.d else if kind = 2 then g.w else if kind = 3 then g.t else 0
    n / (((levels.drop (k + 1)).filter fun x => x.1 == kind).map fun x => x.2).prod % extent

end Sys2Proof.Machine

/-- R209 and R222: SGETR gives sd, or the pair at sd, the value of the special register that it names, for every one of the table: the
shape of the warp and its place, the digits of the index space that are fixed by R151 (a level that is not used reads 0), the tick with
the latch of its high word, the frame counter, MODE and the trap registers, the depth of the launch. A number that is not in the
table raises illegal operand. SSETR writes those that may be written: %cause keeps 8 bits, a write of %mode seeds every lane (R295); a
rounding mode of 0 or 7 raises illegal operand and leaves MODE. -/
def Obligations.SpecialRegisters : Prop :=
  (∀ t : Thread,
    let is (n : Nat) (v : Nat) : Prop := loWord (t.special n) = BitVec.ofNat 32 v
    is 0x00 0 ∧ is 0x01 t.w.width ∧ is 0x02 t.w.warpid ∧ is 0x03 t.w.splitIdx ∧ is 0x04 t.g.w ∧ is 0x05 t.g.rank ∧
    is 0x06 t.g.clmember ∧ is 0x07 t.g.core ∧ is 0x10 t.s.tick ∧ is 0x12 (storeGet 0 t.s.frames t.g.die).toNat ∧
    is 0x18 t.w.mode.toNat ∧ is 0x19 t.w.cause.toNat ∧ is 0x1C t.w.trapimm.toNat ∧ is 0x1D t.launch.depth ∧
    (t.w.tickLatch = none → is 0x11 (t.s.tick / 2 ^ 32)) ∧ (∀ h, t.w.tickLatch = some h → is 0x11 h.toNat) ∧
    t.special 0x1A = t.w.trappc ∧ t.special 0x1B = t.w.trapaddr ∧ t.special 0x1E = t.w.trapsrc ∧
    ∀ k < 6, is (8 + k) (levelValue t.launch.levels t.g k)) ∧
  (∀ n, (sregWords n).isSome = true ↔
    n ∈ [0, 1, 2, 3, 4, 5, 6, 7, 8, 9, 10, 11, 12, 13, 0x10, 0x11, 0x12, 0x18, 0x19, 0x1A, 0x1B, 0x1C, 0x1D, 0x1E]) ∧
  (∀ (f : S3F) (s : State) (t : Thread), Running s t → (Instr.sgetr f).wf = true → sregWords (s3Sb f) = none → t.Traps →
    exec (.sgetr f) s = .next (t.trapped 2 (word0 (.sgetr f)) 0)) ∧
  (∀ (f : S3F) (s : State) (t : Thread) (n k : Nat), n = s3Sb f → sregWords n = some k →
    Ready s t (.sgetr f) [.ds f.sd.toNat k k] true →
    let latch : Option Word := if n = 0x10 then some (BitVec.ofNat 32 (t.s.tick / 2 ^ 32)) else if n = 0x11 then none
      else t.w.tickLatch
    let w : Warp := { t.w with tickLatch := latch }
    let w' : Warp := if k = 2 then w.setSpair f.sd.toNat (t.special n) else w.setSreg f.sd.toNat (loWord (t.special n))
    exec (.sgetr f) s = .next (Thread.advance { t with w := w' } 8)) ∧
  (∀ (f : S3F) (s : State) (t : Thread),
    let v := t.w.sreg f.sa.toNat
    let p := t.w.spair f.sa.toNat
    let one (n : Nat) : Prop := s3Sb f = n ∧ Ready s t (.ssetr f) [.s f.sa.toNat 1 1] true
    let two (n : Nat) : Prop := s3Sb f = n ∧ Ready s t (.ssetr f) [.s f.sa.toNat 2 2] true
    let gives (w : Warp) : Prop := exec (.ssetr f) s = .next (Thread.advance { t with w := w } 8)
    (one 0x19 → gives { t.w with cause := v &&& 0xFF }) ∧
    (two 0x1A → gives { t.w with trappc := p }) ∧
    (two 0x1B → gives { t.w with trapaddr := p }) ∧
    (one 0x1C → gives { t.w with trapimm := v }) ∧
    (one 0x18 → modeRmLegal v = true →
      exec (.ssetr f) s = .next (Thread.advance (Thread.reseed { t with w := { t.w with mode := v } }) 8)) ∧
    (one 0x18 → modeRmLegal v = false → t.Traps → exec (.ssetr f) s = .next (t.trapped 2 (word0 (.ssetr f)) 0)))

/-- R223, with R295: SMODE. The bits of MODE that A selects take those of B, sd receives the old MODE; a selector with any of bits
[31:16] seeds every lane; a rounding mode of 0 or 7 raises illegal operand and nothing is written. -/
def Sys2Proof.Part.ModeSelectedBits : Prop :=
  ∀ (f : S3F) (s : State) (t : Thread), f.ty = 0 → Ready s t (.smode f) (s3Opds f true) true →
    let a := t.w.sreg f.sa.toNat
    let b := s3B32 t.w f
    let new := (t.w.mode &&& ~~~a) ||| (b &&& a)
    let changed : Thread := { t with w := { t.w with mode := new } }
    let seeded := if a.extractLsb' 16 16 = 0 then changed else changed.reseed
    (1 ≤ modeRM new ∧ modeRM new ≤ 6 →
      exec (.smode f) s = .next (Thread.advance { seeded with w := seeded.w.setSreg f.sd.toNat t.w.mode } 8)) ∧
    (modeRM new = 0 ∨ modeRM new = 7 → t.Traps → exec (.smode f) s = .next (t.trapped 2 (word0 (.smode f)) 0))

/-- R295: seeding sets every lane of the warp, active or not, to 0x6C07_0000 | ((SEED ⊕ lane) & 0xFFFF), and changes nothing else
of the thread. -/
def Sys2Proof.Part.SeedingReachesEveryLane : Prop :=
  ∀ (t : Thread) (l : Nat), t.w.width ≤ 128 →
    (l < t.w.width → t.reseed.lane l = 0x6C070000 ||| BitVec.ofNat 32 ((modeSeed t.w.mode ^^^ l) % 65536)) ∧
    t.reseed.w = t.w ∧ t.reseed.s = t.s ∧ t.reseed.g.vregs = t.g.vregs ∧ t.reseed.g.scratch = t.g.scratch

/-! Vector instructions -/

namespace Sys2Proof.Machine

/-- A V3 opcode that computes lane by lane: its opcode, its short form, what it computes in a lane, how many registers it reads from
va, whether operand b is a pair, how many registers it writes (R237, R238). -/
structure LaneRow where
  op : Nat
  short : V3F → Instr
  fn : LaneIn → LaneOut
  aN : Nat
  wide : Bool
  dN : Nat

/-- The opcodes with a result of one register from operands a and b, with the type `ctl` of CVT's control field and the
constant `k` of PACK8 and UNPK8. -/
def laneRows1 : List LaneRow :=
  [⟨0x01, .vmov, laneMov, 0, false, 1⟩, ⟨0x02, .vadd, laneAdd, 1, false, 1⟩, ⟨0x03, .vsub, laneSub, 1, false, 1⟩,
   ⟨0x04, .vmul, laneMul, 1, false, 1⟩, ⟨0x05, .vmulh, laneMulh, 1, false, 1⟩, ⟨0x06, .vmad, laneMad, 1, false, 1⟩,
   ⟨0x07, .vmin, laneMin, 1, false, 1⟩, ⟨0x08, .vmax, laneMax, 1, false, 1⟩, ⟨0x09, .vabs, laneAbs, 0, false, 1⟩,
   ⟨0x0A, .vneg, laneNeg, 0, false, 1⟩, ⟨0x0B, .vand, laneAnd, 1, false, 1⟩, ⟨0x0C, .vor, laneOr, 1, false, 1⟩,
   ⟨0x0D, .vxor, laneXor, 1, false, 1⟩, ⟨0x0E, .vnot, laneNot, 0, false, 1⟩, ⟨0x0F, .vshl, laneShl, 1, false, 1⟩,
   ⟨0x10, .vshr, laneShr, 1, false, 1⟩, ⟨0x11, .vsar, laneSar, 1, false, 1⟩, ⟨0x12, .vrot, laneRot, 1, false, 1⟩]
def laneRows2 : List LaneRow :=
  [⟨0x13, .vbfe, laneBfe, 1, false, 1⟩, ⟨0x14, .vbfi, laneBfi, 1, false, 1⟩, ⟨0x15, .vpopc, lanePopc, 0, false, 1⟩,
   ⟨0x16, .vclz, laneClz, 0, false, 1⟩, ⟨0x17, .vbrev, laneBrev, 0, false, 1⟩, ⟨0x18, .vadd64, laneAdd64, 2, true, 2⟩,
   ⟨0x19, .vsub64, laneSub64, 2, true, 2⟩, ⟨0x1A, .vmulw, laneMulw, 1, false, 2⟩, ⟨0x28, .vclass, laneClass, 0, false, 1⟩,
   ⟨0x48, .vdot4, laneDot4, 1, false, 1⟩, ⟨0x49, .vdot2, laneDot2, 1, false, 1⟩, ⟨0x43, .pack4, lanePack4, 8, false, 1⟩,
   ⟨0x44, .unpk4, laneUnpk4, 1, false, 8⟩]
def laneRows3 : List LaneRow :=
  [⟨0x30, .vrcp, laneTrans 0x30, 0, false, 1⟩, ⟨0x31, .vrsq, laneTrans 0x31, 0, false, 1⟩,
   ⟨0x32, .vsqrt, laneSqrt, 0, false, 1⟩, ⟨0x33, .vexp2, laneTrans 0x33, 0, false, 1⟩,
   ⟨0x34, .vlog2, laneTrans 0x34, 0, false, 1⟩, ⟨0x35, .vsin, laneTrans 0x35, 0, false, 1⟩,
   ⟨0x36, .vcos, laneTrans 0x36, 0, false, 1⟩, ⟨0x37, .vdiv, laneDiv, 1, false, 1⟩, ⟨0x38, .vtanh, laneTrans 0x38, 0, false, 1⟩]

/-- The short form of an opcode, or its long immediate form with a word (R188); its length. -/
def v3Form (op : Nat) (short : V3F → Instr) (f : V3F) (lit : Option Word) : Instr :=
  match lit with
  | none => short f
  | some w => .longImmediateForm (BitVec.ofNat 7 op) f w
def v3Len (lit : Option Word) : Nat := if lit.isSome then 16 else 8

/-- Operand b of either form (R186, R188), with the thread after a literal has been read. -/
def v3B (t : Thread) (f : V3F) (wide : Bool) (lit : Option Word) : Except Res (Thread × OpB) :=
  match lit with
  | none => t.operandB f.bsel f.vb f.ty.toNat wide
  | some w => .ok (t, .val (litOf wide w.toNat))

/-- The lanes on which an instruction acts (R164), in rising order. -/
def v3Lanes (t : Thread) (f : V3F) : List Nat := lanesOf t.w.width (t.w.active f.gen f.ginv f.gs.toNat)

/-- What follows from the results `os` of the lanes (R237, R241): without an enabled exception the flags become sticky and every lane's
registers and STO state are written; with one the flags become sticky, arithmetic (0x0C) is raised, and no lane is written. -/
def LanesGive (i : Instr) (s : State) (t : Thread) (vd len : Nat) (os : List (Nat × LaneOut)) : Prop :=
  let u : Thread := { t with w := t.w.raise (laneFlags os) }
  (laneFlags os &&& modeEnables t.w.mode = 0 → exec i s = .next ((u.putLanes vd os).advance len)) ∧
  (laneFlags os &&& modeEnables t.w.mode ≠ 0 → t.Traps → exec i s = .next (u.trapped 0x0C 0 ((laneFlags os).setWidth 32)))

/-- A row completes: every active lane computes from the registers as they stood. -/
def RowGives (r : LaneRow) : Prop :=
  ∀ (f : V3F) (lit : Option Word) (s : State) (t t' : Thread) (b : OpB),
    Ready s t (v3Form r.op r.short f lit)
      (guardOpd f.gen f.gs ++ ((if r.aN = 0 then [] else [.v f.va.toNat r.aN r.aN]) ++
        (if lit.isSome then [] else opdB f.bsel f.vb r.wide) ++ [v3Dest r.op f r.dN])) true →
    v3B t f r.wide lit = .ok (t', b) →
    LanesGive (v3Form r.op r.short f lit) s t' f.vd.toNat (v3Len lit)
      ((v3Lanes t' f).map fun l => (l, r.fn (t'.laneArgs f b r.aN r.wide (t'.vreg l f.vd.toNat) l)))

end Sys2Proof.Machine

/-- R186 and R188: operand b. bsel 0 is a vector register or pair, 1 a scalar register or pair for all lanes, 2 the signed 10-bit
immediate in the type's form, 3 a 32-bit word of code at PC + 4 × vb, sign-extended for 64 bits. -/
def Obligations.OperandB : Prop :=
  ∀ (t : Thread) (vb : BitVec 10) (ty : Nat) (wide : Bool),
    t.operandB 0 vb ty wide = .ok (t, .vec vb.toNat) ∧
    t.operandB 1 vb ty wide =
      .ok (t, .val (if wide then t.w.spair vb.toNat else (t.w.sreg vb.toNat).setWidth 64)) ∧
    t.operandB 2 vb ty true = .ok (t, .val (vb.signExtend 64)) ∧
    (ty ≤ 1 → t.operandB 2 vb ty false = .ok (t, .val ((vb.signExtend 32).setWidth 64))) ∧
    (5 ≤ ty → t.operandB 2 vb ty false = .ok (t, .val ((vb.signExtend 16 ++ vb.signExtend 16).setWidth 64))) ∧
    (2 ≤ ty → ty ≤ 4 → t.operandB 2 vb ty false = .ok (t, .val (immOf ty false vb))) ∧
    (∀ t' w, w < 2 ^ 32 → t.code (t.w.pc + BitVec.ofInt 64 (4 * vb.toInt)) 4 = .ok (t', w) →
      t.operandB 3 vb ty wide = .ok (t', .val (if wide then (BitVec.ofNat 32 w).signExtend 64 else BitVec.ofNat 64 w))) ∧
    (∀ r, t.code (t.w.pc + BitVec.ofInt 64 (4 * vb.toInt)) 4 = .error r → t.operandB 3 vb ty wide = .error r)

/-- R237 to R251: the per-lane opcodes complete in their short and long forms: the integer and bitwise operations, the minima and
maxima, VABS and VNEG, the bit fields and counts, the 64-bit operations, VCLASS, the dot products, PACK4 and UNPK4, the transcendental
opcodes, VSQRT and VDIV. -/
def Sys2Proof.Part.LaneOpcodes : Prop := ∀ r ∈ laneRows1 ++ laneRows2 ++ laneRows3, RowGives r

/-- R247 to R249: CVT with its control field in va, PACK8 and UNPK8 with a constant, complete lane by lane. -/
def Sys2Proof.Part.VectorConversions : Prop :=
  (∀ (f : V3F) (lit : Option Word) (s : State) (t t' : Thread) (b : OpB),
    Ready s t (v3Form 0x40 .cvt f lit)
      (guardOpd f.gen f.gs ++ ((if lit.isSome then [] else opdB f.bsel f.vb false) ++ [.dv f.vd.toNat 1 1])) true →
    v3B t f false lit = .ok (t', b) →
    LanesGive (v3Form 0x40 .cvt f lit) s t' f.vd.toNat (v3Len lit)
      ((v3Lanes t' f).map fun l => (l, laneCvt f.va.toNat (t'.laneArgs f b 0 false (t'.vreg l f.vd.toNat) l)))) ∧
  (∀ (f : V3F) (lit : Option Word) (s : State) (t : Thread),
    let k := (lit.getD (f.vb.signExtend 32)).toNat
    let code := k % 16
    let lim := code = 6 ∨ code = 7 ∨ (f.ty = 2 ∧ (code = 3 ∨ code = 4))
    (Ready s t (v3Form 0x41 .pack8 f lit)
        (guardOpd f.gen f.gs ++ [.v f.va.toNat 4 4, .dv f.vd.toNat 1 1]) (decide lim) →
      LanesGive (v3Form 0x41 .pack8 f lit) s t f.vd.toNat (v3Len lit)
        ((v3Lanes t f).map fun l => (l, lanePack8 code (t.laneArgs f (.val (BitVec.ofNat 64 k)) 4 false (t.vreg l f.vd.toNat) l)))) ∧
    (Ready s t (v3Form 0x42 .unpk8 f lit)
        (guardOpd f.gen f.gs ++ [.v f.va.toNat 1 1, .dv f.vd.toNat 4 4]) (decide lim) →
      LanesGive (v3Form 0x42 .unpk8 f lit) s t f.vd.toNat (v3Len lit)
        ((v3Lanes t f).map fun l => (l, laneUnpk8 code (t.laneArgs f (.val (BitVec.ofNat 64 k)) 1 false (t.vreg l f.vd.toNat) l)))))

/-- R188 and R252: VMAD4 completes with operand c from a vector register of the lane (csel 0) or from a scalar register (csel 1);
the old vd is not read. -/
def Sys2Proof.Part.VectorFourOperands : Prop :=
  ∀ (f : V3F) (csel : BitVec 2) (vc : BitVec 10) (s : State) (t t' : Thread) (b : OpB),
    Ready s t (.vmad4 f csel vc)
      (guardOpd f.gen f.gs ++ ([.v f.va.toNat 1 1] ++ opdB f.bsel f.vb false ++ [.dv f.vd.toNat 1 1]) ++
        (if csel = 0 then [.v vc.toNat 1 1] else [.s vc.toNat 1 1])) true →
    t.operandB f.bsel f.vb f.ty.toNat false = .ok (t', b) →
    LanesGive (.vmad4 f csel vc) s t' f.vd.toNat 16
      ((v3Lanes t' f).map fun l =>
        (l, laneMad (t'.laneArgs f b 1 false (if csel = 0 then t'.vreg l vc.toNat else t'.w.sreg vc.toNat) l)))

/-- R240, R244 and R253: VSEL acts on every lane of exec and takes A where the guard bit is set (or, with ginv, clear); VCMP writes
the group of the active lanes whose condition holds, 0 in all others, with the flags and the trap of an f32 comparison; VIDX writes the
index that its constant selects. -/
def Obligations.VectorSelectCompareIndex : Prop :=
  (∀ (f : V3F) (lit : Option Word) (s : State) (t t' : Thread) (b : OpB),
    Ready s t (v3Form 0x1B .vsel f lit)
      (guardOpd f.gen f.gs ++ ([.v f.va.toNat 1 1] ++ (if lit.isSome then [] else opdB f.bsel f.vb false) ++ [.dv f.vd.toNat 1 1])) true →
    v3B t f false lit = .ok (t', b) →
    let guard := t'.w.active true f.ginv f.gs.toNat
    let os := (lanesOf t'.w.width t'.w.exec).map fun l =>
      let x := t'.laneArgs f b 1 false 0 l
      (l, (⟨if guard.getLsbD l then x.a else [loWord x.b], 0, t'.lane l⟩ : LaneOut))
    exec (v3Form 0x1B .vsel f lit) s = .next ((t'.putLanes f.vd.toNat os).advance (v3Len lit))) ∧
  (∀ (f : V3F) (lit : Option Word) (cc : Nat) (short : V3F → Instr) (s : State) (t t' : Thread) (b : OpB),
    (cc, short) ∈ [(0, Instr.vcmpEq), (1, .vcmpNe), (2, .vcmpLt), (3, .vcmpLe), (4, .vcmpGt), (5, .vcmpGe), (6, .vcmpUo),
      (7, .vcmpOr)] →
    Ready s t (v3Form (0x20 + cc) short f lit)
      (guardOpd f.gen f.gs ++ ([.v f.va.toNat 1 1] ++ (if lit.isSome then [] else opdB f.bsel f.vb false) ++ [.dm f.vd.toNat])) true →
    v3B t f false lit = .ok (t', b) →
    let res (l : Nat) := laneCmp cc (t'.laneArgs f b 1 false 0 l)
    let fl := (v3Lanes t' f).foldl (fun fl l => fl ||| (res l).2) 0
    let u : Thread := { t' with w := t'.w.raise fl }
    (fl &&& modeEnables t'.w.mode = 0 → exec (v3Form (0x20 + cc) short f lit) s =
      .next (Thread.advance { u with w := u.w.setGroup f.vd.toNat (laneMaskOf ((v3Lanes t' f).filter fun l => (res l).1)) } (v3Len lit))) ∧
    (fl &&& modeEnables t'.w.mode ≠ 0 → t'.Traps →
      exec (v3Form (0x20 + cc) short f lit) s = .next (u.trapped 0x0C 0 (fl.setWidth 32)))) ∧
  (∀ (f : V3F) (lit : Option Word) (s : State) (t : Thread),
    let k := (lit.getD (f.vb.signExtend 32)).toNat
    Ready s t (v3Form 0x50 .vidx f lit) (guardOpd f.gen f.gs ++ [.dv f.vd.toNat 1 1]) (decide (k ≤ 5)) →
    let frag (l : Nat) := mapFind t.g.frags (t.w.famOff + l)
    let value (l : Nat) : Nat :=
      match k with
      | 0 => l
      | 1 => ((frag l).bind fun x => x.quad.map fun q => q - t.w.famOff + 256 * x.pos).getD 0x7F
      | 2 => ((frag l).map Frag.px).getD 0
      | 3 => ((frag l).map Frag.py).getD 0
      | 4 => ((frag l).map Frag.smp).getD 0
      | _ => t.w.famOff + l
    exec (v3Form 0x50 .vidx f lit) s = .next ((t.putLanes f.vd.toNat
      ((v3Lanes t f).map fun l => (l, (⟨[BitVec.ofNat 32 (value l)], 0, t.lane l⟩ : LaneOut)))).advance (v3Len lit)))

/-- R198 and R237, the frame of a vector result: after `putLanes` each lane of the list has its words from vd up and its STO state; every
other register of every lane, every other lane's STO state, the warp, the rest of the workgroup and the machine are as before. -/
def Obligations.VectorFrame : Prop :=
  ∀ (t : Thread) (vd n : Nat) (os : List (Nat × LaneOut)), (os.map Prod.fst).Nodup → vd + n ≤ 1024 →
    (∀ o ∈ os, o.2.ws.length = n) →
    let u := t.putLanes vd os
    (∀ o ∈ os, u.vregs o.1 vd n = o.2.ws ∧ u.lane o.1 = o.2.q) ∧
    (∀ l r, r < 1024 → (r < vd ∨ vd + n ≤ r ∨ l ∉ os.map Prod.fst) → u.vreg l r = t.vreg l r) ∧
    (∀ l, l ∉ os.map Prod.fst → u.lane l = t.lane l) ∧
    u.w = t.w ∧ u.s = t.s ∧ u.id = t.id ∧ u.g = { t.g with vregs := u.g.vregs, lfsr := u.g.lfsr }

/-! What a lane computes; cross-lane instructions -/

namespace Sys2Proof.Machine

/-- An element as a number of its type; an exact result in an element, wrapped or, under sat, clamped (R239). -/
def intOf {n : Nat} (g : Bool) (x : BitVec n) : Int := if g then x.toInt else x.toNat
def resNarrow (n : Nat) (g sat : Bool) (x : Int) : BitVec n :=
  let lo : Int := if g then -2 ^ (n - 1) else 0
  let hi : Int := if g then 2 ^ (n - 1) - 1 else 2 ^ n - 1
  BitVec.ofInt n (if sat then max lo (min hi x) else x)

/-- An integer operation in a lane: on the 32-bit element of types 0 and 1, on each half for types 5 and 6, signed for 0 and 5; no
exception, and the STO state stays (R237, R239). -/
def elemsInt (x : LaneIn) (op : (n : Nat) → Bool → BitVec n → BitVec n → BitVec n → BitVec n) : LaneOut :=
  let a := x.a.headD 0
  let b := loWord x.b
  let r : Word :=
    if x.ty ≤ 1 then op 32 (x.ty == 0) a b x.d
    else op 16 (x.ty == 5) (a.extractLsb' 16 16) (b.extractLsb' 16 16) (x.d.extractLsb' 16 16) ++
      op 16 (x.ty == 5) (a.extractLsb' 0 16) (b.extractLsb' 0 16) (x.d.extractLsb' 0 16)
  ⟨[r], 0, x.q⟩

/-- One 64-bit result as a pair of registers. -/
def pairOut (x : LaneIn) (r : Dword) : LaneOut := ⟨[r.extractLsb' 0 32, r.extractLsb' 32 32], 0, x.q⟩

/-- An XL instruction whose G code fits the width passes on to its effect: `t'` the thread after operand b has been read, `b` operand b
of each lane (R254). -/
def XlReady (i : Instr) (f : XlF) (a m small : Bool) (s : State) (t t' : Thread) (g : Nat) (b : Nat → Word) : Prop :=
  g = (if f.g = 7 then t.w.width else 2 ^ (f.g.toNat + 1)) ∧ g ≤ t.w.width ∧ (f.tos = true → g = t.w.width) ∧
  (small = true → f.tos = false → g ≤ 32) ∧
  Ready s t i (guardOpd f.gen f.gs ++ (if a then [.v f.va.toNat 1 1] else []) ++ opdB f.bsel f.vb false ++
    [if f.tos then (if m then .dm f.vd.toNat else .ds f.vd.toNat 1 1) else .dv f.vd.toNat 1 1]) true ∧
  ∃ o, t.operandB f.bsel f.vb f.ty.toNat false = .ok (t', o) ∧ ∀ l, b l = loWord (t'.laneB o false l)

/-- The active lanes. -/
def xlLanes (t : Thread) (f : XlF) : List Nat := lanesOf t.w.width (t.w.active f.gen f.ginv f.gs.toNat)
def xlOn (t : Thread) (f : XlF) (l : Nat) : Bool := (t.w.active f.gen f.ginv f.gs.toNat).getLsbD l

/-- What member `i` of a sub-group brings to a reduction or scan (R257): its operand b, or the identity when it is not active. -/
def xlMember (t : Thread) (f : XlF) (b : Nat → Word) (ident : Word) (base i : Nat) : Word :=
  if xlOn t f (base + i) then b (base + i) else ident

/-- The trees of R257 as they stand there: t[i] after `k` steps, with the exceptions. -/
def treeAt (op : Word → Word → Word × BitVec 5) (b : Nat → Word) : Nat → Nat → Word × BitVec 5
  | 0, i => (b i, 0)
  | k + 1, i =>
    let x := treeAt op b k i
    let y := treeAt op b k (i + 2 ^ k)
    let z := op x.1 y.1
    (z.1, x.2 ||| y.2 ||| z.2)
def scanAt (op : Word → Word → Word × BitVec 5) (b : Nat → Word) : Nat → Nat → Word
  | 0, i => b i
  | k + 1, i => if 2 ^ k ≤ i then (op (scanAt op b k (i - 2 ^ k)) (scanAt op b k i)).1 else scanAt op b k i
/-- The exceptions of step `k + 1` of a scan at member `i`. -/
def scanFlags (op : Word → Word → Word × BitVec 5) (b : Nat → Word) (k i : Nat) : BitVec 5 :=
  if 2 ^ k ≤ i then (op (scanAt op b k (i - 2 ^ k)) (scanAt op b k i)).2 else 0

end Sys2Proof.Machine

/-- R239, R216 and R242: what each integer and bitwise opcode computes in a lane, per element, wrapping or clamped under sat, with no
exception, so that none sets a flag or raises the arithmetic trap; VABS and VNEG of a floating-point type change sign bits alone and raise
nothing. -/
def Sys2Proof.Part.IntegerElements : Prop :=
  (∀ x : LaneIn, x.ty ∈ [0, 1, 5, 6] →
    laneAdd x = elemsInt x (fun n g a b _ => resNarrow n g x.e.sat (intOf g a + intOf g b)) ∧
    laneSub x = elemsInt x (fun n g a b _ => resNarrow n g x.e.sat (intOf g a - intOf g b)) ∧
    laneMul x = elemsInt x (fun n g a b _ => resNarrow n g x.e.sat (intOf g a * intOf g b)) ∧
    laneMad x = elemsInt x (fun n g a b d => resNarrow n g x.e.sat (intOf g a * intOf g b + intOf g d)) ∧
    laneAbs x = elemsInt x (fun n g _ b _ => resNarrow n g x.e.sat |intOf g b|) ∧
    laneNeg x = elemsInt x (fun n g _ b _ => resNarrow n g x.e.sat (-intOf g b)) ∧
    laneMulh x = elemsInt x (fun n g a b _ => resHigh n g a b) ∧
    laneMin x = elemsInt x (fun n g a b _ => if resCond 2 n g b a then b else a) ∧
    laneMax x = elemsInt x (fun n g a b _ => if resCond 2 n g a b then b else a) ∧
    laneShl x = elemsInt x (fun n _ a b _ => a <<< (b.toNat % n)) ∧
    laneShr x = elemsInt x (fun n _ a b _ => a >>> (b.toNat % n)) ∧
    laneSar x = elemsInt x (fun n _ a b _ => a.sshiftRight (b.toNat % n)) ∧
    laneRot x = elemsInt x (fun n _ a b _ => a.rotateLeft (b.toNat % n))) ∧
  (∀ x : LaneIn, x.ty ≤ 1 →
    laneBfe x = elemsInt x (fun n g a b _ => resBfe n g a b) ∧
    laneBfi x = elemsInt x (fun n _ a b d => resBfi n a b d) ∧
    lanePopc x = elemsInt x (fun n _ _ b _ => BitVec.ofNat n ((List.range n).filter b.getLsbD).length) ∧
    laneClz x = elemsInt x
      (fun n _ _ b _ => BitVec.ofNat n ((List.range n).reverse.takeWhile (fun i => !b.getLsbD i)).length) ∧
    laneBrev x = elemsInt x (fun _ _ _ b _ => b.reverse) ∧
    laneMulw x = pairOut x (BitVec.ofInt 64 (intOf (x.ty == 0) (x.a.headD 0) * intOf (x.ty == 0) (loWord x.b)))) ∧
  (∀ x : LaneIn,
    laneMov x = ⟨[loWord x.b], 0, x.q⟩ ∧
    laneAnd x = ⟨[x.a.headD 0 &&& loWord x.b], 0, x.q⟩ ∧
    laneOr x = ⟨[x.a.headD 0 ||| loWord x.b], 0, x.q⟩ ∧
    laneXor x = ⟨[x.a.headD 0 ^^^ loWord x.b], 0, x.q⟩ ∧
    laneNot x = ⟨[~~~loWord x.b], 0, x.q⟩ ∧
    laneAdd64 x = pairOut x ((x.a.getD 1 0 ++ x.a.headD 0) + x.b) ∧
    laneSub64 x = pairOut x ((x.a.getD 1 0 ++ x.a.headD 0) - x.b) ∧
    (x.ty = 2 → laneAbs x = ⟨[loWord x.b &&& 0x7FFFFFFF], 0, x.q⟩ ∧ laneNeg x = ⟨[loWord x.b ^^^ 0x80000000], 0, x.q⟩) ∧
    (x.ty = 3 ∨ x.ty = 4 →
      laneAbs x = ⟨[loWord x.b &&& 0x7FFF7FFF], 0, x.q⟩ ∧ laneNeg x = ⟨[loWord x.b ^^^ 0x80008000], 0, x.q⟩))

namespace Sys2Proof.Machine

/-- A finite value as a rational number. -/
def FVal.rat : FVal → ℚ
  | .fin n m e => (if n then -1 else 1) * (m : ℚ) * (2 : ℚ) ^ e
  | _ => 0
def FVal.isFin (v : FVal) : Bool := !v.isNaN && !v.isInf

/-- A magnitude rounded to an integer in a mode (R292, R295): `neg` its sign, `l` the STO comparand. -/
def roundQ (md : RMode) (l : Nat) (neg : Bool) (y : ℚ) : Nat :=
  let r := y - ⌊y⌋
  let up : Bool := match md with
    | .rne => decide (1 / 2 < r ∨ (r = 1 / 2 ∧ ⌊y⌋ % 2 = 1))
    | .rtz => false
    | .rdn => neg && decide (0 < r)
    | .rup => !neg && decide (0 < r)
    | .rna => decide (1 / 2 ≤ r)
    | .sto => decide ((l : ℤ) < ⌊r * 65536⌋)
  ⌊y⌋.toNat + if up then 1 else 0

/-- `o` is the code, with its exceptions, to which the number `x`, not zero, rounds in a format (R292, R293, R299, R300): the magnitude is
rounded to the format's precision, its exponent unbounded above and gradual below; beyond the largest finite value it overflows; FTZ-out
flushes what is below the smallest normal; it is tiny when, rounded with no bound below either, it is below the smallest normal. -/
def RoundsTo (f : FFmt) (c : RCtx) (x : ℚ) (o : Nat × BitVec 5) : Prop :=
  let neg := decide (x < 0)
  let low : ℚ := (2 : ℚ) ^ f.emin
  let spaced (q : ℤ) : ℚ := (roundQ c.md c.l neg (|x| / (2 : ℚ) ^ q) : ℚ) * (2 : ℚ) ^ q
  let own : ℤ := Int.log 2 |x| - f.mb
  let v := spaced (max own (f.emin - f.mb))
  if (fdecode f (fmax f false)).rat < v then
    o = (if !c.sat && (c.md == .rne || c.md == .rna || c.md == .sto || c.md == (if neg then .rdn else .rup)) then finf f neg
      else fmax f neg, flagOverflow ||| flagInexact)
  else if c.ftzo = true ∧ v < low then o = (fzero f neg, flagUnderflow ||| flagInexact)
  else
    let d := fdecode f o.1
    o.1 < 2 ^ (1 + f.eb + f.mb) ∧ d.isFin = true ∧ d.sign = neg ∧ |d.rat| = v ∧
    o.2 = if v = |x| then 0 else if spaced own < low then flagInexact ||| flagUnderflow else flagInexact

/-- The same for a number that may be zero, with the sign that the zero takes. -/
def Delivers (f : FFmt) (c : RCtx) (x : ℚ) (zneg : Bool) (o : Nat × BitVec 5) : Prop :=
  if x = 0 then o = (fzero f zneg, 0) else RoundsTo f c x o

/-- The sign of an exact zero sum of two terms with these signs (R294). -/
def zeroSign (c : RCtx) (a b : Bool) : Bool := (a && b) || (a != b && c.md == .rdn)

/-- The canonical NaN, with invalid when it comes of a signalling one or of an operation without a result (R285, R300); an infinity, or
under sat the largest finite value (R241). -/
def nanOut (f : FFmt) (invalid : Bool) : Nat × BitVec 5 := (fnan f, if invalid then flagInvalid else 0)
def infOut (f : FFmt) (c : RCtx) (neg : Bool) : Nat × BitVec 5 := if c.sat then (fmax f neg, flagInexact) else (finf f neg, 0)

/-- The operand that minimumNumber takes of two numbers (R241): −∞ first, +∞ last, −0 below +0. -/
def valLe (a b : FVal) : Prop :=
  a = .inf true ∨ b = .inf false ∨
    (a.isFin = true ∧ b.isFin = true ∧ (a.rat < b.rat ∨ (a.rat = b.rat ∧ (a.sign = true ∨ b.sign = false))))

/-- A floating-point operation in a lane (R237, R241, R243): on the element of type 2, on each half of types 3 and 4, the low one first,
each with the comparand of the lane's STO state, which `rounds` advances once for each while the mode is STO. -/
def elemsFp (x : LaneIn) (rounds : Bool) (op : FFmt → RCtx → Nat → Nat → Nat → Nat × BitVec 5) : LaneOut :=
  let f := if x.ty = 2 then fmtF32 else if x.ty = 3 then fmtF16 else fmtBf16
  let half := x.ty == 3
  let step (q : Word) : Word := if rounds && x.e.md == .sto then lfsrNext q else q
  let c (q : Word) : RCtx := x.e.ctx half (q.extractLsb' 0 16).toNat
  let a := x.a.headD 0
  let b := loWord x.b
  if x.ty = 2 then
    let r := op f (c x.q) a.toNat b.toNat x.d.toNat
    ⟨[BitVec.ofNat 32 r.1], r.2, step x.q⟩
  else
    let lo := op f (c x.q) (a.extractLsb' 0 16).toNat (b.extractLsb' 0 16).toNat (x.d.extractLsb' 0 16).toNat
    let hi := op f (c (step x.q)) (a.extractLsb' 16 16).toNat (b.extractLsb' 16 16).toNat (x.d.extractLsb' 16 16).toNat
    ⟨[BitVec.ofNat 16 hi.1 ++ BitVec.ofNat 16 lo.1], lo.2 ||| hi.2, step (step x.q)⟩

/-- What CVT reads as its source element and how a format code's element is flushed (R247, R299). -/
def cvtRaw (ctl : Nat) (b : Word) : Nat :=
  let pos := ctl / 256
  let src := ctl / 16 % 16
  if src ∈ [3, 4, 6, 7] then (b.toNat >>> (8 * pos)) % 256 else if src ∈ [1, 2] then (b.toNat >>> (16 * (pos % 2))) % 65536 else b.toNat

end Sys2Proof.Machine

/-- R241, R243, R246 and R285 to R300: what VADD, VSUB, VMUL, VMAD, VDIV, VMIN and VMAX compute in an element of f32, f16 or bf16. The exact
sum, product, quotient or A × B + D of the operands as FTZ-in reads them is rounded once; an exact zero has the sign of R294, a quiet NaN
alone raises nothing, ∞ − ∞, 0 × ∞, 0/0 and ∞/∞ are invalid, x/0 is a division by zero; a product 0 × ∞ beside a NaN addend is invalid (log
13: the model's reading). VMIN and VMAX deliver the operand that R241 chooses, a number beside a NaN, and round nothing. -/
def Sys2Proof.Part.FloatElements : Prop :=
  (∀ x : LaneIn, x.ty ∈ [2, 3, 4] →
    laneAdd x = elemsFp x true (fun f c a b _ => fadd f c a b) ∧
    laneSub x = elemsFp x true (fun f c a b _ => fadd f c a (b ^^^ 2 ^ (f.eb + f.mb))) ∧
    laneMul x = elemsFp x true (fun f c a b _ => fmul f c a b) ∧
    laneMad x = elemsFp x true ffma ∧
    laneDiv x = elemsFp x true (fun f c a b _ => fdiv f c a b) ∧
    laneMin x = elemsFp x false (fun f c a b _ => fminmax f false c.ftzi c.ftzo a b) ∧
    laneMax x = elemsFp x false (fun f c a b _ => fminmax f true c.ftzi c.ftzo a b)) ∧
  (∀ f ∈ [fmtF32, fmtF16, fmtBf16], ∀ (c : RCtx) (a b d : Nat),
    a < 2 ^ (1 + f.eb + f.mb) → b < 2 ^ (1 + f.eb + f.mb) → d < 2 ^ (1 + f.eb + f.mb) →
    let A := fread f c.ftzi a
    let B := fread f c.ftzi b
    let D := fread f c.ftzi d
    let sign := A.sign != B.sign
    let lost := (A.isInf && B.isZero) || (A.isZero && B.isInf)
    (A.isFin = true → B.isFin = true →
      Delivers f c (A.rat + B.rat) (zeroSign c A.sign B.sign) (fadd f c a b) ∧
      Delivers f c (A.rat * B.rat) sign (fmul f c a b) ∧
      (B.rat ≠ 0 → Delivers f c (A.rat / B.rat) sign (fdiv f c a b)) ∧
      (B.rat = 0 → fdiv f c a b = if A.rat = 0 then nanOut f true else ((infOut f c sign).1, (infOut f c sign).2 ||| flagDivZero)) ∧
      (D.isFin = true → Delivers f c (A.rat * B.rat + D.rat) (zeroSign c sign D.sign) (ffma f c a b d)) ∧
      (D.isInf = true → ffma f c a b d = infOut f c D.sign)) ∧
    (A.isNaN = true ∨ B.isNaN = true →
      fadd f c a b = nanOut f (A.isSNaN || B.isSNaN) ∧ fmul f c a b = nanOut f (A.isSNaN || B.isSNaN) ∧
      fdiv f c a b = nanOut f (A.isSNaN || B.isSNaN)) ∧
    (A.isNaN = true ∨ B.isNaN = true ∨ D.isNaN = true →
      ffma f c a b d = nanOut f (A.isSNaN || B.isSNaN || D.isSNaN || lost)) ∧
    (A.isInf = true → B.isNaN = false →
      fadd f c a b = (if B.isInf && sign then nanOut f true else infOut f c A.sign) ∧
      fmul f c a b = (if lost then nanOut f true else infOut f c sign) ∧
      fdiv f c a b = (if B.isInf then nanOut f true else infOut f c sign)) ∧
    (A.isFin = true → B.isInf = true →
      fadd f c a b = infOut f c B.sign ∧ fmul f c a b = (if lost then nanOut f true else infOut f c sign) ∧
      fdiv f c a b = (fzero f sign, 0)) ∧
    ((A.isInf || B.isInf) = true → A.isNaN = false → B.isNaN = false → D.isNaN = false →
      ffma f c a b d = if lost || (D.isInf && D.sign != sign) then nanOut f true else infOut f c sign)) ∧
  (∀ f ∈ [fmtF32, fmtF16, fmtBf16], ∀ (ftzi ftzo : Bool) (a b : Nat),
    a < 2 ^ (1 + f.eb + f.mb) → b < 2 ^ (1 + f.eb + f.mb) →
    let A := fread f ftzi a
    let B := fread f ftzi b
    let inv : BitVec 5 := if A.isSNaN || B.isSNaN then flagInvalid else 0
    let gives (x : Nat) : Nat × BitVec 5 :=
      let X := fread f ftzi x
      if X.isZero then (fzero f X.sign, inv)
      else if ftzo && X.isFin && decide (|X.rat| < (2 : ℚ) ^ f.emin) then (fzero f X.sign, inv ||| (flagUnderflow ||| flagInexact))
      else (x, inv)
    (A.isNaN = true → B.isNaN = true → ∀ want, fminmax f want ftzi ftzo a b = (fnan f, inv)) ∧
    (A.isNaN = true → B.isNaN = false → ∀ want, fminmax f want ftzi ftzo a b = gives b) ∧
    (A.isNaN = false → B.isNaN = true → ∀ want, fminmax f want ftzi ftzo a b = gives a) ∧
    (A.isNaN = false → B.isNaN = false →
      (valLe A B → fminmax f false ftzi ftzo a b = gives a ∧ fminmax f true ftzi ftzo a b = gives b) ∧
      (valLe B A → fminmax f false ftzi ftzo a b = gives b ∧ fminmax f true ftzi ftzo a b = gives a)))

/-- R245, R247, R248 and R299: what VCLASS and CVT compute. VCLASS gives the one bit of its operand's class. CVT takes the element that its
control field selects; an integer goes to an integer by clamping; a number goes to a floating-point format by one rounding, and to an
integer rounded with a spacing of 1 and clamped, invalid when it was; a NaN gives the format's NaN or 0. The lane's STO state advances
once while the mode is STO. -/
def Sys2Proof.Part.ElementConversions : Prop :=
  (∀ x : LaneIn,
    let b := loWord x.b
    let neg := b.getLsbD 31
    let e := b.extractLsb' 23 8
    let m := b.extractLsb' 0 23
    let bit : Nat :=
      if e = 0xFF then (if m = 0 then (if neg then 0 else 7) else if b.getLsbD 22 then 9 else 8)
      else if e = 0 then (if m = 0 then (if neg then 3 else 4) else if neg then 2 else 5)
      else if neg then 1 else 6
    laneClass x = ⟨[1 <<< bit], 0, x.q⟩) ∧
  (∀ (x : LaneIn) (ctl : Nat), x.ty ≤ 1 →
    let src := ctl / 16 % 16
    let dst := ctl % 16
    let flush (code : Nat) (b32 b16 : Bool) : Bool := if code = 0 ∨ code = 2 then b32 else decide (code = 1) && b16
    let r := convertElem (x.ty == 1) src dst (cvtRaw ctl (loWord x.b)) x.e.md (x.q.extractLsb' 0 16).toNat x.e.sat
      (flush src x.e.ftzi32 x.e.ftzi16) (flush dst x.e.ftzo32 x.e.ftzo16)
    laneCvt ctl x = ⟨[BitVec.ofNat 32 r.1], r.2, if x.e.md = .sto then lfsrNext x.q else x.q⟩) ∧
  (∀ (n32 : Bool) (src dst raw : Nat) (md : RMode) (l : Nat) (sat ftzi ftzo : Bool),
    let o := convertElem n32 src dst raw md l sat ftzi ftzo
    let range (code : Nat) : ℤ × ℤ :=
      if code = 6 then (-128, 127) else if code = 7 then (0, 255) else if n32 then (0, 2 ^ 32 - 1) else (-2 ^ 31, 2 ^ 31 - 1)
    let bits (code : Nat) : Nat := if code = 8 then 32 else 8
    let int : ℤ := if src = 6 then (BitVec.ofNat 8 raw).toInt else if src = 7 then (BitVec.ofNat 8 raw).toNat
      else if n32 then (BitVec.ofNat 32 raw).toNat else (BitVec.ofNat 32 raw).toInt
    let clamp (z : ℤ) : ℤ := max (range dst).1 (min (range dst).2 z)
    let code (z : ℤ) : Nat := (BitVec.ofInt (bits dst) z).toNat
    let c : RCtx := ⟨md, ftzi, ftzo, sat, l⟩
    (src ∈ [6, 7, 8] → dst ∈ [6, 7, 8] → o = (code (clamp int), 0)) ∧
    (∀ f, cvtFmt dst = some f → src ∈ [6, 7, 8] → Delivers f c int false o) ∧
    (∀ f g, cvtFmt src = some g → cvtFmt dst = some f →
      let X := fread g ftzi (raw % 2 ^ (1 + g.eb + g.mb))
      (X.isNaN = true → o = nanOut f X.isSNaN) ∧
      (X.isInf = true → o = if sat then (fmax f X.sign, flagInexact) else (finf f X.sign, if dst = 3 then flagInexact else 0)) ∧
      (X.isFin = true → Delivers f c X.rat X.sign o)) ∧
    (∀ g, cvtFmt src = some g → dst ∈ [6, 7, 8] →
      let X := fread g ftzi (raw % 2 ^ (1 + g.eb + g.mb))
      let n : ℤ := (if X.sign then -1 else 1) * (roundQ md l X.sign |X.rat| : ℤ)
      (X.isNaN = true → o = (0, flagInvalid)) ∧
      (X.isInf = true → o = (code (if X.sign then (range dst).1 else (range dst).2), flagInvalid)) ∧
      (X.isFin = true → o = (code (clamp n),
        if clamp n ≠ n then flagInvalid else if (n : ℚ) = X.rat then 0 else flagInexact))))

/-- R256: the shuffles and BCST. Each active lane receives operand a of the source member of its sub-group, or its own when the source
lies outside it; the source lane need not be active. -/
def Sys2Proof.Part.Shuffles : Prop :=
  ∀ (f : XlF) (i : Instr) (src : Nat → Nat → Int) (s : State) (t t' : Thread) (g : Nat) (b : Nat → Word),
    (i, src) ∈ [((Instr.shfl f, fun _ j => (j : Int)) : Instr × (Nat → Nat → Int)), (.shflx f, fun x j => (Nat.xor x j : Int)),
      (.shflup f, fun x j => (x : Int) - j), (.shfldn f, fun x j => (x : Int) + j), (.bcst f, fun _ j => (j : Int))] →
    XlReady i f true false false s t t' g b →
    let value (l : Nat) : Word :=
      let k := src (l % g) (b l).toNat
      t'.vreg (if k < 0 ∨ (g : Int) ≤ k then l else l - l % g + k.toNat) f.va.toNat
    exec i s = .next ((t'.putWords f.vd.toNat ((xlLanes t' f).map fun l => (l, value l))).advance 8)

/-- R257: reductions and scans in their fixed tree, for every type, with flags and trap as R241. With tos a reduction writes the scalar
register, even when no lane is active. The model's choice (log 83, DESIGN CHOICE): the exceptions of a scan are those of every step of its
tree, also at members that are not active and at the last value of SCANX, which no member receives. -/
def Sys2Proof.Part.FixedTrees : Prop :=
  (∀ (f : XlF) (i : Instr) (fn : LaneIn → LaneOut) (ident : Word) (s : State) (t t' : Thread) (g : Nat) (b : Nat → Word),
    (i, fn, ident) ∈ [(Instr.redadd f, laneAdd, idAdd f.ty.toNat), (.redmin f, laneMin, idMin f.ty.toNat),
      (.redmax f, laneMax, idMax f.ty.toNat), (.redand f, laneAnd, 0xFFFFFFFF), (.redor f, laneOr, 0), (.redxor f, laneXor, 0)] →
    XlReady i f false false false s t t' g b → t.w.width ∈ [8, 16, 32, 64, 128] →
    let sub (k : Nat) := treeAt (xlOp t' f fn) (xlMember t' f b ident (k * g)) g.log2 0
    let fl := (List.range (t'.w.width / g)).foldl (fun x k => x ||| (sub k).2) 0
    let u : Thread := { t' with w := t'.w.raise fl }
    (fl &&& modeEnables t'.w.mode = 0 →
      (f.tos = true → exec i s = .next (Thread.advance { u with w := u.w.setSreg f.vd.toNat (sub 0).1 } 8)) ∧
      (f.tos = false → exec i s =
        .next ((u.putWords f.vd.toNat ((xlLanes t' f).map fun l => (l, (sub (l / g)).1))).advance 8))) ∧
    (fl &&& modeEnables t'.w.mode ≠ 0 → t'.Traps → exec i s = .next (u.trapped 0x0C 0 (fl.setWidth 32)))) ∧
  (∀ (f : XlF) (i : Instr) (fn : LaneIn → LaneOut) (ident : Word) (excl : Bool) (s : State) (t t' : Thread) (g : Nat)
      (b : Nat → Word),
    (i, fn, ident, excl) ∈ [(Instr.scan f, laneAdd, idAdd f.ty.toNat, false), (.scanx f, laneAdd, idAdd f.ty.toNat, true),
      (.scanmax f, laneMax, idMax f.ty.toNat, false)] →
    XlReady i f false false false s t t' g b → t.w.width ∈ [8, 16, 32, 64, 128] →
    let at' (k n i : Nat) := scanAt (xlOp t' f fn) (xlMember t' f b ident (k * g)) n i
    let fl := (List.range (t'.w.width / g)).foldl (fun x k => (List.range g.log2).foldl (fun x n =>
      (List.range g).foldl (fun x i => x ||| scanFlags (xlOp t' f fn) (xlMember t' f b ident (k * g)) n i) x) x) 0
    let u : Thread := { t' with w := t'.w.raise fl }
    let value (l : Nat) : Word :=
      if excl then (if l % g = 0 then ident else at' (l / g) g.log2 (l % g - 1)) else at' (l / g) g.log2 (l % g)
    (fl &&& modeEnables t'.w.mode = 0 →
      exec i s = .next ((u.putWords f.vd.toNat ((xlLanes t' f).map fun l => (l, value l))).advance 8)) ∧
    (fl &&& modeEnables t'.w.mode ≠ 0 → t'.Traps → exec i s = .next (u.trapped 0x0C 0 (fl.setWidth 32))))

/-- R257 for the integer types: the tree of a reduction gives what a plain sum, minimum, maximum or logic operation over the members
gives, whatever their number; every operation there is without exceptions. -/
def Sys2Proof.Part.IntegerReductionIsFold : Prop :=
  ∀ (t : Thread) (f : XlF) (k : Nat) (b : Nat → Word), f.ty = 0 ∨ f.ty = 1 →
    let same (fn : LaneIn → LaneOut) (op : Word → Word → Word) : Prop :=
      treeAt (xlOp t f fn) b k 0 = (((List.range (2 ^ k)).drop 1).foldl (fun x i => op x (b i)) (b 0), 0)
    same laneAdd (· + ·) ∧ same laneAnd (· &&& ·) ∧ same laneOr (· ||| ·) ∧ same laneXor (· ^^^ ·) ∧
    same laneMin (fun x y => if resCond 2 32 (f.ty == 0) y x then y else x) ∧
    same laneMax (fun x y => if resCond 2 32 (f.ty == 0) x y then y else x)

/-- R258: VOTE and MATCH. Bit i of a lane's ballot is set when member i is active and its operand b is not 0 (for MATCH, equals the
lane's own); bits from G up are 0. With tos VOTE writes the group of the active lanes whose operand b is not 0. -/
def Sys2Proof.Part.VotesAndMatches : Prop :=
  ∀ (f : XlF) (s : State) (t t' : Thread) (g : Nat) (b : Nat → Word), t.w.width ∈ [8, 16, 32, 64, 128] →
    (XlReady (.vote f) f false true true s t t' g b → f.tos = false →
      ∃ ballot : Nat → Word,
        (∀ l i, i < 32 → (ballot l).getLsbD i =
          (decide (i < g) && xlOn t' f (l - l % g + i) && (b (l - l % g + i) != 0))) ∧
        exec (.vote f) s = .next ((t'.putWords f.vd.toNat ((xlLanes t' f).map fun l => (l, ballot l))).advance 8)) ∧
    (XlReady (.vote f) f false true true s t t' g b → f.tos = true →
      ∃ m : LaneMask, (∀ l, l < 128 → m.getLsbD l = (decide (l < t'.w.width) && xlOn t' f l && (b l != 0))) ∧
        exec (.vote f) s = .next (Thread.advance { t' with w := t'.w.setGroup f.vd.toNat m } 8)) ∧
    (XlReady (.matchLanes f) f false false true s t t' g b → f.tos = false →
      ∃ ballot : Nat → Word,
        (∀ l i, i < 32 → (ballot l).getLsbD i =
          (decide (i < g) && xlOn t' f (l - l % g + i) && (b (l - l % g + i) == b l))) ∧
        exec (.matchLanes f) s = .next ((t'.putWords f.vd.toNat ((xlLanes t' f).map fun l => (l, ballot l))).advance 8))

/-- R383: DDX and DDY. A lane of a quad receives the difference of operand b along its row or column, rounded to nearest even under
MODE's flushes; a lane without a quad receives +0.0. -/
def Obligations.Derivatives : Prop :=
  ∀ (f : XlF) (i : Instr) (vertical : Bool) (s : State) (t t' : Thread) (g : Nat) (b : Nat → Word),
    (i, vertical) ∈ [(Instr.ddx f, false), (.ddy f, true)] →
    XlReady i f false false false s t t' g b →
    let c : RCtx := ({ fpEnvNoSto t'.w.mode with md := .rne }).ctx false 0
    let res (l : Nat) : Nat × BitVec 5 :=
      match mapFind t'.g.frags (t'.w.famOff + l) with
      | none => (0, 0)
      | some fr =>
        match fr.quad with
        | none => (0, 0)
        | some q0 =>
          let q := q0 - t'.w.famOff
          if vertical then fsub fmtF32 c (b (q + fr.pos % 2 + 2)).toNat (b (q + fr.pos % 2)).toNat
          else fsub fmtF32 c (b (q + fr.pos / 2 * 2 + 1)).toNat (b (q + fr.pos / 2 * 2)).toNat
    let fl := (xlLanes t' f).foldl (fun x l => x ||| (res l).2) 0
    let u : Thread := { t' with w := t'.w.raise fl }
    (fl &&& modeEnables t'.w.mode = 0 → exec i s =
      .next ((u.putWords f.vd.toNat ((xlLanes t' f).map fun l => (l, BitVec.ofNat 32 (res l).1))).advance 8)) ∧
    (fl &&& modeEnables t'.w.mode ≠ 0 → t'.Traps → exec i s = .next (u.trapped 0x0C 0 (fl.setWidth 32)))

/-- R254: a sub-group wider than the warp raises width error (0x08); a scalar result of a smaller one, and a ballot of more than 32
lanes, illegal operand (0x02), whatever its registers hold (step 5 of R184). Nothing is written. -/
def Sys2Proof.Part.SubGroupLimits : Prop :=
  ∀ (f : XlF) (i : Instr) (a m small : Bool) (s : State) (t : Thread),
    (i, a, m, small) ∈ [(Instr.shfl f, true, false, false), (.shflx f, true, false, false), (.shflup f, true, false, false),
      (.shfldn f, true, false, false), (.bcst f, true, false, false), (.redadd f, false, false, false),
      (.redmin f, false, false, false), (.redmax f, false, false, false), (.redand f, false, false, false),
      (.redor f, false, false, false), (.redxor f, false, false, false), (.scan f, false, false, false),
      (.scanx f, false, false, false), (.scanmax f, false, false, false), (.vote f, false, true, true),
      (.matchLanes f, false, false, true)] →
    Running s t → i.wf = true → t.Traps →
    let ops := guardOpd f.gen f.gs ++ (if a then [.v f.va.toNat 1 1] else []) ++ opdB f.bsel f.vb false ++
      [if f.tos then (if m then .dm f.vd.toNat else .ds f.vd.toNat 1 1) else .dv f.vd.toNat 1 1]
    let g := if f.g = 7 then t.w.width else 2 ^ (f.g.toNat + 1)
    (f.tos = true → g < t.w.width → exec i s = .next (t.trapped 2 (word0 i) 0)) ∧
    (f.tos = false → small = true → 32 < g → exec i s = .next (t.trapped 2 (word0 i) 0)) ∧
    (Ready s t i ops true → f.tos = false → small = false → t.w.width < g → exec i s = .next (t.trapped 8 (word0 i) 0)) ∧
    (Ready s t i ops true → f.tos = false → g ≤ 32 → t.w.width < g → exec i s = .next (t.trapped 8 (word0 i) 0)) ∧
    (Ready s t i ops true → f.tos = true → t.w.width < g → exec i s = .next (t.trapped 8 (word0 i) 0))

/-! Control flow, traps, barriers and waits -/

namespace Sys2Proof.Machine

/-- The state in which the running path of `t` goes on at an address. -/
def Thread.goesTo (t : Thread) (target : Dword) : State := Thread.stand { t with w := { t.w with pc := target, stall := none } }

/-- A branch condition of R191 and the registers that it reads. -/
def braHolds (w : Warp) (f : SbF) : Bool :=
  let a := w.sreg f.sa.toNat
  let b := w.sreg f.sb.toNat
  let g := w.group f.sa.toNat
  match f.cond.toNat with
  | 0 => true
  | 1 => a == b
  | 2 => a != b
  | 3 => a.slt b
  | 4 => b.sle a
  | 5 => a.ult b
  | 6 => b.ule a
  | 7 => a == 0
  | 8 => a != 0
  | 9 => g &&& w.exec != 0
  | 10 => w.exec &&& ~~~g == 0
  | 11 => g &&& w.exec == 0
  | _ => false
def braOpds (f : SbF) : List Opd :=
  match f.cond.toNat with
  | 0 => []
  | 1 | 2 | 3 | 4 | 5 | 6 => [.s f.sa.toNat 1 1, .s f.sb.toNat 1 1]
  | 7 | 8 => [.s f.sa.toNat 1 1]
  | 9 | 10 | 11 => [.m f.sa.toNat]
  | _ => []

/-- A jump to an address: there when it is canonical, else access violation (0x04) with the address (R225). -/
def JumpGives (i : Instr) (s : State) (t u : Thread) (target : Dword) : Prop :=
  (t.canonical target = true → exec i s = .next (u.goesTo target)) ∧
  (t.canonical target = false → t.Traps → exec i s = .next (t.trapped 4 target 0))

/-- The entries that wait at a JOIN at an address, and their lanes. -/
def joinsAt (pc : Dword) (l : List Path) : List Path :=
  l.filter fun p => p.pc == pc && (match p.kind with | .join _ => true | _ => false)
def lanesAt (l : List Path) : LaneMask := l.foldl (fun m p => m ||| p.mask) 0

end Sys2Proof.Machine

/-- R225 to R230, R234: NOP, BRA under every condition of R191, SKIP, CALL, BRX with and without a link, RET. A misaligned indirect
target raises misaligned (0x03) before its canonical form is checked, and no link is written on a trap. -/
def Obligations.BranchesAndCalls : Prop :=
  ∀ (f : SbF) (s : State) (t : Thread),
    let near := t.w.pc + f.off.signExtend 64
    let linked (r : Nat) : Thread := { t with w := t.w.setSpair r (t.w.pc + 8) }
    (Ready s t (.nop f) [] true → exec (.nop f) s = .next (t.advance 8)) ∧
    (Ready s t (.bra f) (braOpds f) true →
      (braHolds t.w f = true → JumpGives (.bra f) s t t near) ∧
      (braHolds t.w f = false → exec (.bra f) s = .next (t.advance 8))) ∧
    (Ready s t (.skip f) [] true → JumpGives (.skip f) s t t near) ∧
    (Ready s t (.call f) [.ds f.sb.toNat 2 2] true → JumpGives (.call f) s t (linked f.sb.toNat) near) ∧
    (f.sb ≠ 0xFF → Ready s t (.brx f) [.s f.sa.toNat 2 2, .ds f.sb.toNat 2 2] true →
      let far := t.w.spair f.sa.toNat + f.off.signExtend 64
      (far.extractLsb' 0 3 = 0 → JumpGives (.brx f) s t (linked f.sb.toNat) far) ∧
      (far.extractLsb' 0 3 ≠ 0 → t.Traps → exec (.brx f) s = .next (t.trapped 3 far 0))) ∧
    (f.sb = 0xFF → Ready s t (.brx f) [.s f.sa.toNat 2 2] true →
      let far := t.w.spair f.sa.toNat + f.off.signExtend 64
      (far.extractLsb' 0 3 = 0 → JumpGives (.brx f) s t t far) ∧
      (far.extractLsb' 0 3 ≠ 0 → t.Traps → exec (.brx f) s = .next (t.trapped 3 far 0))) ∧
    (Ready s t (.ret f) [.s f.sa.toNat 2 2] true →
      let far := t.w.spair f.sa.toNat
      (far.extractLsb' 0 3 = 0 → JumpGives (.ret f) s t t far) ∧
      (far.extractLsb' 0 3 ≠ 0 → t.Traps → exec (.ret f) s = .next (t.trapped 3 far 0)))

/-- R166 and R228: BRD outside handler mode. No lane taken: on; all lanes taken: the target; else the taken lanes are parked READY
at the target and the others go on. Without room in the path table path overflow (0x0B) leaves all state unchanged. That a target that is
not canonical raises 0x04 also while the table is full is the model's choice (log 83, DESIGN CHOICE). -/
def Sys2Proof.Part.DivergentBranch : Prop :=
  ∀ (f : SbF) (s : State) (t : Thread), Ready s t (.brd f) [.m f.sa.toNat] true → t.w.handler = false →
    let c := t.w.group f.sa.toNat
    let target := t.w.pc + f.off.signExtend 64
    let p : Path := ⟨target, t.w.exec &&& c, .ready, 0, none, false⟩
    let split : Thread := { t with w := { t.w with exec := t.w.exec &&& ~~~c, paths := parkPath t.w.paths p } }
    (t.w.exec &&& c = 0 → exec (.brd f) s = .next (t.advance 8)) ∧
    (t.w.exec &&& c ≠ 0 → t.w.exec &&& ~~~c = 0 → JumpGives (.brd f) s t t target) ∧
    (t.w.exec &&& c ≠ 0 → t.w.exec &&& ~~~c ≠ 0 →
      (t.canonical target = false → t.launch.image.trapvec ≠ 0 → exec (.brd f) s = .next (t.trapped 4 target 0)) ∧
      (t.canonical target = true → canPark t.w.paths p = true → exec (.brd f) s = .next (split.advance 8)) ∧
      (t.canonical target = true → canPark t.w.paths p = false → t.launch.image.trapvec ≠ 0 →
        exec (.brd f) s = .next (t.trapped 0x0B 0 0)))

/-- R165, parking a path: it joins the first entry with its PC and state, or takes a free one of the 16; the table never exceeds 16
entries by it, and no lane of another entry is touched. -/
def Sys2Proof.Part.ParkedPaths : Prop :=
  ∀ (l : List Path) (p : Path),
    (canPark l p = true ↔ (∃ e ∈ l, e.takes p = true) ∨ l.length < 16) ∧
    (l.length ≤ 16 → canPark l p = true → (parkPath l p).length ≤ 16) ∧
    lanesAt (parkPath l p) = lanesAt l ||| p.mask ∧
    ((∀ e ∈ l, e.takes p = false) → parkPath l p = l ++ [p]) ∧
    (∀ a e b, l = a ++ e :: b → (∀ x ∈ a, x.takes p = false) → e.takes p = true →
      parkPath l p = a ++ { e with mask := e.mask ||| p.mask, kind := p.kind, wake := max e.wake p.wake, nap := e.nap || p.nap } :: b)

/-- R167 and R235: JOIN outside handler mode. When every required live lane is there, the entries of the JOIN are dropped and all
go on together; else the path parks there and another runs; without room, path overflow (0x0B) leaves all state unchanged. -/
def Sys2Proof.Part.JoinLanes : Prop :=
  ∀ (f : SbF) (s : State) (t : Thread), Ready s t (.joinInstr f) [.m f.sa.toNat] true → t.w.handler = false →
    let r := t.w.group f.sa.toNat
    let here := t.w.exec ||| lanesAt (joinsAt t.w.pc t.w.paths)
    let others := t.w.paths.filter fun p => !(p.pc == t.w.pc && (match p.kind with | .join _ => true | _ => false))
    let p : Path := ⟨t.w.pc, here, .join r, 0, none, false⟩
    let away : Thread := { t with w := ({ t.w with paths := parkPath t.w.paths p, stall := none } : Warp).switch t.s.clock }
    (r &&& t.w.live &&& ~~~here = 0 → exec (.joinInstr f) s =
      .next (Thread.advance { t with w := { t.w with paths := others, exec := here, slice := t.s.clock } } 8)) ∧
    (r &&& t.w.live &&& ~~~here ≠ 0 → canPark t.w.paths p = true →
      exec (.joinInstr f) s = .next ((away.stand.settle t.w.wg).divergence t.id t.w.pc here)) ∧
    (r &&& t.w.live &&& ~~~here ≠ 0 → canPark t.w.paths p = false → t.launch.image.trapvec ≠ 0 →
      exec (.joinInstr f) s = .next (t.trapped 0x0B 0 0))

/-- R168, the choice of the running path: the READY entry with the lowest PC that no unanswered fault holds and none of whose lanes has an
issued access waiting for an offline home (R54, R397); without one no path runs. That a READY path waits while lanes of an issued access of
its own wait for an offline home is the model's choice (logs 40 and 48, DEDUCED). -/
def Sys2Proof.Part.SwitchRunsLowest : Prop :=
  ∀ (w : Warp) (now : Nat),
    ((∀ p ∈ w.paths, p.runnable w.offMask = false) → w.switch now = { w with running := false, exec := 0 }) ∧
    (∀ a p b, w.paths = a ++ p :: b → p.runnable w.offMask = true →
      (∀ q ∈ a, q.runnable w.offMask = true → p.pc.toNat < q.pc.toNat) →
      (∀ q ∈ b, q.runnable w.offMask = true → p.pc.toNat ≤ q.pc.toNat) →
      w.switch now = { w with
        paths := a ++ b, running := true, pc := p.pc, exec := p.mask, wake := p.wake, nap := p.nap, slice := now
        block := p.park })

/-- R169, R170, R231 and R367: EXIT completes in every workgroup. No lane chosen: on. Else the chosen lanes leave live, exec, helper and
every entry; in a fragment wave the fragments of the live ones among them that were not accepted retire, and a helper stays only while a
lane of its quad is live; JOINs whose condition now holds become READY; the rest of exec goes on at PC + 8; with none of it left another
path runs; a warp with no lane ends. In handler mode (R385) the mode ends and the rest of the trap exec is discarded, also where no lane is
chosen (log 51, DEDUCED: the model's choice). Divergence that follows is taken at the EXIT itself. -/
def Obligations.ExitLanes : Prop :=
  ∀ (f : SbF) (s : State) (t : Thread), Ready s t (.exitLanes f) (if f.cond = 0 then [] else [.m f.sa.toNat]) true →
    let g := t.w.group f.sa.toNat
    let m := if f.cond = 0 then t.w.exec else if f.cond = 9 then t.w.exec &&& g else t.w.exec &&& ~~~g
    let live := t.w.live &&& ~~~m
    let quadLive (l : Nat) : Bool := ((mapFind t.g.frags (t.w.famOff + l)).bind Frag.quad).any fun q =>
      (List.range 4).any fun i => decide (t.w.famOff ≤ q + i) && live.getLsbD (q + i - t.w.famOff)
    let helper := if t.g.frags = [] then t.w.helper &&& ~~~m
      else laneMaskOf ((lanesOf t.w.width (t.w.helper &&& ~~~m)).filter quadLive)
    let out (e : Nat × Frag) : Bool := decide (t.w.famOff ≤ e.1) && decide (e.1 < t.w.famOff + t.w.width) &&
      (m &&& t.w.live).getLsbD (e.1 - t.w.famOff) && !e.2.accepted
    let h : Workgroup := { t.g with frags := t.g.frags.map fun e => if out e then (e.1, { e.2 with retired := true }) else e }
    let left := live ||| helper
    let gone (e : LaneMask) : Warp := { t.w with
      pc := t.w.pc + 8, stall := none, live := live, helper := helper, exec := e, handler := false
      paths := joinEval live (maskPaths left t.w.paths) }
    let ends (w : Warp) : Prop := exec (.exitLanes f) s =
      .next (((Thread.stand { t with w := w, g := h }).settle t.w.wg).divergence t.id t.w.pc 0)
    (t.w.handler = false → m = 0 → exec (.exitLanes f) s = .next (t.advance 8)) ∧
    (t.w.handler = false → m ≠ 0 → left &&& t.w.exec ≠ 0 → ends (gone (t.w.exec &&& left))) ∧
    (t.w.handler = false → m ≠ 0 → left = 0 → ends (gone 0).endAll) ∧
    (t.w.handler = false → m ≠ 0 → left ≠ 0 → left &&& t.w.exec = 0 → ends ((gone 0).switch t.s.clock)) ∧
    (t.w.handler = true → left = 0 → ends (gone 0).endAll) ∧
    (t.w.handler = true → left ≠ 0 → ends ((gone 0).switch t.s.clock))

/-- R232, R384, R385 and R388: TRAP and BRK raise 0x12 and 0x13 at their own PC with their immediate. In handler mode, or with no trap
vector, that kills the workgroup: its record and its launch keep the first cause, and every one of its warps ends. That they end in the
same step, and not each at its next boundary, is the model's choice (log 50, DESIGN CHOICE). -/
def Sys2Proof.Part.SoftwareTraps : Prop :=
  (∀ (f : SbF) (s : State) (t : Thread),
    let imm : Word := (f.sb ++ f.sa).setWidth 32
    (Ready s t (.trapInstr f) [] true →
      (t.Traps → exec (.trapInstr f) s = .next (t.trapped 0x12 0 imm)) ∧
      (¬ t.Traps → exec (.trapInstr f) s = .next (t.killed 0x12))) ∧
    (Ready s t (.brk f) [] true →
      (t.Traps → exec (.brk f) s = .next (t.trapped 0x13 0 imm)) ∧
      (¬ t.Traps → exec (.brk f) s = .next (t.killed 0x13)))) ∧
  (∀ (s : State) (wg cause : Nat) (g : Workgroup) (l : Launch), mapFind s.wgs wg = some g → mapFind s.launches g.launch = some l →
    let u := s.killWg wg cause
    mapFind u.wgs wg = some { g with killed := some (g.killed.getD cause) } ∧
    mapFind u.launches g.launch = some { l with kill := some (l.kill.getD (g.die, cause)) } ∧
    (∀ id w, mapFind s.warps id = some w → mapFind u.warps id = some (if w.wg = wg then w.endAll else w)) ∧
    (∀ k, k ≠ wg → mapFind u.wgs k = mapFind s.wgs k) ∧ u.mem = s.mem ∧ u.accs = s.accs ∧ u.jobs = s.jobs)

/-- R233 and R386: TRET resumes at %trappc, TRET.n at the instruction after it, by the FMT of the byte there, or at %trappc for a trap of
a boundary. exec is the trap exec less lanes that have left; with none left another path runs; a NAP that the trap interrupted just
before that PC waits out its clocks (R282), or runs again when a save has come in between (R180). Outside a handler it is illegal (0x01). -/
def Sys2Proof.Part.TrapReturns : Prop :=
  ∀ (f : SbF) (s : State) (t : Thread), Ready s t (.tret f) [] true →
    let back (u : Thread) (pc : Dword) : State :=
      let e := u.w.trapExec &&& (u.w.live ||| u.w.helper)
      let here := u.w.trapNap == some pc
      let w : Warp := { u.w with
        handler := false, exec := e, pc := if here && u.w.trapWake == 0 then pc - 8 else pc, wake := u.w.trapWake, nap := here
        trapWake := 0, trapNap := none, slice := u.s.clock }
      Thread.stand { u with w := if e = 0 then w.switch u.s.clock else w }
    (t.w.handler = false → t.launch.image.trapvec ≠ 0 → exec (.tret f) s = .next (t.trapped 1 (word0 (.tret f)) 0)) ∧
    (t.w.handler = true → (t.w.boundary = true ∨ f.sa.getLsbD 0 = false) → exec (.tret f) s = .next (back t t.w.trappc)) ∧
    (∀ u b, t.w.handler = true → t.w.boundary = false → f.sa.getLsbD 0 = true → t.code t.w.trappc 1 = .ok (u, b) →
      (b % 16 = 15 → exec (.tret f) s = .next (back u (u.w.trappc + 16))) ∧
      (b % 16 ≠ 15 → exec (.tret f) s = .next (back u (u.w.trappc + 8))))

/-- R171, R275 and R355: BAR, BARC, BARD and NEXT park the running path at the barrier, and what follows a change of the warps
decides whether it completes; BARD needs the co-resident-die flag (R157); without room in the path table path overflow leaves all state
unchanged. In handler mode all are illegal (R385), which kills the workgroup, in the same step by the model's choice (log 50). -/
def Sys2Proof.Part.BarriersArrive : Prop :=
  (∀ (i : Instr) (k : BarKind) (ops : List Opd) (s : State) (t : Thread),
    ((∃ f, (i, k) = (Instr.bar f, BarKind.bar) ∧ ops = []) ∨ (∃ f, (i, k) = (.barc f, .barc) ∧ ops = []) ∨
      (∃ f, (i, k) = (.bard f, .bard) ∧ ops = [] ∧ t.launch.coop = true) ∨
      (∃ f : WqF, (i, k) = (.nextIter f, .next f.sD.toNat) ∧ ops = [.ds f.sD.toNat 1 1])) →
    Ready s t i ops true →
    let p : Path := ⟨t.w.pc, t.w.exec, .bar k, 0, none, false⟩
    let away : Thread := { t with w := ({ t.w with paths := parkPath t.w.paths p, stall := none } : Warp).switch t.s.clock }
    (t.w.handler = false → canPark t.w.paths p = true →
      exec i s = .next ((away.stand.settle t.w.wg).divergence t.id t.w.pc t.w.exec)) ∧
    (t.w.handler = false → canPark t.w.paths p = false → t.launch.image.trapvec ≠ 0 →
      exec i s = .next (t.trapped 0x0B 0 0)) ∧
    (t.w.handler = true → exec i s = .next (t.killed 1))) ∧
  (∀ (f : SyF) (s : State) (t : Thread), Ready s t (.bard f) [] true → t.launch.coop = false → t.Traps →
    exec (.bard f) s = .next (t.trapped 1 (word0 (.bard f)) 0))

/-- R171: a barrier that completes. The one entry of a warp that waits there becomes its running path at P + 8 when it has none, else
a READY entry there; in a barrier of the workgroup no other warp changes. That it becomes READY, and does not run, while an access of its
lanes waits for an offline home is the model's choice (log 40, DEDUCED; R54, R397). -/
def Sys2Proof.Part.BarriersRelease : Prop :=
  (∀ (w : Warp) (k : BarKind) (now : Nat) (pc : Dword) (m : LaneMask) (wk : Nat) (n : Bool),
    w.paths = [⟨pc, m, .bar k, wk, none, n⟩] → w.handler = false →
    (w.running = false → m &&& w.offMask = 0 → w.release k now =
      { w with paths := [], running := true, pc := pc + 8, exec := m, wake := 0, nap := n, slice := now
               block := none }) ∧
    (w.running = false → m &&& w.offMask ≠ 0 → w.release k now =
      { w with paths := [⟨pc + 8, m, .ready, 0, none, n⟩], running := false, exec := 0 }) ∧
    (w.running = true → w.release k now = { w with paths := [⟨pc + 8, m, .ready, 0, none, n⟩] })) ∧
  (∀ (s : State) (wg : Nat), s.releaseBarrier [wg] .bar =
    { s with warps := s.warps.map fun e => if e.2.wg = wg then (e.1, e.2.release .bar s.clock) else e })

/-- R136, R168, R276 to R278, R281, R282: the instructions that wait. WAITC goes on when its counters are at most m; WAITB when the parity
differs; ARRB counts the object down once the workgroup's stores, and what its warp accessed there before, are performed (R128); FENCE goes on when what it orders is performed; NAP and
YIELD give the lowest other READY path its turn. A condition that is false leaves the path waiting at the instruction.
The objects' bytes hold no error (R101). -/
def Sys2Proof.Part.WaitingInstructions : Prop :=
  ∀ (f : SyF) (s : State) (t : Thread),
    let waits : State := Thread.put { t with w := t.w.waitHere t.s.clock }
    (Ready s t (.waitc f) [] true →
      let m := f.imm.toNat % 256
      let counters : List Ctr := if f.kind = 8 then [.lg, .sg, .lx, .at, .gx, .en, .wq, .sl]
        else [([.lg, .sg, .lx, .at, .gx, .en, .wq, .sl] : List Ctr).getD f.kind.toNat .sl]
      ((∀ c ∈ counters, ctrVal t.w.pend c ≤ m) → exec (.waitc f) s = .next (t.advance 8)) ∧
      ((∃ c ∈ counters, m < ctrVal t.w.pend c) → exec (.waitc f) s = .next waits)) ∧
    (∀ p, Ready s t (.waitb f) (.s f.sa.toNat 1 1 :: valueOpd f) true → t.barObject f = .ok p →
      t.accPending p 16 = false → t.s.bad = [] →
      ∀ x, ({ t.s with wgs := mapPut t.s.wgs t.w.wg t.g } : State).scratchNat p 8 = some x →
        (bitOf x 32 ≠ (t.valueOf f).getLsbD 0 → exec (.waitb f) s = .next (t.advance 8)) ∧
        (bitOf x 32 = (t.valueOf f).getLsbD 0 → exec (.waitb f) s = .next waits)) ∧
    (∀ o, Ready s t (.arrb f) (.s f.sa.toNat 1 1 :: valueOpd f) true → t.barObject f = .ok (.scratch t.w.wg o) →
      t.storeWaits 2 = [] → t.w.stall = none → t.accPending (.scratch t.w.wg o) 16 = false → t.s.bad = [] →
      exec (.arrb f) s = .next (Thread.advance { t with g := t.g.arrive o (t.valueOf f).toNat } 8)) ∧
    (Ready s t (.fence f) [] true →
      let need := (if f.kind = 1 then [] else t.loadWaits) ++ (if f.kind = 0 then [] else t.storeWaits f.scope.toNat)
      t.w.stall = none →
      (need = [] → exec (.fence f) s = .next (t.advance 8)) ∧
      (need ≠ [] → exec (.fence f) s = .next (Thread.put { t with w := { t.w with stall := some ⟨t.w.pc, need, 0, []⟩ } }))) ∧
    (Ready s t (.nap f) [] true → exec (.nap f) s =
      .next (Thread.stand { t with w := t.w.yieldTo (t.w.pc + 8) (t.s.clock + f.imm.toNat) true t.s.clock })) ∧
    (Ready s t (.yield f) [] true → exec (.yield f) s =
      .next (Thread.stand { t with
        s := { t.s with nextUid := t.s.nextUid + 1 }
        w := { t.w.yieldTo (t.w.pc + 8) 0 false t.s.clock with age := t.s.nextUid } }))

/-- R277: an arrival on a barrier object. A count of 0 stays; a count above k falls by k; a count that k reaches flips bit 0 of the
phase word and leaves count 0. -/
def Sys2Proof.Part.BarrierObjects : Prop :=
  ∀ (count phase : Word) (k : Nat),
    let x := count.toNat + 2 ^ 32 * phase.toNat
    (count = 0 → arriveNat x k = x) ∧
    (count ≠ 0 → k < count.toNat → arriveNat x k = count.toNat - k + 2 ^ 32 * phase.toNat) ∧
    (count ≠ 0 → count.toNat ≤ k → arriveNat x k = 2 ^ 32 * (phase ^^^ 1).toNat)

/-! Memory -/

namespace Sys2Proof.Machine

/-- What issuing an access `a` gives (R74 to R77, R125, R126), `t` being the thread after its addresses are translated. With no
room in its counter, the store buffer or the miss table it is tried again. With parts it is in the machine under a fresh number, tagged
against the region slots, and its counter is up by one; a store at warp scope is complete in the store buffer, and an access of no lane
is complete, so the counter falls again at once. `back` is the thread as it stands when it is to try again. -/
def AccessGivesOr (back : State) (i : Instr) (s : State) (t : Thread) (ctr : Option Ctr) (a : Access) (len : Nat) : Prop :=
  let uid := t.s.nextUid
  let full := (match ctr with | some c => decide (255 ≤ ctrVal t.w.pend c) | none => false) || !t.s.accRoom a
  let early := a.parts.isEmpty || ((match a.kind with | .store | .nibble => true | _ => false) && decide (a.scope = 1))
  let pend : List Pend :=
    match ctr with
    | none => t.w.pend
    | some c => if early then pendFront [] (t.w.pend ++ [⟨c, uid, true⟩]) else t.w.pend ++ [⟨c, uid, false⟩]
  let u : Thread := { t with s := { t.s with nextUid := uid + 1 }, w := { t.w with pend := pend } }
  let v : Thread := { u with s := { u.s with accs := mapPut u.s.accs uid (a.tagged (u.s.core u.core)) } }
  (full = true → exec i s = .next back) ∧
  (full = false → a.parts = [] → exec i s = .next (u.advance len)) ∧
  (full = false → a.parts ≠ [] → exec i s = .next (v.advance len))

/-- The same when nothing else is written: the thread tries again as it is. -/
def AccessGives (i : Instr) (s : State) (t : Thread) (ctr : Option Ctr) (a : Access) (len : Nat) : Prop :=
  AccessGivesOr t.put i s t ctr a len

/-- A vector memory instruction: its register operands beside those of its address, its access, the lanes on which it acts and what a
lane stores (R262, R367: helper lanes never write memory). -/
structure VmRow where
  i : Instr
  ops : List Opd
  o : VmOp
  m : LaneMask
  data : Nat → List Byte × Bool

def vmAll (t : Thread) (f : VmF) : LaneMask := t.w.active f.gen f.ginv f.gs.toNat
def vmLive (t : Thread) (f : VmF) : LaneMask := vmAll t f &&& t.w.live

/-- Loads and stores (R264 to R267), CLEAN and DROP (R270). -/
def vmRows (t : Thread) (f : VmF) : List VmRow :=
  let reg := f.vdata.toNat
  let regs (n : Nat) : List Opd := [.v reg n n]
  let n := vmRegs f.size.toNat
  let b := vmBytes f.size.toNat
  let k := 2 ^ f.cnt.toNat
  let ctr (c : Ctr) : Option Ctr := some (if f.space = 0 then c else .lx)
  [⟨.ld f, [.dv reg n n], ⟨.load, 0, b, b, b, false, .vec reg n, ctr .lg⟩, vmAll t f, fun _ => ([], false)⟩,
   ⟨.st f, regs n, ⟨.store, 1, b, b, b, false, .none, ctr .sg⟩, vmLive t f, fun l => (regBytes (t.vregs l reg n) b, false)⟩,
   ⟨.stn4 f, regs 1, ⟨.nibble, 1, 1, 1, 1, false, .none, ctr .sg⟩, vmLive t f,
     fun l => ([((t.vreg l reg).extractLsb' 0 4).setWidth 8], (t.vreg l reg).getLsbD 4)⟩,
   ⟨.ldw f, [.dv reg k k], ⟨.load, 0, 4 * k, min 32 (4 * k), 4 * k, false, .vec reg k, ctr .lg⟩, vmAll t f, fun _ => ([], false)⟩,
   ⟨.stw f, regs k, ⟨.store, 1, 4 * k, min 32 (4 * k), 4 * k, true, .none, ctr .sg⟩, vmLive t f,
     fun l => (regBytes (t.vregs l reg k) (4 * k), false)⟩,
   ⟨.clean f, [], ⟨.clean, 0, 1, 1, 1, false, .none, some .sg⟩, vmAll t f, fun _ => ([], false)⟩,
   ⟨.drop f, [], ⟨.drop, 2, 1, 1, 1, false, .none, some .sg⟩, vmAll t f, fun _ => ([], false)⟩]

/-- The vector atomics (R268) with their op numbers. -/
def atomInstrs (f : VmF) : List (Instr × Nat) :=
  [(.atomAdd f, 0), (.atomFadd f, 1), (.atomMin f, 2), (.atomMax f, 3), (.atomAnd f, 4), (.atomOr f, 5), (.atomXor f, 6),
   (.atomExch f, 7), (.atomCas f, 8), (.atomInc f, 9), (.atomDec f, 10), (.atomFaddbf f, 11)]
def atomRows (t : Thread) (f : VmF) : List VmRow :=
  (atomInstrs f).map fun e =>
    let n := (if e.2 = 8 then 2 else 1) * vmRegs f.size.toNat
    let b := vmBytes f.size.toNat
    ⟨e.1, [.v f.vdata.toNat n n], ⟨.atomic e.2, 2, b, b, b, false, .vec f.vdata.toNat (vmRegs f.size.toNat), some .at⟩,
      vmLive t f, fun l => (regBytes (t.vregs l f.vdata.toNat n) ((if e.2 = 8 then 2 else 1) * b), false)⟩

/-- The lanes of a row with their addresses (R30, R31): in global space the pair and the lane's offset modulo 2^64, else the even
register and the offset modulo 2^32. -/
def vmAddresses (t : Thread) (f : VmF) (m : LaneMask) : List (Nat × Dword) :=
  (lanesOf t.w.width m).map fun l =>
    (l, if f.space = 0 then t.w.spair f.sbase.toNat + (t.vreg l f.voff.toNat).setWidth 64
      else (t.w.sreg f.sbase.toNat + t.vreg l f.voff.toNat).setWidth 64)
def vmOperands (f : VmF) (r : VmRow) : List Opd :=
  r.ops ++ ([.s f.sbase.toNat (if f.space = 0 then 2 else 1) 2, .v f.voff.toNat 1 1] ++ guardOpd f.gen f.gs)

/-- Steps 1 and 2 of R35 for one address: the cause of its first failing check. -/
def checkOf (t : Thread) (space size align : Nat) (ea : Dword) : Option Nat :=
  if ea.toNat % align ≠ 0 then some 3
  else if space = 0 then (if t.ctx.canonical ea then none else some 4)
  else if space = 2 ∧ t.launch.image.cluster ≤ ea.toNat / 2 ^ 24 then some 7
  else if t.g.alloc < (if space = 2 then ea.toNat % 2 ^ 24 else ea.toNat) + size then some 6
  else none

end Sys2Proof.Machine

/-- R35, steps 1 and 2, for every vector memory instruction: when a lane fails, one trap is raised, that of the first failing check of
the lowest-numbered failing lane, with that lane's address, and nothing is accessed. -/
def Sys2Proof.Part.FirstFailingLane : Prop :=
  ∀ (f : VmF) (s : State) (t : Thread), ∀ r ∈ vmRows t f ++ atomRows t f,
    Ready s t r.i (vmOperands f r) (decide (f.space ≠ 3)) → t.Traps →
    ∀ before l ea after c, vmAddresses t f r.m = before ++ (l, ea) :: after →
      (∀ e ∈ before, checkOf t f.space.toNat r.o.extent r.o.align e.2 = none) →
      checkOf t f.space.toNat r.o.extent r.o.align ea = some c →
      exec r.i s = .next (t.trapped (BitVec.ofNat 32 c) ea 0)

/-- R262 to R270: LD, ST, STN4, LDW, STW, the atomics, CLEAN and DROP issue once every lane's address is checked and translated: an access
with the parts of its lanes enters the machine and the counter of its path rises. -/
def Sys2Proof.Part.VectorMemoryIssues : Prop :=
  ∀ (f : VmF) (s : State) (t t' : Thread) (ps : List (Place × Bool)), ∀ r ∈ vmRows t f ++ atomRows t f,
    Ready s t r.i (vmOperands f r) (decide (f.space ≠ 3)) →
    let ls := vmAddresses t f r.m
    t.places 0 r.o.acc f.space.toNat r.o.extent r.o.align ls (r.o.kind.near f.scope.toNat) = .ok (t', ps) →
    let parts := (ls.zip ps).flatMap fun e =>
      match r.o.kind with
      | .atomic _ => [{ lane := t'.w.famOff + e.1.1, off := 0, va := e.1.2, at_ := e.2.1, nc := e.2.2, data := (r.data e.1.1).1
                        high := false, done := false, txn := none }]
      | _ => laneParts (t'.w.famOff + e.1.1) e.1.2 e.2 (r.o.extent / r.o.part) r.o.part (r.data e.1.1).1 (r.data e.1.1).2
    AccessGives r.i s t' r.o.ctr
      (t'.access r.m r.o.kind r.o.part f.scope.toNat (if f.space = 0 then f.hint.toNat else 0) r.o.block r.o.dest parts) 8

/-- R31, R32 and R35: in scratch and cluster space a checked address is a place in the target workgroup's scratch; nothing is
translated, and nothing changes where no sector holds an error (R101). -/
def Sys2Proof.Part.ScratchPlaces : Prop :=
  ∀ (t : Thread) (acc size align : Nat) (ls : List (Nat × Dword)), acc = 1 ∨ t.s.bad = [] →
    ((∀ e ∈ ls, checkOf t 1 size align e.2 = none) →
      t.places 0 acc 1 size align ls = .ok (t, ls.map fun e => (.scratch t.w.wg e.2.toNat, false))) ∧
    (∀ g : Nat → Nat × Workgroup, (∀ e ∈ ls, checkOf t 2 size align e.2 = none) →
      (∀ e ∈ ls, (t.s.clusterOf t.g).find? (fun x => x.2.clmember == e.2.toNat / 2 ^ 24) = some (g (e.2.toNat / 2 ^ 24))) →
      t.places 0 acc 2 size align ls =
        .ok (t, ls.map fun e => (.scratch (g (e.2.toNat / 2 ^ 24)).1 (e.2.toNat % 2 ^ 24), false)))

/-- R236 and R271 to R273: SLD, SST, SLDL and SATOM check their address (alignment to their size, then canonical form and
translation) and issue an access in parts of at most 16 bytes; PREF and SPREF issue a prefetch of the lines that can be reached and raise
neither a trap nor a counter, and forgets the faults of its walks as it issues (R39). ACCESS of a record of SLDL's is 3 (R47). -/
def Sys2Proof.Part.ScalarMemoryIssues : Prop :=
  (∀ (f : SmF) (s : State) (t : Thread),
    let n := 2 ^ f.size.toNat
    let op := (f.off.extractLsb' 0 4).toNat
    let k := (if op = 8 then 2 else 1) * n
    let words (n : Nat) : List Word := (List.range n).map fun i => t.w.sreg (f.sd.toNat + i)
    ∀ (i : Instr) (ops : List Opd) (kind : AccKind) (acc : Nat) (ea : Dword) (scope : Nat) (dest : AccDest) (data : List Byte),
      (i, ops, kind, acc, ea, scope, dest, data) ∈
        [(Instr.sld f, ([.s f.sbase.toNat 2 2, .ds f.sd.toNat n n] : List Opd), AccKind.load, 0,
            t.w.spair f.sbase.toNat + f.off.signExtend 64, f.scope.toNat, AccDest.scal f.sd.toNat n, ([] : List Byte)),
         (.sst f, [.s f.sbase.toNat 2 2, .s f.sd.toNat n n], .store, 1,
            t.w.spair f.sbase.toNat + f.off.signExtend 64, f.scope.toNat, .none, regBytes (words n) (4 * n)),
         (.sldl f, [.ds f.sd.toNat n n], .load, 3, t.w.pc + f.off.signExtend 64, 2, .scal f.sd.toNat n, []),
         (.satom f, [.s f.sbase.toNat 2 2, .s f.sd.toNat k k], .atomic op, 2,
            t.w.spair f.sbase.toNat + (f.off.extractLsb' 4 26).signExtend 64, f.scope.toNat, .scal f.sd.toNat n,
            regBytes (words k) (4 * k))] →
      Ready s t i ops true →
      (ea.toNat % (4 * n) ≠ 0 → t.Traps → exec i s = .next (t.trapped 3 ea 0)) ∧
      (ea.toNat % (4 * n) = 0 → t.ctx.canonical ea = false → t.Traps → exec i s = .next (t.trapped 4 ea 0)) ∧
      (∀ t' pa nc, ea.toNat % (4 * n) = 0 → t.address 0 acc (4 * n) ea = .ok (t', pa, nc) →
        let p := min (4 * n) 16
        let parts := match kind with
          | .atomic _ => [{ lane := 0, off := 0, va := ea, at_ := .pa pa, nc := nc, data := data, high := false, done := false, txn := none }]
          | _ => laneParts 0 ea (.pa pa, nc) (4 * n / p) p data false
        AccessGives i s t' (some .sl) { t'.access t'.w.exec kind p scope 0 false dest parts with code := acc } 8)) ∧
  (∀ (f : VmF) (s : State) (t t' : Thread) (ps : List (Dword × Nat × Bool)),
    Ready s t (.pref f) ([.s f.sbase.toNat 2 2, .v f.voff.toNat 1 1] ++ guardOpd f.gen f.gs) true → f.space = 0 →
    t.reachable ((vmAddresses t f (vmAll t f)).map Prod.snd) = .ok (t', ps) →
    let u : Thread := { t' with s := t'.s.forgetMiss t'.die t'.id t'.w.pc }
    AccessGivesOr t'.put (.pref f) s u none (u.access u.w.exec .pref 1 0 f.hint.toNat false .none
      ((ps.filter fun p => !p.2.2).flatMap fun p => laneParts 0 p.1 (.pa p.2.1, false) 1 1 [] false)) 8) ∧
  (∀ (f : SmF) (s : State) (t t' : Thread) (ps : List (Dword × Nat × Bool)), Ready s t (.spref f) [.s f.sbase.toNat 2 2] true →
    let ea := t.w.spair f.sbase.toNat + f.off.signExtend 64
    let last := ea + BitVec.ofNat 64 (4 * 2 ^ f.size.toNat - 1)
    t.reachable (if ea.toNat / 128 = last.toNat / 128 then [ea] else [ea, last]) = .ok (t', ps) →
    let u : Thread := { t' with s := t'.s.forgetMiss t'.die t'.id t'.w.pc }
    AccessGivesOr t'.put (.spref f) s u none (u.access u.w.exec .pref 1 0 0 false .none
      ((ps.filter fun p => !p.2.2).flatMap fun p => laneParts 0 p.1 (.pa p.2.1, false) 1 1 [] false)) 8)

/-- R23, R31, R76, R96, R126, R138 and R268: MEMORY_ACCESS_COMPLETION for an access of one part, in the external window and in scratch: a
store replaces its bytes, STN4 one nibble, a load gives its register the bytes, an atomic reads and writes in one step; then the access
leaves the machine and its counter falls in issue order. What is read in scratch holds no error (R101). In the external window the bytes are those of memory itself. -/
def Sys2Proof.Part.DirectAccesses : Prop :=
  (∀ (s : State) (uid : Nat) (a : Access) (p : LaneAcc) (pa : Nat),
    mapFind s.accs uid = some a → a.parts = [p] → p.done = false → p.at_ = .pa pa → paHomed pa = false →
    s.mustWait uid a p = false → s.parkedAcc uid = false →
    let finished : Access := { a with parts := [{ p with done := true, txn := none }] }
    let ends (u : State) : Prop := exec (.memoryAccessCompletion uid [0]) s =
      .next (({ u with accs := mapPut u.accs uid finished }.accSettle uid).settle a.wg)
    let args := if p.data.length = 2 * a.size then (leNat (p.data.drop a.size), leNat (p.data.take a.size)) else (leNat p.data, 0)
    (a.kind = .store → ends { s with mem := putBytes s.mem pa p.data }) ∧
    (a.kind = .nibble → ends (s.putByte pa (putNibble (s.byte pa) p.high (p.data.headD 0)))) ∧
    (a.kind = .load → ends (s.putResult a p (fwdMerge (s.forward uid a p) (leBytes a.size (memNat s.mem pa a.size))))) ∧
    (∀ op, a.kind = .atomic op → (p.data.length = 2 * a.size ↔ op = 8) →
      let old := memNat s.mem pa a.size
      let s' : State := { s with mem := putBytes s.mem pa (leBytes a.size (atomicOp op (8 * a.size) old args.1 args.2)) }
      ends (s'.putResult a p (leBytes a.size old)))) ∧
  (∀ (s : State) (uid : Nat) (a : Access) (p : LaneAcc) (wg o : Nat) (g : Workgroup),
    mapFind s.accs uid = some a → a.parts = [p] → p.done = false → p.at_ = .scratch wg o → mapFind s.wgs wg = some g →
    g.phase ≠ .saved → s.mustWait uid a p = false → s.parkedAcc uid = false → s.partReads a p = .clean s →
    let finished : Access := { a with parts := [{ p with done := true, txn := none }] }
    let ends (u : State) : Prop := exec (.memoryAccessCompletion uid [0]) s =
      .next (({ u with accs := mapPut u.accs uid finished }.accSettle uid).settle a.wg)
    let put (bs : List Byte) : State := { s with wgs := mapPut s.wgs wg { g with scratch := putScratch g.scratch o bs } }
    (a.kind = .store → ends (put p.data)) ∧
    (a.kind = .nibble → ends (put [putNibble (storeGet 0 g.scratch o) p.high (p.data.headD 0)])) ∧
    (a.kind = .load → ends (s.putResult a p (fwdMerge (s.forward uid a p) (getScratch g.scratch o a.size)))) ∧
    (∀ op, a.kind = .atomic op → op ≠ 8 →
      let bs := getScratch g.scratch o a.size
      ends ((put (leBytes a.size (atomicOp op (8 * a.size) (leNat bs) (leNat p.data) 0))).putResult a p bs)))

/-- R70 and R126, a line of LPDDR that the core's L1 holds: a load whose bytes are valid there takes them from it; a store to a line held
M writes its bytes there, marks them valid and dirty, and is then performed at workgroup scope; memory itself is unchanged. What is read
holds no error (R101), and no home that the access would have to ask is offline (R54). A hit makes the line the most recent one of its set,
but for a line that this same streaming access has brought in, which stays the next victim (R263). -/
def Sys2Proof.Part.CachedAccesses : Prop :=
  ∀ (s : State) (uid : Nat) (a : Access) (p : LaneAcc) (pa k : Nat) (l : L1Line),
    mapFind s.accs uid = some a → a.parts = [p] → p.done = false → p.txn = none → p.at_ = .pa pa → paHomed pa = true →
    p.nc = false → a.hint ≠ 3 → s.older uid a = [] → s.parkedAcc uid = false → s.partOffline a p = false →
    s.partReads a p = .clean s → 0 < a.size → pa % 128 + a.size ≤ 128 →
    (s.core a.core).l1Find (pa / 128) = some (k, l) →
    let i := pa % 128
    let finished : Access := { a with parts := [{ p with done := true, txn := none }] }
    let ends (u : State) : Prop := exec (.memoryAccessCompletion uid [0]) s =
      .next (({ u with accs := mapPut u.accs uid finished }.accSettle uid).settle a.wg)
    let used := s.l1Use a.core k l (hintsOf a.hint uid)
    let mask := nibBytes i a.size
    (a.kind = .load → sectorMask i a.size &&& ~~~l.valid = 0 →
      ends (used.1.putResult a p (lineSlice l.data i a.size))) ∧
    (a.kind = .store → l.st = .m →
      ends ((used.1.l1Put a.core k (used.2.write (linePlace i (leNat p.data)) mask)).badOver (.l1 a.core) (pa / 128) (sectorsFull mask))) ∧
    (a.hint = 1 → l.cold = some uid → used = (s.l1Put a.core k l, l)) ∧
    (a.hint ≠ 1 → used = (State.l1Touch (s.l1Put a.core k { l with cold := none }) a.core l.line (k % 16) true, { l with cold := none }))

/-- The frame of memory, byte by byte (R69, R139): a run of bytes written changes those bytes alone; what follows an access, a job or lanes that end
changes no byte of memory; nor does an instruction that goes on, stands or traps. -/
def Obligations.MemoryFrames : Prop :=
  (∀ (s : State) (pa : Nat) (bs : List Byte) (x : Nat),
    ({ s with mem := putBytes s.mem pa bs } : State).byte x =
      if pa ≤ x ∧ x < pa + bs.length then bs.getD (x - pa) 0 else s.byte x) ∧
  (∀ (m : FMap Byte) (o : Nat) (bs : List Byte) (x : Nat),
    storeGet 0 (putScratch m o bs) x = if o ≤ x ∧ x < o + bs.length then bs.getD (x - o) 0 else storeGet 0 m x) ∧
  (∀ (s : State) (uid wg x : Nat), ((s.accSettle uid).settle wg).byte x = s.byte x) ∧
  (∀ (s : State) (a : Access) (p : LaneAcc) (bs : List Byte) (x : Nat), (s.putResult a p bs).byte x = s.byte x) ∧
  (∀ (s : State) (id : Nat) (pc : Dword) (m : LaneMask) (x : Nat), (s.divergence id pc m).byte x = s.byte x) ∧
  (∀ (t : Thread) (n : Nat) (c : Word) (a : Dword) (im : Word) (x : Nat),
    (t.advance n).byte x = t.s.byte x ∧ t.stand.byte x = t.s.byte x ∧ t.put.byte x = t.s.byte x ∧
    (t.trapped c a im).byte x = t.s.byte x)

namespace Sys2Proof.Machine

/-- `r` is the sum of two elements of a format as an atomic makes it (R269): rounded to nearest even, subnormals kept, the canonical NaN. -/
def AtomicSum (f : FFmt) (a b r : Nat) : Prop :=
  let A := fread f false a
  let B := fread f false b
  (A.isFin = true → B.isFin = true → ∃ k, Delivers f ⟨.rne, false, false, false, 0⟩ (A.rat + B.rat) (A.sign && B.sign) (r, k)) ∧
  (A.isNaN = true ∨ B.isNaN = true → r = fnan f) ∧
  (A.isInf = true → B.isNaN = false → r = if B.isInf && A.sign != B.sign then fnan f else finf f A.sign) ∧
  (A.isFin = true → B.isInf = true → r = finf f B.sign)

end Sys2Proof.Machine

/-- R268 and R269: what an atomic writes from the old value O, the operand B and the compare value C, at 32 and at 64 bits. FADD adds in
binary32; FADDBF adds in bf16, at 32 bits the two halves each for itself. -/
def Obligations.AtomicResults : Prop :=
  (∀ n ∈ [32, 64], ∀ o b c : BitVec n,
    let gives (op : Nat) (r : BitVec n) : Prop := atomicOp op n o.toNat b.toNat c.toNat = r.toNat
    gives 0 (o + b) ∧ gives 2 (if b.slt o then b else o) ∧ gives 3 (if o.slt b then b else o) ∧
    gives 4 (o &&& b) ∧ gives 5 (o ||| b) ∧ gives 6 (o ^^^ b) ∧ gives 7 b ∧ gives 8 (if o = c then b else o)) ∧
  (∀ o b c : Word,
    let gives (op : Nat) (r : Word) : Prop := atomicOp op 32 o.toNat b.toNat c.toNat = r.toNat
    gives 9 (if b.ule o then 0 else o + 1) ∧ gives 10 (if o = 0 ∨ b.ult o then b else o - 1) ∧
    AtomicSum fmtF32 o.toNat b.toNat (atomicOp 1 32 o.toNat b.toNat c.toNat) ∧
    (∃ lo hi : BitVec 16, gives 11 (hi ++ lo) ∧ AtomicSum fmtBf16 (o.extractLsb' 0 16).toNat (b.extractLsb' 0 16).toNat lo.toNat ∧
      AtomicSum fmtBf16 (o.extractLsb' 16 16).toNat (b.extractLsb' 16 16).toNat hi.toNat)) ∧
  (∀ o b c : BitVec 16, AtomicSum fmtBf16 o.toNat b.toNat (atomicOp 11 16 o.toNat b.toNat c.toNat))

/-! Translation, faults, shootdowns; latches and the region table -/

/-- R38 and R42: one level of a walk reads the PTE at the table's entry. Outside memory TYPE 5; at an offline home TYPE 6 (R99); V = 0 TYPE 0;
a pointer descends unless it is malformed or on level 0 (TYPE 1); a leaf is malformed (1), then misaligned (4), then without U (3), else a
translation. LEVEL is the level of the entry; the PTEs that were read are noted, for their requests at their homes. TYPE 6 of a PTE is the
model's choice (log 22, DEDUCED), and so is the order in which the reads are noted (log 20). -/
def Sys2Proof.Part.WalkLevels : Prop :=
  ∀ (s : State) (die : Nat) (c : Ctx) (vpn fuel level table : Nat) (ws : List WalkEntry) (rs : List Nat),
    let addr := table * 4096 + 8 * (vpn / 2 ^ (9 * level) % 512)
    let p : Dword := BitVec.ofNat 64 (s.viewNat addr 8)
    let ppn := (p.extractLsb' 10 44).toNat
    let res := walkFrom s die c vpn (fuel + 1) level table ws rs
    let fault (k : Nat) : Prop := res = ⟨.fault ⟨k, level, 0⟩, ws, addr :: rs⟩
    let reserved := p.extractLsb' 54 7 ≠ 0
    let pbmt := p.extractLsb' 61 2
    let n := p.getLsbD 63 = true
    let malformed := (p.getLsbD 2 = true ∧ p.getLsbD 1 = false) ∨ reserved ∨ (n ∧ 0 < level) ∨ (n ∧ ppn % 16 ≠ 8) ∨ pbmt = 3 ∨
      (4 ≤ level ∧ c.sv57 = true)
    (paOpen s.attic s.window addr = false → res = ⟨.fault ⟨5, level, 0⟩, ws, rs⟩) ∧
    let home := homeOf (addr / 128)
    let away : Bool := paHomed addr && s.offline.contains home && !s.dieHolds die (addr / 128)
    (paOpen s.attic s.window addr = true → away = true → res = ⟨.fault ⟨6, level, home⟩, ws, rs⟩) ∧
    (paOpen s.attic s.window addr = true → away = false →
      (p.getLsbD 0 = false → fault 0) ∧
      (p.getLsbD 0 = true → p.extractLsb' 1 3 = 0 →
        (reserved ∨ n ∨ pbmt ≠ 0 ∨ level = 0 → fault 1) ∧
        (¬ (reserved ∨ n ∨ pbmt ≠ 0 ∨ level = 0) → res =
          walkFrom s die c vpn fuel (level - 1) ppn (⟨c.asid, level - 1, vpn / 2 ^ (9 * level), ppn⟩ :: ws) (addr :: rs))) ∧
      (p.getLsbD 0 = true → p.extractLsb' 1 3 ≠ 0 →
        (malformed → fault 1) ∧
        (¬ malformed → ppn % 2 ^ (9 * level) ≠ 0 → fault 4) ∧
        (¬ malformed → ppn % 2 ^ (9 * level) = 0 → p.getLsbD 4 = false → fault 3) ∧
        (¬ malformed → ppn % 2 ^ (9 * level) = 0 → p.getLsbD 4 = true →
          res = ⟨.leaf (leafEntry c.asid vpn level (s.viewNat addr 8)) addr (s.viewNat addr 8), ws, addr :: rs⟩)))

/-- R38, R39, R41 to R44: PAGE_WALK_COMPLETE. A walk that has one of the 64 walkers and whose lines are not on their way ends. One that
fails, or whose leaf lacks what all those who wait need (TYPE 2), leaves its fault for them in the miss table. A leaf has A (and D for a
write) set at its home before it enters the L2 TLB, and those whom it can serve wait no more; at an offline home the update cannot be
made (TYPE 6: the model's choice, log 22, DEDUCED). -/
def Sys2Proof.Part.WalksComplete : Prop :=
  (∀ (s : State) (die k : Nat) (m : Miss), die < 9 → (s.die die).miss[k]? = some m → m.res = none →
    let run := s.walk die m.ctx m.vpn
    let old := ((s.die die).miss.take k).filter fun x => x.res.isNone
    (64 ≤ old.length ∨ run.busy s = true → exec (.pageWalkComplete die k) s = .next s) ∧
    (old.length < 64 → run.busy s = false →
      let s0 := run.touch die s
      let fails (f : WalkFault) : Prop := exec (.pageWalkComplete die k) s =
        .next (s0.setDie die { s0.die die with miss := listModify (fun m => { m with res := some f }) (s0.die die).miss k })
      (∀ f, run.res = .fault f → fails f) ∧
      (∀ e addr pte, run.res = .leaf e addr pte →
        let users := m.waits.filter fun x => !leafLacks x.access e.r e.w e.x
        let write := users.any fun x => accWrites x.access
        (users = [] → fails ⟨2, e.level, 0⟩) ∧
        (∀ h, users ≠ [] → e.io = false → s0.markLeaf addr pte write = .offline h → fails ⟨6, e.level, h⟩) ∧
        (users ≠ [] → e.io = false → s0.markLeaf addr pte write = .busy → exec (.pageWalkComplete die k) s = .next s) ∧
        (∀ s', users ≠ [] → (if e.io then .done s0 else s0.markLeaf addr pte write) = .done s' →
          let e' : TlbEntry := { e with d := e.d || write }
          let u := s'.badRenumber (.tlb die) fun l n => if l ≠ e'.set then some (l, n) else if 7 ≤ n then none else some (l, n + 1)
          let d := ((u.die die).addLeaf e').addWalks run.cache
          exec (.pageWalkComplete die k) s = .next (u.setDie die { d with
            miss := (d.miss.map fun m => m.served e').filter fun m => !m.waits.isEmpty }))))) ∧
  (∀ (s : State) (addr pte : Nat) (write : Bool),
    let new := pte ||| 0x40 ||| (if write then 0x80 else 0)
    let home := homeOf (addr / 128)
    (new = pte → s.markLeaf addr pte write = .done s) ∧
    (new ≠ pte → paHomed addr = true → s.isOffline home = true → s.markLeaf addr pte write = .offline home) ∧
    (new ≠ pte → (paHomed addr && s.isOffline home) = false → s.paBusy addr = false →
      s.markLeaf addr pte write = .done ((s.homeTouch none addr 8 true).sysWrite addr (leBytes 8 new))))

/-- R45, R47, R49, R50, R54: an address that does not translate. The path parks at the instruction with a new SEQ and another path runs
(in handler mode, or without room, it blocks in place), no access is made and no counter rises; the record goes to the die's queue; with
NOFQ the fault is rejected at once (0x05), and TYPE 6 parks without a record (the model's choice, log 27, DEDUCED); with a full
held-record buffer the instruction stalls. -/
def Sys2Proof.Part.FaultsPark : Prop :=
  ∀ (t : Thread) (side access ftype level home : Nat) (va pc : Dword) (len : Nat),
    let c := t.ctx
    let s0 := t.s.forgetMiss t.die t.id t.w.pc
    let seq := (t.w.seq + 1) % 256
    let p : Park := { ctx := c.slot, asid := c.asid, seq := seq, va := va, access := access, ftype := ftype, level := level
                      tick := t.s.tick, home := home, answer := none, side := side }
    let fr : FaultRec := { slot := c.slot, tick := t.s.tick, asid := c.asid, core := t.core, unit := t.w.slots.headD 0, seq := seq
                           side := side, access := access, ftype := ftype, level := level, place := t.w.pc, va := va }
    let s1 := if c.nofq then s0 else s0.putRecord t.die c fr
    let w : Warp := { t.w with seq := seq }
    let e : Path := ⟨w.pc, w.exec, .ready, 0, some p, false⟩
    let res := (t.parkFault side access ftype level va home).finish pc len
    (c.nofq = true → ftype ≠ 6 → Thread.Traps { t with s := s0 } →
      res = Thread.trapped { t with s := s0 } 5 va (BitVec.ofNat 32 (side * 256 + access * 16 + ftype))) ∧
    ((c.nofq = false ∨ ftype = 6) → 512 ≤ (t.s.die t.die).fheld.length → res = t.put) ∧
    ((c.nofq = false ∨ ftype = 6) → (t.s.die t.die).fheld.length < 512 →
      (t.w.handler = true ∨ canPark t.w.paths e = false →
        res = Thread.put { t with s := s1, w := { w with block := some p } }) ∧
      (t.w.handler = false → canPark t.w.paths e = true →
        res = Thread.put { t with
          s := s1
          w := ({ w with paths := w.paths ++ [e] } : Warp).switch t.s.clock }))

/-- R48, R49, R51, R52, R54, R397: fault queues and their answers. FQHEAD moves the head and held records follow in order; the MSI is
repeated after 10 µs while records remain; FQCMD replays or rejects the one requester it names or every one of an address space on a die,
a command that names none or has MBZ bits set is stale; a home that stays offline for 200 ms answers its requester with 0x0E, an access
that was issued among them. Such an access, once it is replayed, translates again from R45 step 1 and raises its counter again (R53, R397). That
it parks at all after it has issued, and not as an instruction that has not, is the model's choice (log 40, DEDUCED). -/
def Sys2Proof.Part.FaultQueues : Prop :=
  (∀ (s : State) (die slot : Nat) (v : Dword), die < 9 → slot < 256 →
    let d := s.die die
    exec (.fqheadWrite die slot v) s = .next (State.flushHeld 512
      (s.setDie die (d.setFq slot { d.fq slot with head := v.toNat % 2 ^ 32 })) die
      ((s.setDie die (d.setFq slot { d.fq slot with head := v.toNat % 2 ^ 32 })).ctxFor slot))) ∧
  (∀ (s : State) (die slot tk : Nat), die < 9 → slot < 256 →
    let q := (s.die die).fq slot
    let c := s.ctxFor slot
    q.lastMsi = some tk → q.tail ≠ q.head % c.fqLen → tk + 10000 ≤ s.tick →
    exec (.faultQueueMsiRepeat die slot) s =
      .next { s.setDie die ((s.die die).setFq slot { q with lastMsi := some s.tick }) with
        msis := s.msis ++ [⟨.faultQueue slot, c.fqvec, s.tick, !s.mdl.root, storeGet 0 s.mdl.vectors.harts 0⟩] }) ∧
  (∀ (s : State) (die : Nat) (v : BitVec 62), die < 9 → s.isOffline die = false →
    let all : FqSel := ⟨die, (v.extractLsb' 38 16).toNat, none⟩
    let one : FqSel := ⟨die, (v.extractLsb' 38 16).toNat,
      some ((v.extractLsb' 28 10).toNat, (v.extractLsb' 22 6).toNat, (v.extractLsb' 14 8).toNat)⟩
    let mbz := v.extractLsb' 54 8 = 0 ∧ v.extractLsb' 0 14 = 0
    let stale : State := s.setDie die { s.die die with stale := min ((s.die die).stale + 1) 0xFFFFFFFF }
    (mbz → one.any s = true → exec (.fqcmdReplayOne die v) s = .next (s.replaySel one) ∧
      exec (.fqcmdRejectOne die v) s = .next (s.rejectSel one)) ∧
    (mbz → exec (.fqcmdReplayAsid die v) s = .next (s.replaySel all) ∧ exec (.fqcmdRejectAsid die v) s = .next (s.rejectSel all)) ∧
    (¬ mbz ∨ one.any s = false → exec (.fqcmdReplayOne die v) s = .next stale ∧ exec (.fqcmdRejectOne die v) s = .next stale) ∧
    (¬ mbz → exec (.fqcmdReplayAsid die v) s = .next stale ∧ exec (.fqcmdRejectAsid die v) s = .next stale)) ∧
  (∀ (s : State) (job : Nat) (j : Job) (p : Park), mapFind s.jobs job = some j → j.park = some p → p.ftype = 6 → p.answer = none →
    p.tick + 200000000 ≤ s.tick →
    exec (.homeOfflineTimeout (.job job)) s = .next (s.jobFail job j 0x0E p.va 0)) ∧
  (∀ (s : State) (warp : Nat) (w : Warp) (pc : Dword) (p : Park), mapFind s.warps warp = some w → w.running = true → w.block = some p →
    w.pc = pc → w.paths = [] → p.ftype = 6 → p.answer = none → p.tick + 200000000 ≤ s.tick → s.accs = [] →
    exec (.homeOfflineTimeout (.path warp pc)) s =
      .next { s with warps := mapPut s.warps warp { w with block := some { p with answer := some 0x0E } } }) ∧
  (∀ (s : State) (warp : Nat) (w : Warp) (pc : Dword) (o : OffAcc) (p : Park) (a : Access), mapFind s.warps warp = some w →
    w.running = true → w.block = none → w.paths = [] → w.offl = [o] → o.park = some p → mapFind s.accs o.uid = some a → a.pc = pc →
    p.ftype = 6 → p.answer = none → p.tick + 200000000 ≤ s.tick →
    exec (.homeOfflineTimeout (.path warp pc)) s =
      .next (State.accFail { s with warps := mapPut s.warps warp w } o.uid a 0x0E p.va)) ∧
  (∀ (s : State) (uid id x : Nat) (a : Access) (p : LaneAcc) (w : Warp) (g : Workgroup) (c : Ctr) (since : Nat) (m : LaneMask) (t : Thread)
      (pa : Nat) (nc : Bool),
    mapFind s.accs uid = some a → a.owners = [id] → a.parts = [p] → p.done = false → p.txn = none → p.at_ = .pa x →
    mapFind s.warps id = some w → mapFind s.wgs w.wg = some g → s.away w.wg = false → w.offl = [⟨uid, m, some c, since, none⟩] →
    w.running = true → ctrVal w.pend c < 255 →
    Thread.lookup ⟨s, id, { w with pc := a.pc }, g⟩ a.code p.va (a.kind.near a.scope) = (t, .ok pa nc) → t.s.warps = s.warps →
    let b := { a with parts := [{ p with at_ := .pa pa, nc := nc }] }.tagged (t.s.core a.core)
    State.accRoom { t.s with accs := mapDel t.s.accs uid } b = true →
    exec (.memoryAccessCompletion uid [0]) s = .next { t.s with
      accs := mapPut t.s.accs uid b
      warps := mapPut t.s.warps id { w with pend := w.pend ++ [⟨c, uid, false⟩], offl := [] } })

/-- R36, R55, R56: an INVCMD store on the management die removes what it covers from every TLB, walk cache and walk, and is pending until
the accesses that it may cover, by whatever address space, and the fragments in the blend queues are performed, those that are parked apart;
then changed context descriptors are read again and SEQ is in INVDONE, the oldest command first. A 17th command waits. The model's choices:
MBZ bits of the value change nothing (log 83, DESIGN CHOICE), and a descriptor is read again when its whole address space has been shot down
(logs 89 and 24, DEDUCED). -/
def Sys2Proof.Part.Shootdowns : Prop :=
  (∀ (s : State) (v : BitVec 62) (kind : Nat) (i : Instr), s.mdl.mgmt < 9 →
    (kind, i) ∈ [(0, Instr.invcmdAll s.mdl.mgmt v), (1, .invcmdAsid s.mdl.mgmt v), (2, .invcmdPageAsid s.mdl.mgmt v),
      (3, .invcmdPageAll s.mdl.mgmt v)] →
    let c : InvCmd := ⟨kind, (v.extractLsb' 44 16).toNat, BitVec.ofNat 64 (s.reg s.mdl.mgmt 0x10200), (v.extractLsb' 0 32).toNat⟩
    (s.mdl.inv.length < 16 → exec i s = .next (({ s with mdl := { s.mdl with inv := s.mdl.inv ++ [c] } } : State).shoot c)) ∧
    (16 ≤ s.mdl.inv.length → exec i s = .next s)) ∧
  (∀ (s : State) (c : InvCmd) (r : List InvCmd), s.mdl.inv = c :: r →
    let s' := (s.shoot c).renewAll c
    (s.shootWaits c = false → exec .shootdownComplete s =
      .next (({ s' with mdl := { s'.mdl with inv := r } } : State).setReg s'.mdl.mgmt 0x10210 c.seq)) ∧
    (s.shootWaits c = true → exec .shootdownComplete s = .next s)) ∧
  (∀ (s : State) (c : InvCmd),
    ((∀ e ∈ s.accs, s.parkedAcc e.1 = true) → s.units = [] → s.shootWaits c = false) ∧
    (∀ e ∈ s.accs, ∀ p ∈ e.2.parts, ∀ x, s.parkedAcc e.1 = false → p.at_ = .pa x → p.done = false →
      c.kind = 0 ∨ (c.kind = 1 ∧ e.2.asid = c.asid) ∨ (2 ≤ c.kind ∧ p.va.extractLsb' 39 9 = c.va.extractLsb' 39 9) →
      s.shootWaits c = true) ∧
    (∀ e ∈ s.units, ∀ b ∈ e.2.blend0 ++ e.2.blend1, c.kind ≠ 1 → s.shootWaits c = true)) ∧
  (∀ (s : State) (i : InvCmd), i.kind = 0 → ∀ c d, ((s.shoot i).core c).utlb = [] ∧ ((s.shoot i).die d).tlb = [] ∧
    ((s.shoot i).die d).walkc = [] ∧ ∀ m ∈ ((s.shoot i).die d).miss, m.res = none)

/-- R120, R131 to R135, R168, R279: REL, with nothing left to wait for, issues the atomic on its latch and, once that is performed, sends the
wakes of the dies that waited and goes on. ACQ goes on when the latch meets its condition; one that has registered waits until a wake, or
2 µs, makes it read again. A NAP ends at its clock; a path that has run for 4 096 clocks yields. -/
def Sys2Proof.Part.AcquireAndRelease : Prop :=
  (∀ (f : SyF) (s : State) (t t' : Thread) (pa : Nat) (nc : Bool), Ready s t (.rel f) (.s f.sa.toNat 2 2 :: valueOpd f) true →
    t.w.stall = none → t.latch (t.w.spair f.sa.toNat) = .ok (t', pa, nc) → t'.w.stall = none →
    t'.relWaits (t.w.spair f.sa.toNat) f.scope.toNat = [] →
    let a := t'.access t'.w.exec (.atomic (if f.kind.getLsbD 0 then 13 else 12)) 8 f.scope.toNat 0 false .stall
      [{ lane := 0, off := 0, va := t.w.spair f.sa.toNat, at_ := .pa pa, nc := nc, data := leBytes 8 (t.valueOf f).toNat
         high := false, done := false, txn := none }]
    t'.s.accRoom a = true →
    exec (.rel f) s = .next (Thread.put { t' with
      s := { t'.s with nextUid := t'.s.nextUid + 1, accs := mapPut t'.s.accs t'.s.nextUid a }
      w := { t'.w with stall := some ⟨t'.w.pc, [t'.s.nextUid, pa], 1, []⟩ } })) ∧
  (∀ (f : SyF) (s : State) (t : Thread) (uid pa : Nat) (got : List Byte), Ready s t (.rel f) (.s f.sa.toNat 2 2 :: valueOpd f) true →
    t.w.stall = some ⟨t.w.pc, [uid, pa], 1, got⟩ → t.s.busyUid uid = false →
    let old := leNat got
    let v := (t.valueOf f).toNat
    exec (.rel f) s = .next (Thread.advance { t with s := { t.s with
      ctl := t.s.ctl ++ wakesOf t.die pa old (if f.kind.getLsbD 0 then old + v else v) } } 8)) ∧
  (∀ (f : SyF) (s : State) (t t' : Thread) (pa : Nat) (nc : Bool), Ready s t (.acq f) (.s f.sa.toNat 2 2 :: valueOpd f) true →
    t.s.acqAt t.id t.w.pc = none → t.latch (t.w.spair f.sa.toNat) = .ok (t', pa, nc) →
    let v := t'.s.viewNat pa 8 % 2 ^ 32
    let want := (t'.valueOf f).toNat
    (if f.kind.getLsbD 0 then v = want else want ≤ v) →
    exec (.acq f) s = .next (Thread.advance { t' with s := t'.s.acqDel t'.id t'.w.pc } 8)) ∧
  (∀ (f : SyF) (s : State) (t : Thread) (a : AcqWait), Ready s t (.acq f) (.s f.sa.toNat 2 2 :: valueOpd f) true →
    t.s.acqAt t.id t.w.pc = some a → a.wake = false →
    exec (.acq f) s = .next (Thread.put { t with w := t.w.waitHere t.s.clock })) ∧
  (∀ (s : State) (k src d pa : Nat), s.ctl[k]? = some ⟨src, d, .latchWake pa⟩ → s.routed src d = true →
    exec (.latchwake k) s = .next { s with
      ctl := listRemove s.ctl k
      acqs := s.acqs.map fun a => if a.die = d ∧ a.pa = pa then { a with wake := true } else a }) ∧
  (∀ (s : State) (warp : Nat) (pc : Dword), exec (.acqRereadTimeout warp pc) s =
    .next { s with acqs := s.acqs.map fun a =>
      if a.warp = warp ∧ a.pc = pc ∧ a.tick + 2000 ≤ s.tick then { a with wake := true } else a }) ∧
  (∀ (s : State) (warp : Nat) (w : Warp), mapFind s.warps warp = some w →
    exec (.napExpiry warp) s = .next { s with warps := mapPut s.warps warp { w with
      wake := if w.wake ≤ s.clock then 0 else w.wake
      paths := w.paths.map fun p => if p.wake ≤ s.clock then { p with wake := 0 } else p } }) ∧
  (∀ (s : State) (warp : Nat) (w : Warp), mapFind s.warps warp = some w → w.running = true → w.handler = false → w.stall = none →
    w.fuse = none → w.block = none → w.slice + 4096 ≤ s.clock →
    exec (.pathTimesliceExpiry warp) s = .next { s with warps := mapPut s.warps warp (w.yieldTo w.pc w.wake w.nap s.clock) })

/-- R120 to R125, R280: BIND with an invalid region or scope is an illegal operand (0x02); else it writes a free entry of the region
table, gives its index (0xFFFFFFFF without one) and reaches every core of the context. UNBIND without a table, or of an index from 4 096
up, is an illegal operand; else it clears V of its entry. -/
def Sys2Proof.Part.RegionTable : Prop :=
  (∀ (f : SyF) (s : State) (t : Thread),
    let d := f.imm.toNat % 256
    let base := t.w.spair f.sa.toNat
    let len := t.w.spair f.sb.toNat
    let latch := t.w.spair f.sc.toNat
    let entry := base.toNat + len.toNat * 2 ^ 64 + latch.toNat * 2 ^ 128 + (8 + f.scope.toNat) * 2 ^ 192
    (Running s t → (Instr.bindRegion f).wf = true → f.scope.toNat < 2 → t.Traps →
      exec (.bindRegion f) s = .next (t.trapped 2 (word0 (.bindRegion f)) 0)) ∧
    (Ready s t (.bindRegion f) [.s f.sa.toNat 2 2, .s f.sb.toNat 2 2, .s f.sc.toNat 2 2, .ds d 1 1] true →
    2 ≤ f.scope.toNat →
    let good := (regionOf t.ctx 0 entry).isSome = true
    (¬ good → t.Traps → exec (.bindRegion f) s = .next (t.trapped 2 (word0 (.bindRegion f)) 0)) ∧
    (good → t.ctx.regtab = 0 →
      exec (.bindRegion f) s = .next (Thread.advance { t with w := t.w.setSreg d 0xFFFFFFFF } 8)) ∧
    (∀ t', good → t.ctx.regtab ≠ 0 → t.freeEntry 32 0 = .ok (t', none) →
      exec (.bindRegion f) s = .next (Thread.advance { t' with w := t'.w.setSreg d 0xFFFFFFFF } 8)) ∧
    (∀ t' u i at_ pa nc, good → t.ctx.regtab ≠ 0 → t.freeEntry 32 0 = .ok (t', some (i, at_)) →
      t'.address 0 1 0 (t'.ctx.regtab + BitVec.ofNat 64 (32 * i)) = .ok (u, pa, nc) →
      exec (.bindRegion f) s = .next (Thread.advance { u with
        s := ((u.s.tableTouch u.die pa 32 true).sysWrite pa (leBytes 32 entry)).spreadRegions u.ctx
        w := u.w.setSreg d (BitVec.ofNat 32 i) } 8)))) ∧
  (∀ (f : SyF) (s : State) (t : Thread), Ready s t (.unbindRegion f) [.s f.sa.toNat 1 1] true →
    let i := (t.w.sreg f.sa.toNat).toNat
    (t.ctx.regtab = 0 ∨ 4096 ≤ i → t.Traps → exec (.unbindRegion f) s = .next (t.trapped 2 (word0 (.unbindRegion f)) 0)) ∧
    (∀ u pa nc, t.ctx.regtab ≠ 0 → i < 4096 →
      t.address 0 1 0 (t.ctx.regtab + BitVec.ofNat 64 (32 * i)) = .ok (u, pa, nc) → u.s.paBusy pa = false →
      let x := u.s.viewNat (pa + 24) 8
      let s0 := u.s.tableTouch u.die pa 32 false
      let s' := if bitOf x 3 then (s0.tableTouch u.die pa 32 true).sysWrite (pa + 24) (leBytes 8 (x - 8)) else s0
      exec (.unbindRegion f) s = .next (Thread.advance { u with s := s'.spreadRegions u.ctx } 8)))

/-! Engines -/

namespace Sys2Proof.Machine

/-- A job `j` enters the queue of its core (R302, R311): EN rises by one under a fresh number; a matrix job takes the array if it has no
owner. With no free entry of the 64, or EN at 255, the instruction stalls. -/
def JobGives (i : Instr) (s : State) (t : Thread) (j : Job) : Prop :=
  let uid := t.s.nextUid
  let s' : State := { t.s with nextUid := uid + 1, jobs := mapPut t.s.jobs uid j }
  let a := t.s.array t.core
  let s'' := if j.kind.matrix = true ∧ a.owner = none then s'.setArray t.core { MatArray.zero with owner := some t.w.wg } else s'
  let full := (t.s.freeEntry t.core).isNone = true ∨ 255 ≤ ctrVal t.w.pend .en
  (¬ full → exec i s = .next (Thread.advance { t with s := s'', w := { t.w with pend := t.w.pend ++ [⟨.en, uid, false⟩] } } 8)) ∧
  (full → exec i s = .next t.put)

/-- The lanes that vote (R304, R311): the active lanes that are live. -/
def voters (t : Thread) : List Nat := lanesOf t.w.width (t.w.exec &&& t.w.live)

/-- A matrix instruction may act (R302): a lane is active, and no other workgroup owns the array. -/
def ArrayFree (t : Thread) : Prop := t.w.exec &&& t.w.live ≠ 0 ∧ ∀ wg, (t.s.array t.core).owner = some wg → wg = t.w.wg

/-- The active lanes agree on a format word (R304). -/
def Voted (t : Thread) (f : EnF) (w : Nat) : Prop := voters t ≠ [] ∧ ∀ l ∈ voters t, (t.vreg l f.vf.toNat).toNat = w

/-- The checks of step 3 of R311 pass. -/
def Passes (l : List (Option (Nat × Dword))) : Prop := ∀ x ∈ l, x = none

/-- A card or table of `n` × 64 bytes is read (R311 step 4): `u` the thread after it, at `addr`, with bytes `bs`. -/
def CardRead (t u : Thread) (f : EnF) (n : Nat) (addr : Dword) (bs : List Byte) : Prop :=
  addr = (if f.cs then t.w.spair f.sc.toNat else (t.w.sreg f.sc.toNat).setWidth 64) ∧
  Passes (t.syncChecks f ++ [alignCheck addr.toNat 64,
    if f.cs then none else t.reachCheck ⟨false, addr.toNat, addr.toNat + 64 * n⟩]) ∧
  t.cardBytes f.cs addr.toNat n = .ok (u, bs)

end Sys2Proof.Machine

/-- R302, R304, R305, R311 to R316, R319: the matrix instructions queue their jobs with the footprint that their operands give. A path with no
active lane goes on; while another workgroup owns the array the path waits; format words that differ raise format divergence (0x09); a
word that breaks R305 raises illegal operand (0x02); an invalid nest table job card invalid (0x10). That the path waits for the array before
the vote and the checks of the word is the model's choice (log 56). -/
def Sys2Proof.Part.MatrixInstructionsQueue : Prop :=
  (∀ (f : EnF) (s : State) (t : Thread), Ready s t (.mflip f) [] true → ArrayFree t →
    JobGives (.mflip f) s t (t.job .flip 0 [] [] 0 none none)) ∧
  (∀ (f : EnF) (s : State) (t : Thread) (n acc0 : Nat), Ready s t (.mzero f) (enOpds f false f.sc.toNat 1) true → ArrayFree t →
    1 ≤ n → n ≤ 512 → acc0 + n ≤ 512 → t.grp f 0 = n + acc0 * 65536 →
    JobGives (.mzero f) s t (t.job (.zero n acc0) 0 [] [] 0 none none)) ∧
  (∀ (f : EnF) (s : State) (t : Thread) (w : Nat), Ready s t (.mloadw f) (enOpds f true f.sc.toNat 4) true → ArrayFree t → Voted t f w →
    wordOk w = true →
    let base := t.grp f 0
    let stride := t.grp f 1
    let soff := if isMx (wordW w) then t.grp f 2 else 0
    let rs := vecReads (wordW w) base stride (addScratch base soff) 128
    base % 16 = 0 → stride % 16 = 0 → soff % 4 = 0 → Passes (rs.map t.reachCheck) →
    JobGives (.mloadw f) s t
      (t.job (.loadw (wordW w) base stride (addScratch base soff)) (BitVec.ofNat 64 base) (rs.map Reach.extent) [] 0 none none)) ∧
  (∀ (f : EnF) (s : State) (t : Thread) (w n acc0 : Nat), Ready s t (.mstream f) (enOpds f true f.sc.toNat 4) true → ArrayFree t →
    Voted t f w → wordOk w = true → 1 ≤ n → n ≤ 256 → acc0 + n ≤ 512 → t.grp f 3 = n + acc0 * 65536 →
    let base := t.grp f 0
    let stride := t.grp f 1
    let soff := if isMx (wordA w) then t.grp f 2 else 0
    let rs := vecReads (wordA w) base stride (addScratch base soff) n
    base % 16 = 0 → stride % 16 = 0 → soff % 4 = 0 → Passes (rs.map t.reachCheck) →
    JobGives (.mstream f) s t (t.job (.stream (wordA w) (wordW w) base stride (addScratch base soff) n acc0) (BitVec.ofNat 64 base)
      (rs.map Reach.extent) [] 0 none none)) ∧
  (∀ (f : EnF) (s : State) (t : Thread) (w : Nat) (d : Drain), Ready s t (.mdrain f) (enOpds f true f.sc.toNat 8) true → ArrayFree t →
    Voted t f w → drainWordOk w = true → t.drainOf f w = some d →
    d.dst % 16 = 0 → d.stride % 16 = 0 → t.grp f 4 % 4 = 0 → (d.transposed = true → t.grp f 5 % 16 = 0 ∧ d.tstride % 16 = 0) →
    Passes (d.writes.map t.reachCheck ++ t.syncChecks f) →
    JobGives (.mdrain f) s t (t.job (.drain d) 0 [] (d.writes.map Reach.extent) (stoSeed (t.grp f 7 % 65536)) (t.latchOp f) (t.barOf f))) ∧
  (∀ (f : EnF) (s : State) (t u : Thread) (w : Nat) (addr : Dword) (bs : List Byte),
    Ready s t (.mnest f) (enOpds f true f.sc.toNat (if f.cs then 2 else 1)) true → ArrayFree t → Voted t f w → wordOk w = true →
    CardRead t u f 4 addr bs →
    (nestValid bs (wordAcc w) = false → u.Traps → exec (.mnest f) s = .next (u.trapped 0x10 addr 0)) ∧
    (nestValid bs (wordAcc w) = true →
      let n := nestOf bs
      let rs := n.reads (wordA w) (wordW w)
      Passes ((rs ++ n.writes).map u.reachCheck) →
      JobGives (.mnest f) s u (u.job (.nest n (wordA w) (wordW w) (wordRnd w) (wordAcc w)) addr (rs.map Reach.extent)
        (n.writes.map Reach.extent) (stoSeed n.seed) (u.latchOp f) (u.barOf f)))) ∧
  (∀ (f : EnF) (i : Instr) (s : State) (t : Thread) (ops : List Opd) (ok : Nat → Bool),
    (i, ops, ok) ∈ [(Instr.mloadw f, enOpds f true f.sc.toNat 4, wordOk), (.mstream f, enOpds f true f.sc.toNat 4, wordOk),
      (.mnest f, enOpds f true f.sc.toNat (if f.cs then 2 else 1), wordOk), (.mdrain f, enOpds f true f.sc.toNat 8, drainWordOk)] →
    Ready s t i ops true →
    (t.w.exec &&& t.w.live = 0 → exec i s = .next (t.advance 8)) ∧
    (∀ wg, t.w.exec &&& t.w.live ≠ 0 → (t.s.array t.core).owner = some wg → wg ≠ t.w.wg →
      exec i s = .next (Thread.put { t with w := t.w.waitHere t.s.clock })) ∧
    (∀ l r k, ArrayFree t → voters t = l :: r → k ∈ r → t.vreg k f.vf.toNat ≠ t.vreg l f.vf.toNat → t.Traps →
      exec i s = .next (t.trapped 9 0 (t.vreg l f.vf.toNat))) ∧
    (∀ w, ArrayFree t → Voted t f w → ok w = false → t.Traps → exec i s = .next (t.trapped 2 (word0 i) 0)))

/-- R311, R323 to R327: CPY, GATH and COLL read their card and queue their job; a card that breaks R323 raises job card invalid (0x10) with
its address; a path with no active lane goes on. A COLL takes the next number among the collectives of its die, context and GROUP. -/
def Sys2Proof.Part.CopyInstructionsQueue : Prop :=
  (∀ (f : EnF) (s : State) (t u : Thread) (addr : Dword) (bs : List Byte) (i : Instr) (ok : Bool) (rs : List Reach),
    let c := cardOf bs
    (i, ok, rs) ∈ [(Instr.cpy f, c.cpyOk bs, c.cpyReads), (.gath f, c.gathOk bs, c.gathReads)] →
    Ready s t i (enOpds f false f.sc.toNat (if f.cs then 2 else 1)) true →
    (t.w.exec &&& t.w.live = 0 → exec i s = .next (t.advance 8)) ∧
    (t.w.exec &&& t.w.live ≠ 0 → CardRead t u f 1 addr bs →
      (ok = false → u.Traps → exec i s = .next (u.trapped 0x10 addr 0)) ∧
      (ok = true →
        let bar := if c.bar = 0xFFFFFFFF then none else some c.bar
        Passes ((rs ++ c.cpyWrites).map u.reachCheck ++ [bar.bind fun b => u.reachCheck ⟨false, b, b + 16⟩]) →
        JobGives i s u (u.job (.copy c) addr (rs.map Reach.extent) (c.cpyWrites.map Reach.extent) (stoSeed c.seed) (u.latchOp f) bar)))) ∧
  (∀ (f : EnF) (s : State) (t u : Thread) (addr : Dword) (bs : List Byte) (q p : Nat),
    let c := cardOf bs
    Ready s t (.coll f) (enOpds f false f.sc.toNat (if f.cs then 2 else 1)) true → t.w.exec &&& t.w.live ≠ 0 → CardRead t u f 1 addr bs →
    u.s.collPlace u.die c = some (q, p) → c.collOk bs p = true →
    let rs := [reach c.sglob c.src [] (runBytes c.sfmt c.nx).1]
    let ws := [reach c.dglob c.dst [] (runBytes c.dfmt (c.outLen p)).1]
    let bar := if c.bar = 0xFFFFFFFF then none else some c.bar
    let k := collCount u.s.collNo u.die u.ctx.slot c.seed
    let v : Thread := { u with s := { u.s with collNo := collBump u.s.collNo u.die u.ctx.slot c.seed } }
    Passes ((rs ++ ws).map u.reachCheck ++ [bar.bind fun b => u.reachCheck ⟨false, b, b + 16⟩]) →
    (u.s.freeEntry u.core).isNone = false → ctrVal u.w.pend .en < 255 →
    JobGives (.coll f) s v (v.job (.coll c k) addr (rs.map Reach.extent) (ws.map Reach.extent) (stoSeed 0) (v.latchOp f) bar))

/-- R309, R312 to R316, R321, R325: ENGINE_JOB_START for a job that may start. A load fills the shadow plane from scratch, MFLIP exchanges the
planes, a stream updates the accumulator (or ends with 0x10 when the plane's format is another), MZERO clears rows, a drain and a copy
get the image and the place from which their chunks go out, a nest its first iteration. A job that must wait is left as it is. What is read
in scratch holds no error (R101). That a job has all its effects on the array at its start, and goes out in these chunks, is the model's
choice (logs 57 and 58). -/
def Sys2Proof.Part.JobsStart : Prop :=
  ∀ (s : State) (uid : Nat) (j : Job), mapFind s.jobs uid = some j →
    let a := s.array j.core
    let scr := s.scratchOf j.wg
    let on : Job := { j with started := true }
    let gives (u : State) : Prop := exec (.engineJobStart uid) s = .next u
    (s.jobReady uid j = false → gives s) ∧
    (s.jobReady uid j = true →
      (∀ f b st sb, j.kind = .loadw f b st sb → s.bad = [] → gives ((s.setArray j.core { a with
        shadow := ⟨some f, (List.range 128).map fun n => vecAt scr f (b + n * st) (sb + 4 * n)⟩ }).putJob uid on)) ∧
      (j.kind = .flip → gives ((s.setArray j.core { a with active := a.shadow, shadow := a.active }).putJob uid on)) ∧
      (∀ af wf b st sb n a0, j.kind = .stream af wf b st sb n a0 →
        (a.active.fmt = none ∨ a.active.fmt = some wf → s.bad = [] → gives ((s.setArray j.core (a.stream scr af b st sb n a0)).putJob uid on)) ∧
        (a.active.fmt ≠ none → a.active.fmt ≠ some wf → gives (s.jobFail uid on 0x10 j.card 0))) ∧
      (∀ n a0, j.kind = .zero n a0 → gives ((s.setArray j.core (a.zeroRows n a0)).putJob uid on)) ∧
      (∀ d, j.kind = .drain d → gives (s.putJob uid { on with imgs := [(d.image a j.sto).1], sto := (d.image a j.sto).2 })) ∧
      (∀ n af wf r int, j.kind = .nest n af wf r int → gives (s.putJob uid { on with idx := some (n.levels.map fun _ => 0) })) ∧
      (∀ c, j.kind = .copy c → s.bad = [] → gives (s.putJob uid { on with
        data := if c.type = 2 then getScratch scr c.idx (4 * c.ny) else []
        pos := (c.nextByte 0).map Int.toNat })))

/-- R301, R307, R313 to R315: what array words a matrix job leaves. MZERO's rows are 0 and every other word is as before; two MFLIPs leave the
planes as they were; a stream of no rows changes nothing, and one of n + 1 rows is one of n rows followed by its last row. -/
def Sys2Proof.Part.ArrayWords : Prop :=
  ∀ (a : MatArray) (scr : FMap Byte) (fmt base stride sbase n acc0 row col : Nat), col < 128 →
    (a.zeroRows n acc0).word row col = (if acc0 ≤ row ∧ row < acc0 + n then 0 else a.word row col) ∧
    a.flip.flip = a ∧ (a.load scr fmt base stride sbase).active = a.active ∧ (a.load scr fmt base stride sbase).acc = a.acc ∧
    a.stream scr fmt base stride sbase 0 acc0 = a ∧
    a.stream scr fmt base stride sbase (n + 1) acc0 =
      (a.stream scr fmt base stride sbase n acc0).passRow (arrClass fmt) ((List.range 128).map a.active.column)
        (decodeRun fmt 128 (vecAt scr fmt (base + n * stride) (sbase + 4 * n)).1 (vecAt scr fmt (base + n * stride) (sbase + 4 * n)).2)
        (acc0 + n) ∧
    (∀ cls v r, r ≠ row → (a.passRow cls ((List.range 128).map a.active.column) v r).word row col = a.word row col) ∧
    (∀ cls v, (a.passRow cls ((List.range 128).map a.active.column) v row).word row col =
      arrPass cls (a.word row col) v (a.active.column col))

/-- R141, R311, R317, R321, R404: a job's later events. A destination chunk in scratch is written at once and the barrier object counts its
bytes; a nest runs its next step, unless its workgroup stops for a save or an earlier drain step has yet to write what the step reads; a job all of whose chunks are performed leaves the queue and EN falls, its latch, if it has one,
updated first; a ring port that has been down for 1 ms ends the module matches over it with 0x0E. -/
def Sys2Proof.Part.JobsGoOn : Prop :=
  (∀ (s : State) (uid : Nat) (j : Job) (d : Drain) (a : Nat) (b : Byte) (m : FMap Byte) (r : List (FMap Byte)) (g : Workgroup),
    mapFind s.jobs uid = some j → j.started = true → j.saved = false → j.park = none → j.kind = .drain d → d.glob = false →
    j.imgs = ((a, b) :: m) :: r → mapFind s.wgs j.wg = some g →
    let now := ((a, b) :: m).filter fun e => e.1 / 32 == a / 32
    let later := ((a, b) :: m).filter fun e => !(e.1 / 32 == a / 32)
    let s' : State := { s with wgs := mapPut s.wgs j.wg { g with scratch := now.foldl (fun m e => storeSet 0 m e.1 e.2) g.scratch } }
    exec (.engineChunk uid) s = .next (s'.chunkDone uid { j with imgs := if later.isEmpty then r else later :: r } now.length)) ∧
  (∀ (s : State) (uid : Nat) (j : Job) (n : Nat),
    (j.bar = none → s.chunkDone uid j n = s.putJob uid j) ∧
    (∀ o, j.bar = some o → s.chunkDone uid j n = (s.putJob uid j).modWg j.wg fun g => { g with
      scratch := putScratch g.scratch o (leBytes 8 (arriveNat (leNat (getScratch g.scratch o 8)) n)) })) ∧
  (∀ (s : State) (uid : Nat) (j : Job), mapFind s.jobs uid = some j → j.started = true → j.saved = false → j.park = none →
    exec (.mnestStep uid) s = .next (if s.stopping j.wg = true then s else s.nestStep uid j)) ∧
  (∀ (s : State) (uid : Nat) (j : Job) (n : Nest) (af wf r : Nat) (int : Bool) (idx : List Nat),
    j.kind = .nest n af wf r int → j.idx = some idx →
    (∀ k lv, (n.iteration idx)[j.phase]? = some (k, lv) → (k ≠ .stream ∨ (s.array j.core).suits wf = true) → s.bad = [] →
      let out := n.run idx af wf r int (s.scratchOf j.wg) (s.array j.core) j.sto k lv
      s.nestStep uid j = (if n.mustWait idx af wf k lv j.imgs = true then s else (s.setArray j.core out.1).putJob uid
        { j with phase := j.phase + 1, sto := out.2.2, imgs := j.imgs ++ out.2.1.toList })) ∧
    ((n.iteration idx)[j.phase]? = none → s.nestStep uid j = s.putJob uid { j with idx := nextIdx n.levels idx, phase := 0 })) ∧
  (∀ (s : State) (uid : Nat) (j : Job), mapFind s.jobs uid = some j → j.started = true → j.saved = false → j.park = none →
    j.pos = none → j.imgs = [] → j.idx = none → j.latch = none → exec (.engineJobComplete uid) s = .next ((s.jobEnd uid j).collLeave uid)) ∧
  (∀ (s s' : State) (uid : Nat) (j : Job) (l : LatchOp) (pa : Nat), mapFind s.jobs uid = some j → j.started = true → j.saved = false →
    j.park = none → j.pos = none → j.imgs = [] → j.idx = none → j.latch = some l → pa < 2 ^ 64 →
    s.jobAddress uid j 2 l.va.toNat 16 (fun s pa => .ok s (leBytes 8 pa)) = .ok s' (leBytes 8 pa) → s'.viewNat (pa + 8) 8 = 0 →
    exec (.engineJobComplete uid) s =
      .next (((s'.latchUpdate pa l.value l.set (j.core / 96)).jobEnd uid j).collLeave uid)) ∧
  (∀ (s : State) (port : Nat), port < 18 →
    exec (.collPortTimeout port) s = .next ((s.colls.filter fun x => x.card.modSet &&
      (bitsOf (s.mgmtReg (0x91000 + 8 * x.card.set)) 47 43 == port || bitsOf (s.mgmtReg (0x91000 + 8 * x.card.set)) 42 38 == port)).foldl
        (fun s x => s.collFail x 0x0E) s))

/-! Split, fuse, queues -/

/-- R173, R174, R259 and R261: SPLIT. A width other than a power of two of 8 up to half the warp's is illegal (0x02), and a SPLIT in
handler mode with a legal width is invalid there (0x01). With a slot missing, or past 32 slots, the register gets 1 and the warp goes on whole; else the children with register 0
take its place. A child is the lanes of the parent that it is cut from, at the next instruction; child i is ready 16 · i clocks later,
which SPLIT_CHILD_READY marks. -/
def Sys2Proof.Part.WarpsSplit : Prop :=
  (∀ (f : WqF) (s : State) (t : Thread), Running s t → (Instr.splitWarp f).wf = true →
    let n := f.imm.toNat
    (n ≠ 8 ∧ n ≠ 16 ∧ n ≠ 32 ∧ n ≠ 64) ∨ t.w.width ≤ n →
      (t.Traps → exec (.splitWarp f) s = .next (t.trapped 2 (word0 (.splitWarp f)) 0)) ∧
      (¬ t.Traps → exec (.splitWarp f) s = .next (t.killed 2))) ∧
  (∀ (f : WqF) (s : State) (t : Thread), Ready s t (.splitWarp f) [.ds f.sD.toNat 1 1] true →
    let n := f.imm.toNat
    let u := t.put
    let kids := t.w.width / n
    let slots := childSlots t.w.slots (u.slotsUsed t.core) t.w.pair t.w.col n kids 0
    let held := ((u.warpsOf t.w.wg).map fun e => e.2.slots.length).sum
    let whole : State := Thread.advance { t with w := t.w.setSreg f.sD.toNat 1 } 8
    (n = 8 ∨ n = 16 ∨ n = 32 ∨ n = 64 → n < t.w.width → t.w.handler = true → exec (.splitWarp f) s = .next (t.killed 1)) ∧
    (t.w.handler = false → n = 8 ∨ n = 16 ∨ n = 32 ∨ n = 64 → n < t.w.width →
      (slots = none → exec (.splitWarp f) s = .next whole) ∧
      (∀ sl, slots = some sl → 32 < held - t.w.slots.length + kids → exec (.splitWarp f) s = .next whole) ∧
      (∀ sl, slots = some sl → held - t.w.slots.length + kids ≤ 32 → exec (.splitWarp f) s =
        .next ((t.stand.addChildren t.id (t.w.setSreg f.sD.toNat 0) n t.s.clock sl 0).settle t.w.wg)))) ∧
  (∀ (w : Warp) (i n id now l : Nat) (slots : List Nat), l < n →
    let c := w.child i n slots id now
    laneIn c.exec l = laneIn w.exec (i * n + l) ∧ laneIn c.live l = laneIn w.live (i * n + l) ∧
    laneIn c.helper l = laneIn w.helper (i * n + l) ∧ c.width = n ∧ c.famOff = w.famOff + i * n ∧ c.col = w.col + i * n ∧
    c.splitIdx = i ∧ c.pc = w.pc + 8 ∧ c.sregs = w.sregs ∧ c.mode = w.mode ∧ c.pend = w.pend ∧
    c.wake = 0 ∧ c.notBefore = (if i = 0 then 0 else now + 16 * i)) ∧
  (∀ (s : State) (id : Nat) (w : Warp), mapFind s.warps id = some w →
    exec (.splitChildReady id) s = .next { s with warps := mapPut s.warps id { w with
      notBefore := if w.notBefore ≤ s.clock then 0 else w.notBefore } })

/-- R175, R176 and R260: FUSE outside handler mode, its checks in their order; a warp that passes those that concern it alone waits in FUSE,
and so does one whose sibling waits there and that passes all; `both` writes the code in the two siblings. -/
def Sys2Proof.Part.WarpsReachFuse : Prop :=
  ∀ (f : WqF) (s : State) (t : Thread), Ready s t (.fuseWarp f) [.ds f.sD.toNat 1 1] true → t.w.handler = false →
    let gives (u : State) : Prop := exec (.fuseWarp f) s = .next u
    let code (c : Word) : State := Thread.advance { t with w := t.w.setSreg f.sD.toNat c } 8
    let mine : FuseWait := ⟨f.sD.toNat, t.w.pc + (f.vb ++ f.va).signExtend 64, f.imm.getLsbD 0⟩
    let waits : State := (Thread.stand { t with w := { t.w with fuse := some mine } }).settle t.w.wg
    let both (m : Nat × Warp) (x : FuseWait) (c : Word) : State := Thread.advance { t with
      s := { t.s with warps := mapPut t.s.warps m.1 { m.2.setSreg x.sd c with fuse := none, pc := m.2.pc + 8 } }
      w := t.w.setSreg f.sD.toNat c } 8
    (t.w.width = 128 → t.launch.image.trapvec ≠ 0 → gives (t.trapped 8 (word0 (.fuseWarp f)) 0)) ∧
    (t.w.width ≠ 128 →
      ((∀ m, t.s.sibling t.id t.w = some m → m.2.fuse = none) →
        (t.w.convergent = false → gives (code 5)) ∧
        (t.w.convergent = true → t.s.siblingLive t.id t.w = false → gives (code 1)) ∧
        (t.w.convergent = true → t.s.siblingLive t.id t.w = true →
          (f.imm.getLsbD 1 = true → gives (code 4)) ∧ (f.imm.getLsbD 1 = false → gives waits))) ∧
      (∀ m x, t.s.sibling t.id t.w = some m → mapFind t.s.warps m.1 = some m.2 → m.2.fuse = some x →
        (t.w.convergent = false → gives (both m x 5)) ∧
        (t.w.convergent = true → t.s.siblingLive t.id t.w = true →
          (∀ c, t.s.fuseCheck t.core t.g.k (t.id, t.w) m mine x = some c → gives (both m x c)) ∧
          (t.s.fuseCheck t.core t.g.k (t.id, t.w) m mine x = none → gives waits))))

/-- R177: the rendezvous of two siblings that wait in FUSE with every counter at 0 and every check passed. The lower becomes the warp of
twice the width at the target, the upper is gone. The two halves of a split warp that fuse again are its lanes. -/
def Sys2Proof.Part.WarpsFuse : Prop :=
  (∀ (s : State) (id : Nat) (w : Warp) (m : Nat × Warp) (g : Workgroup) (x y : FuseWait) (sl : List Nat),
    mapFind s.warps id = some w → w.fuse = some x → s.sibling id w = some m → m.2.fuse = some y → mapFind s.wgs w.wg = some g →
    w.pend = [] → m.2.pend = [] → w.offl = [] → m.2.offl = [] → s.fuseCheck g.core g.k (id, w) m x y = none → w.famOff < m.2.famOff →
    fuseSlot (s.slotsUsed g.core) w m.2 = some sl →
    let wake := if adjacent w m.2 = true then 0 else s.clock + g.k * w.width / 64
    exec (.fuseRendezvous id) s = .next (State.settle { s with
      warps := mapPut (mapDel s.warps m.1) id (fusedWarp w m.2 x sl wake s.clock)
      accs := takeOver s.accs m.1 id } w.wg)) ∧
  (∀ (w : Warp) (n i j now then_ : Nat) (a b c : List Nat) (f : FuseWait),
    n ∈ [8, 16, 32, 64] → w.width = 2 * n → w.exec &&& w.all = w.exec → w.live &&& w.all = w.live → w.helper &&& w.all = w.helper →
    let v := fusedWarp (w.child 0 n a i now) (w.child 1 n b j now) f c 0 then_
    v.exec = w.exec ∧ v.live = w.live ∧ v.helper = w.helper ∧ v.width = w.width ∧ v.famOff = w.famOff ∧ v.pc = f.target ∧
    v.sreg f.sd = 0)

/-- R387, HELD_TRAP_DELIVERY: the oldest held trap is taken at the PC of the running path, outside handler mode, as a trap of a boundary,
with the source that it was held with; without a handler it kills the workgroup. A warp that is in a handler keeps its traps. -/
def Sys2Proof.Part.HeldTraps : Prop :=
  ∀ (s : State) (id : Nat) (w : Warp) (g : Workgroup) (h : HeldTrap) (r : List HeldTrap),
    mapFind s.warps id = some w → mapFind s.wgs w.wg = some g → w.held = h :: r →
    let l := s.launch g.launch
    let u : Thread := ⟨s.forgetMiss g.die id w.pc, id, { w with held := r }, g⟩
    let stands : Prop := w.running = true ∧ w.block = none ∧ w.midway = false ∧ g.phase = .placed
    (stands → w.handler = false → l.image.trapvec ≠ 0 → exec (.heldTrapDelivery id) s = .next (Thread.put { u with w := { u.w with
      cause := BitVec.ofNat 32 h.cause, trappc := w.pc, trapsrc := h.src, trapaddr := h.addr, trapimm := h.imm, trapExec := w.exec
      handler := true, boundary := true, pc := l.image.base + l.image.trapvec, wake := 0, nap := false, trapWake := w.wake
      trapNap := if w.nap = true then some w.pc else none, fuse := none, stall := none } })) ∧
    (stands → w.handler = false → l.image.trapvec = 0 →
      exec (.heldTrapDelivery id) s = .next ((u.put.killWg w.wg h.cause).settle w.wg)) ∧
    (w.handler = true → exec (.heldTrapDelivery id) s = .next s)

/-- R337 and R356: the deque instructions, with room in WQ; they fence nothing here because no earlier store is outstanding. A push to a
deque with items of another context answers 3, to a full one 2; else the 16 registers go in at the owner end; a path of helper lanes alone pushes nothing. A pop takes the newest,
a steal the oldest item of a core of the die; none, or one of another context, is code 1. A victim above 95 is illegal (0x02). With a sector of the item that cannot be
read (R101) a pop or a steal takes memory error (0x0D), with no address (the model's choice, log 38), and the item's words are free. -/
def Sys2Proof.Part.Deques : Prop :=
  ∀ (f : WqF) (s : State) (t : Thread), t.storeWaits 4 = [] → t.w.stall = none → ctrVal t.w.pend .wq < 255 →
    let group := (List.range 16).map fun i => t.w.sreg (f.sB.toNat + i)
    let u : Thread := Thread.ctrPulse { t with s := { t.s with nextUid := t.s.nextUid + 1 } } .wq t.s.nextUid
    let code (c : Word) : State := Thread.advance { u with w := u.w.setSreg f.sD.toNat c } 8
    let takes (core : Nat) (x : List Word) (q : Deque) : State := Thread.advance { u with
      s := u.s.setDeque core q, w := (u.w.setSregs f.sB.toNat x).setSreg f.sD.toNat 0 } 8
    (Ready s t (.dqpush f) [.s f.sB.toNat 16 16, .ds f.sD.toNat 1 1] true → t.w.exec &&& t.w.live = 0 →
      exec (.dqpush f) s = .next (t.advance 8)) ∧
    (Ready s t (.dqpush f) [.s f.sB.toNat 16 16, .ds f.sD.toNat 1 1] true → t.w.exec &&& t.w.live ≠ 0 →
      let q := t.s.deque t.core
      (q.items ≠ [] → q.ctx ≠ t.ctx.slot → exec (.dqpush f) s = .next (code 3)) ∧
      ((q.items = [] ∨ q.ctx = t.ctx.slot) → 256 ≤ q.items.length → exec (.dqpush f) s = .next (code 2)) ∧
      ((q.items = [] ∨ q.ctx = t.ctx.slot) → q.items.length < 256 → exec (.dqpush f) s = .next (Thread.advance { u with
        s := u.s.setDeque t.core ⟨t.ctx.slot, q.items ++ [group]⟩, w := u.w.setSreg f.sD.toNat 0 } 8))) ∧
    (Ready s t (.dqpop f) [.ds f.sB.toNat 16 16, .ds f.sD.toNat 1 1] true →
      let q := t.s.deque t.core
      ((q.items = [] ∨ q.ctx ≠ t.ctx.slot) → exec (.dqpop f) s = .next (code 1)) ∧
      (∀ l x, q.items = l ++ [x] → q.ctx = t.ctx.slot →
        (t.s.bad = [] → exec (.dqpop f) s = .next (takes t.core x ⟨q.ctx, l⟩)) ∧
        (∀ v m, t.s.sramRead (.deque t.core) l.length 0x0F true = (v, m) → m ≠ 0 → t.Traps → ∃ y, exec (.dqpop f) s =
          .next (Thread.trapped { t with s := v.setDeque t.core { q with items := l ++ [y] } } 0x0D 0 0)))) ∧
    (f.imm.getLsbD 0 = false → Ready s t (.dqsteal f) [.ds f.sB.toNat 16 16, .ds f.sD.toNat 1 1, .s f.sA.toNat 1 1] true →
      let v := (t.w.sreg f.sA.toNat).toNat
      let q := t.s.deque (t.die * 96 + v)
      (96 ≤ v → t.Traps → exec (.dqsteal f) s = .next (t.trapped 2 (word0 (.dqsteal f)) 0)) ∧
      (v < 96 → (q.items = [] ∨ q.ctx ≠ t.ctx.slot) → exec (.dqsteal f) s = .next (code 1)) ∧
      (∀ x l, v < 96 → q.items = x :: l → q.ctx = t.ctx.slot →
        (t.s.bad = [] → exec (.dqsteal f) s = .next (takes (t.die * 96 + v) x ⟨q.ctx, l⟩)) ∧
        (∀ z m, t.s.sramRead (.deque (t.die * 96 + v)) 0 0x0F true = (z, m) → m ≠ 0 → t.Traps → ∃ y, exec (.dqsteal f) s =
          .next (Thread.trapped { t with s := z.setDeque (t.die * 96 + v) { q with items := y :: l } } 0x0D 0 0)))) ∧
    (f.imm.getLsbD 0 = true → Ready s t (.dqsteal f) [.ds f.sB.toNat 16 16, .ds f.sD.toNat 1 1] true →
      ∃ core, core / 96 = t.die ∧ (t.core / 96 = t.die → core ≠ t.core) ∧
        let q := t.s.deque core
        let u : Thread := { u with s := { u.s with freshCount := t.s.freshCount + 1 } }
        ((q.items = [] ∨ q.ctx ≠ t.ctx.slot) → exec (.dqsteal f) s =
          .next (Thread.advance { u with w := u.w.setSreg f.sD.toNat 1 } 8)) ∧
        (∀ x l, q.items = x :: l → q.ctx = t.ctx.slot → t.s.bad = [] → exec (.dqsteal f) s = .next (Thread.advance { u with
          s := u.s.setDeque core ⟨q.ctx, l⟩, w := (u.w.setSregs f.sB.toNat x).setSreg f.sD.toNat 0 } 8)))

namespace Sys2Proof.Machine

/-- R357's loop for QPUSH, on one lane after another: what it leaves of the thread, TAIL, and the count of lanes pushed. -/
def pushLanes (f : WqF) (q : QueueWord) : List Nat → Thread → Nat → Nat → Thread × Nat × Nat
  | [], t, tail, n => (t, tail, n)
  | l :: r, t, tail, n =>
    let k := 2 ^ q.esize
    if (tail + 2 ^ 32 - q.head) % 2 ^ 32 < q.depth then
      let x := t.setScratch q.wg (putScratch (t.scratchOf q.wg) (q.slot tail) (regBytes (t.vregs l f.va.toNat k) (4 * k)))
      pushLanes f q r (x.setVregs l f.vb.toNat [0]) ((tail + 1) % 2 ^ 32) (n + 1)
    else pushLanes f q r (t.setVregs l f.vb.toNat [2]) tail n

/-- R357's loop for QPOP: what it leaves of the thread, HEAD, and the count of lanes popped. -/
def popLanes (f : WqF) (q : QueueWord) : List Nat → Thread → Nat → Nat → Thread × Nat × Nat
  | [], t, head, n => (t, head, n)
  | l :: r, t, head, n =>
    let k := 2 ^ q.esize
    if q.tail ≠ head then
      let x := t.setVregs l f.va.toNat (wordsOf k (getScratch (t.scratchOf q.wg) (q.slot head) (4 * k)))
      popLanes f q r (x.setVregs l f.vb.toNat [0]) ((head + 1) % 2 ^ 32) (n + 1)
    else popLanes f q r (t.setVregs l f.vb.toNat [1]) head n

end Sys2Proof.Machine

/-- R318, R338 and R357: QPUSH and QPOP on a control word of the workgroup's own scratch. No lane that acts (for QPUSH no
live one): on. An invalid word or a
misaligned register is illegal (0x02), slots beyond the allocation a range fault (0x06). Else the lanes act in ascending order, the
control word gets the new TAIL or HEAD, and the register the number of lanes that moved an element. No sector holds an error (R101). That
the address of the range fault is BASE is the model's choice (log 61). -/
def Sys2Proof.Part.ScratchQueues : Prop :=
  ∀ (f : WqF) (s : State) (t : Thread) (i : Instr) (o : Nat),
    let m := if i = .qpush f then t.w.exec &&& t.w.live else t.w.exec
    let ea := (t.w.sreg f.sA.toNat).setWidth 64
    let space := if f.imm.getLsbD 0 then 2 else 1
    let q := queueWordOf t.w.wg o (leNat (getScratch t.g.scratch o 16))
    let ends (u : Thread) (head tail n : Nat) : State :=
      let x := u.setScratch t.w.wg (putScratch (u.scratchOf t.w.wg) (o + 8) (leBytes 4 head ++ leBytes 4 tail))
      Thread.advance { x with w := x.w.setSreg f.sD.toNat (BitVec.ofNat 32 n) } 8
    (i = .qpush f ∨ i = .qpop f) →
    Ready s t i [if i = .qpush f then .v f.va.toNat 1 1 else .dv f.va.toNat 1 1, .dv f.vb.toNat 1 1, .s f.sA.toNat 1 1, .ds f.sD.toNat 1 1] true →
    (m = 0 → exec i s = .next (t.advance 8)) ∧
    (∀ c, m ≠ 0 → t.spaceCheck space 16 16 ea = some c → t.Traps → exec i s = .next (t.trapped (BitVec.ofNat 32 c) ea 0)) ∧
    (m ≠ 0 → t.spaceCheck space 16 16 ea = none → t.scratchPlace space ea = .scratch t.w.wg o →
      (∀ g, mapFind t.s.wgs t.w.wg = some g → g.phase ≠ .saved) → t.accPending (.scratch t.w.wg o) 16 = false → t.s.bad = [] →
      (5 ≤ q.esize ∨ q.depth = 0 → t.Traps → exec i s = .next (t.trapped 2 (word0 i) 0)) ∧
      (q.esize < 5 → q.depth ≠ 0 →
        (t.g.alloc < q.base + q.depth * q.size → t.Traps → exec i s = .next (t.trapped 6 (BitVec.ofNat 64 q.base) 0)) ∧
        (q.base + q.depth * q.size ≤ t.g.alloc →
          (f.va.toNat % 2 ^ q.esize ≠ 0 ∨ t.g.k < f.va.toNat + 2 ^ q.esize → t.Traps → exec i s = .next (t.trapped 2 (word0 i) 0)) ∧
          (f.va.toNat % 2 ^ q.esize = 0 → f.va.toNat + 2 ^ q.esize ≤ t.g.k → ctrVal t.w.pend .wq < 255 →
            let u : Thread := Thread.ctrPulse { t with s := { t.s with nextUid := t.s.nextUid + 1 } } .wq t.s.nextUid
            (i = .qpush f → t.storeWaits 2 = [] → t.w.stall = none →
              let r := pushLanes f q (lanesOf t.w.width m) u q.tail 0
              exec i s = .next (ends r.1 q.head r.2.1 r.2.2)) ∧
            (i = .qpop f → t.accPending (.scratch t.w.wg q.base) (q.depth * q.size) = false →
              let r := popLanes f q (lanesOf t.w.width m) u q.head 0
              exec i s = .next (ends r.1 r.2.1 q.tail r.2.2))))))

/-! The Pantry, signals to graphs -/

namespace Sys2Proof.Machine

/-- The thread after a WQ instruction whose codes are written as it issues has raised and lowered WQ (R351). -/
def Thread.pulsed (t : Thread) : Thread :=
  Thread.ctrPulse { t with s := { t.s with nextUid := t.s.nextUid + 1 } } .wq t.s.nextUid

/-- The state after an enqueue of `lanes` (R341, R342): WQ rises under a fresh number, the warp goes on, the groups of equal keys go to
their homes and the arbiters take what they can. -/
def Thread.enqueues (t : Thread) (cls field : Nat) (wide nb : Bool) (lanes : List (Nat × Nat × List Word)) (dest : EnqDest) : State :=
  let uid := t.s.nextUid
  let d := (t.s.unit t.die).pantry.cls cls
  let home := if d.wide then t.s.keyHome t.die else fun _ => t.die
  let u : Thread := { t with s := { t.s with nextUid := uid + 1 }, w := { t.w with pend := t.w.pend ++ [⟨.wq, uid, false⟩] } }
  ((u.advance 8).startEnq uid
    ⟨t.id, t.w.wg, t.die, cls, field, wide, nb, groupLanes home lanes, dest, []⟩).settle t.w.wg

end Sys2Proof.Machine

/-- R341, R342, R351 and R352: PENQ and PENQ.w. No active lane: on. A class that the context may not name raises work class invalid (0x0F)
before any effect, with the class in %trapimm. Else each active lane's key and value, or the scalar key with its 16 fields, is sent. -/
def Sys2Proof.Part.Enqueues : Prop :=
  ∀ (f : WqF) (s : State) (t : Thread) (i : Instr) (ops : List Opd) (lanes : List (Nat × Nat × List Word)) (wide : Bool) (field : Nat)
    (dest : EnqDest),
    let m := t.w.exec &&& t.w.live
    let c := t.w.sreg f.sA.toNat
    let key (l : Nat) : Nat := (pairOf (t.vreg l f.va.toNat) (t.vreg l (f.va.toNat + 1))).toNat
    (i, ops, lanes, wide, field, dest) ∈
      ([(Instr.penq f, [.v f.va.toNat 2 2, .v f.vb.toNat 1 1, .s f.sA.toNat 1 1],
        (lanesOf t.w.width m).map fun l => (t.w.fam l, key l, [t.vreg l f.vb.toNat]), false, f.imm.toNat % 16, .lanes f.vb.toNat),
       (.penqW f, [.s f.va.toNat 2 2, .s f.sA.toNat 1 1, .s f.sB.toNat 16 16, .ds f.sD.toNat 1 1],
        [(0, (t.w.spair f.va.toNat).toNat, (List.range 16).map fun k => t.w.sreg (f.sB.toNat + k))], true, 0, .scal f.sD.toNat)] :
        List (Instr × List Opd × List (Nat × Nat × List Word) × Bool × Nat × EnqDest)) →
    Ready s t i ops true →
    (lanesOf t.w.width m = [] → m = 0 → exec i s = .next (t.advance 8)) ∧
    (lanesOf t.w.width m ≠ [] → m ≠ 0 →
      ((t.s.unit t.die).pantry.usable c.toNat t.ctx.slot = false → t.Traps → exec i s = .next (t.trapped 0x0F 0 c)) ∧
      ((t.s.unit t.die).pantry.usable c.toNat t.ctx.slot = true → ctrVal t.w.pend .wq < 255 →
        exec i s = .next (t.enqueues c.toNat field wide (f.imm.getLsbD 4) lanes dest)))

/-- R343: the operators. The identity of an integer operator changes nothing; LAST keeps the new value; FIRST keeps what a record holds; COUNT
adds the number of lanes to field 0 and leaves the other fields of a record that is not new. -/
def Sys2Proof.Part.FoldOperators : Prop :=
  (∀ (op : Nat) (x : Word), op ∈ [0, 2, 3, 4, 5, 6, 7, 8] → foldOp op (foldIdent op) x = x) ∧
  (∀ (op : Nat) (a b : Word), op ∈ [0, 2, 3, 4, 5, 6, 7, 8] → foldOp op a b = foldOp op b a) ∧
  (∀ a b : Word, foldOp 10 a b = b) ∧
  (∀ (wide : Bool) (f : Nat) (vals : List (List Word)) (fs : List Word), foldFields 9 false wide f vals fs = fs) ∧
  (∀ (wide : Bool) (f : Nat) (vals : List (List Word)) (x : Word) (fs : List Word),
    foldFields 12 false wide f vals (x :: fs) = (x + BitVec.ofNat 32 vals.length) :: fs) ∧
  (∀ (op f : Nat) (new : Bool) (vals : List (List Word)) (fs : List Word), op ≤ 8 ∨ op = 10 → vals ≠ [] → f < fs.length →
    foldFields op new false f vals fs = fs.set f (foldOp op (fs.getD f 0) (combine op (vals.map fun v => v.headD 0))))

/-- R8, R339, R340, R342, R345: a class descriptor is written word by word and the search for a free slot starts again at 0, class 0 ignores
it; its bits that must be zero read as 0; a
record of a SEALAGE class seals once its age is reached, under the arbiter's next stamp, and no other does. -/
def Sys2Proof.Part.PantryRecords : Prop :=
  (∀ (s : State) (die c k : Nat) (v : Dword), die < 9 → c < 64 → k < 8 →
    let u := s.unit die
    let ring := storeGet SlotRing.empty u.pantry.rings c
    (c = 0 ∨ s.isOffline die = true → exec (.pantryClassDescriptorWrite die c k v) s = .next s) ∧
    (c ≠ 0 → s.isOffline die = false → exec (.pantryClassDescriptorWrite die c k v) s =
      .next ((s.setUnit die { u with pantry := { u.pantry with
        desc := storeSet 0 u.pantry.desc (8 * c + k) v
        rings := storeSet SlotRing.empty u.pantry.rings c { ring with next := 0 } } }).pantryGo die))) ∧
  (∀ p : Pantry, p.readWord 0 0 = 0x9200100000000001 ∧ ∀ k, k ≠ 0 → p.readWord 0 k = 0) ∧
  (∀ (p : Pantry) (c : Nat), c ≠ 0 → bitsOf (p.readWord c 0) 51 48 = 0 ∧ bitsOf (p.readWord c 1) 55 20 = 0 ∧
    bitsOf (p.readWord c 1) 15 7 = 0 ∧ (∀ k, 2 ≤ k → p.readWord c k = p.word c k)) ∧
  (∀ (s : State) (die : Nat) (a b : List PantryRec) (r : PantryRec), die < 9 → (s.unit die).pantry.recs = a ++ r :: b →
    let u := s.unit die
    let d := u.pantry.cls r.cls
    (r.cls ≠ 0 ∧ r.sealNo = none ∧ d.sealAge = true ∧ d.sealVal ≠ 0 ∧ r.opentick + d.sealVal ≤ s.tick →
      exec (.recordSealAge die a.length) s = .next (s.setUnit die { u with pantry := { u.pantry with
        stamp := u.pantry.stamp + 1, recs := a ++ { r with sealNo := some u.pantry.stamp } :: b } })) ∧
    (r.cls = 0 ∨ r.sealNo.isSome = true ∨ d.sealAge = false ∨ d.sealVal = 0 ∨ s.tick < r.opentick + d.sealVal →
      exec (.recordSealAge die a.length) s = .next s))

/-- R20, R333, R341, R342: the messages of device-wide enqueues. One that reaches its live home makes its groups there ready and the arbiter
goes on; one that reaches an offline die is sent to the new home; a code message lets the enqueue go on without that home. One
whose next hop is a lost link is held. -/
def Sys2Proof.Part.PantryMessages : Prop :=
  ∀ (s : State) (a b : List CtlMsg) (src dst uid : Nat),
    let u : State := { s with ctl := a ++ b }
    (∀ c, c = .pantryEnq uid ∨ c = .pantryCode uid → s.ctl = a ++ ⟨src, dst, c⟩ :: b → s.routed src dst = false →
      exec (.pantryenq a.length) s = .next s ∧ exec (.pantrycode a.length) s = .next s) ∧
    (s.ctl = a ++ ⟨src, dst, .pantryEnq uid⟩ :: b → s.routed src dst = true →
      (mapFind s.enqs uid = none → exec (.pantryenq a.length) s = .next u) ∧
      (∀ e, mapFind s.enqs uid = some e →
        (s.isOffline dst = true → exec (.pantryenq a.length) s = .next (u.resteer uid dst)) ∧
        (s.isOffline dst = false → exec (.pantryenq a.length) s = .next (State.pantryGo { u with
          enqs := mapPut u.enqs uid { e with groups := e.groups.map fun g => { g with arrived := g.arrived || g.home == dst } } } dst)))) ∧
    (s.ctl = a ++ ⟨src, dst, .pantryCode uid⟩ :: b → s.routed src dst = true →
      (mapFind s.enqs uid = none → exec (.pantrycode a.length) s = .next u) ∧
      (∀ e, mapFind s.enqs uid = some e → exec (.pantrycode a.length) s =
        .next (State.enqCheck { u with enqs := mapPut u.enqs uid { e with waits := e.waits.filter fun h => h != src } } uid src)))

/-- R341, R344, R345, R353: PLIFT of a class of the context that is a pull class. Nothing to take: code 1, the group unchanged. Else the record
is lifted into a slot, which is read through its virtual address into the 32 registers and freed, with code 0; while the ring is full it
waits. Any other class raises 0x0F. The open records whose age is reached are sealed first (R340). -/
def Sys2Proof.Part.Lifts : Prop :=
  ∀ (f : WqF) (s : State) (t : Thread), Ready s t (.plift f) [.s f.sA.toNat 1 1, .ds f.sB.toNat 32 32, .ds f.sD.toNat 1 1] true →
    (∀ x ∈ t.s.lifts, ¬ (x.warp = t.id ∧ x.pc = t.w.pc)) →
    let c := t.w.sreg f.sA.toNat
    let aged (u : DieUnit) : State := t.s.setUnit t.die { u with pantry := u.pantry.sealDue t.s.tick u.pantry.recs.length }
    let t : Thread := { t with s := if ((t.s.unit t.die).pantry.nextDue t.s.tick).isNone = true then t.s else aged (t.s.unit t.die) }
    let p := (t.s.unit t.die).pantry
    let d := p.cls c.toNat
    (p.usable c.toNat t.ctx.slot = false ∨ d.target ≠ 2 → t.Traps → exec (.plift f) s = .next (t.trapped 0x0F 0 c)) ∧
    (p.usable c.toNat t.ctx.slot = true → d.target = 2 → ctrVal t.w.pend .wq < 255 →
      (p.pull c.toNat (f.imm.getLsbD 0) = none → exec (.plift f) s =
        .next (Thread.advance { t.pulsed with w := t.pulsed.w.setSreg f.sD.toNat 1 } 8)) ∧
      (∀ i, p.pull c.toNat (f.imm.getLsbD 0) = some i → t.put.liftRec t.die i = none → exec (.plift f) s = .next t.put) ∧
      (∀ i k w g u v pa nc, p.pull c.toNat (f.imm.getLsbD 0) = some i → t.put.liftRec t.die i = some (u, k) →
        mapFind u.warps t.id = some w → mapFind u.wgs t.w.wg = some g → w.wg = t.w.wg → w.pc = t.w.pc → ctrVal w.pend .wq < 255 →
        let lifted : Thread := { t with s := { u with lifts := u.lifts ++ [⟨t.id, t.w.pc, c.toNat, k⟩] }, w := w, g := g }
        let slot := ((lifted.s.unit lifted.die).pantry.cls c.toNat).slotVa + BitVec.ofNat 64 (128 * k)
        lifted.address 0 0 128 slot = .ok (v, pa, nc) → ctrVal v.w.pend .wq < 255 →
        (v.s.paBusy pa = true → exec (.plift f) s = .next v.put) ∧
        (v.s.paBusy pa = false →
          let r := v.pulsed
          let freed := (r.s.homeTouch (some r.die) pa 6 false).freeSlot r.die c.toNat k
          exec (.plift f) s = .next (Thread.advance { r with
            s := { freed with lifts := freed.lifts.filter fun x => !(x.warp == v.id && x.pc == v.w.pc) }
            w := (r.w.setSregs f.sB.toNat (bytesWords 32 (leBytes 128 (v.s.viewNat pa 128)))).setSreg f.sD.toNat 0 } 8))))

/-- R331, R340, R344, RECORD_DISPATCH: the first record in the order of R344 whose target can take it is dispatched, those before it stay.
With none that can, nothing but the counts of held deque dispatches changes; an offline or stopped die dispatches nothing. -/
def Sys2Proof.Part.RecordDispatch : Prop :=
  ∀ (s : State) (die : Nat), die < 9 →
    let order := (s.unit die).pantry.dispatchOrder
    let u := order.foldl (fun x i => x.countHeld die i) s
    (s.isOffline die = true ∨ s.mdl.stopped = true → exec (.recordDispatch die) s = .next s) ∧
    (s.isOffline die = false → s.mdl.stopped = false →
      ((∀ i ∈ order, u.dispatchRec die i = none) → exec (.recordDispatch die) s = .next u) ∧
      (∀ a i b v, order = a ++ i :: b → (∀ j ∈ a, u.dispatchRec die j = none) → u.dispatchRec die i = some v →
        exec (.recordDispatch die) s = .next v))

/-- R358: the graph signals. The header is read at its address, misaligned raises 0x03, one that breaks a rule of R358 raises 0x10 with its
address; a signal to an offline home waits, and replays that are refused are counted (the model's choice, log 66). A replay answers 0, or 1 when another is held; done answers 0 for a notify node that waits
and tells the home, else 2. -/
def Sys2Proof.Part.GraphSignals : Prop :=
  ∀ (f : WqF) (s : State) (t u : Thread) (i : Instr) (ops : List Opd) (pa : Nat) (nc : Bool),
    let va := t.w.spair f.sA.toNat
    let h := leBytes 64 (u.s.viewNat pa 64)
    let home := fieldAt h 13 1
    let r : Thread := { u with s := u.s.homeTouch (some u.die) pa 6 false }
    let p := r.pulsed
    ((i = .gsigReplay f ∧ ops = [.s f.sA.toNat 2 2, .ds f.sD.toNat 1 1]) ∨
      (i = .gsigDone f ∧ ops = [.s f.sA.toNat 2 2, .s f.sB.toNat 1 1, .ds f.sD.toNat 1 1])) →
    Ready s t i ops true →
    (va.toNat % 64 ≠ 0 → t.Traps → exec i s = .next (t.trapped 3 va 0)) ∧
    (va.toNat % 64 = 0 → t.address 0 0 64 va = .ok (u, pa, nc) → u.s.paBusy pa = false → u.accPending (.pa pa) 64 = false →
      (headerOk h = false → r.Traps → exec i s = .next (r.trapped 0x10 va 0)) ∧
      (headerOk h = true → r.s.isOffline home = true → exec i s = .next r.put) ∧
      (headerOk h = true → r.s.isOffline home = false → ctrVal u.w.pend .wq < 255 →
        (i = .gsigReplay f →
          let x := p.s.replay home u.ctx va (fieldAt h 12 1 == 1)
          exec i s = .next (Thread.advance { p with s := x.1, w := p.w.setSreg f.sD.toNat (BitVec.ofNat 32 x.2) } 8)) ∧
        (i = .gsigDone f →
          let node := (u.w.sreg f.sB.toNat).toNat
          let g := p.s.graphs.find? fun e => e.2.home == home && e.2.ctx.slot == u.ctx.slot && e.2.table == va
          (∀ uid x gen, g = some (uid, x) → p.s.notifyWaits uid x node = some gen → exec i s = .next (Thread.advance { p with
            s := { p.s with ctl := p.s.ctl ++ [⟨u.die, home, .graphDone uid node gen⟩] }, w := p.w.setSreg f.sD.toNat 0 } 8)) ∧
          ((g = none ∨ ∃ uid x, g = some (uid, x) ∧ p.s.notifyWaits uid x node = none) → exec i s =
            .next (Thread.advance { p with w := p.w.setSreg f.sD.toNat 2 } 8)))))

/-! Launches, placement, graphs -/

/-- R330, R331, R346 and R354: LAUNCH and the host's enqueue ports put a record into class 0. LAUNCH stamps DEPTH, the launch's own plus 1,
into the record; beyond the limit it raises 0x11, or with Q answers 4; it waits until what the warp wrote is performed; with 4 096 records
in the pool, or 32 768 in the Pantry, it stalls, or with Q answers 1. That the depth comes before the wait, and that a full pool stalls, is
the model's choice (log 62). A store to a port that is no aligned one of 64 bytes is counted and ignored; a die in recovery takes
none. -/
def Sys2Proof.Part.LaunchRecords : Prop :=
  (∀ (f : WqF) (s : State) (t : Thread), Ready s t (.launchInstr f) [.s f.sB.toNat 16 16, .ds f.sD.toNat 1 1] true →
    let depth := t.launch.depth + 1
    let p := t.pulsed
    let code (c : Word) : State := Thread.advance { p with w := p.w.setSreg f.sD.toNat c } 8
    let word (k : Nat) : Word :=
      if k = 12 then BitVec.ofNat 8 depth ++ (t.w.sreg (f.sB.toNat + 12)).extractLsb' 0 24 else t.w.sreg (f.sB.toNat + k)
    let full := 4096 ≤ t.s.poolLen t.die ∨ 32768 ≤ (t.s.unit t.die).pantry.recs.length
    let waits := t.storeWaits 4 ++ ((t.s.jobs.filter fun e => e.2.wg == t.w.wg && !e.2.writes.isEmpty).map fun e => e.1)
    (min 24 t.launch.image.maxdepth < depth →
      (f.imm.getLsbD 0 = false → t.Traps → exec (.launchInstr f) s = .next (t.trapped 0x11 0 (BitVec.ofNat 32 depth))) ∧
      (f.imm.getLsbD 0 = true → ctrVal t.w.pend .wq < 255 → exec (.launchInstr f) s = .next (code 4))) ∧
    (depth ≤ min 24 t.launch.image.maxdepth → t.w.stall = none →
      (waits ≠ [] → exec (.launchInstr f) s = .next (Thread.put { t with w := { t.w with stall := some ⟨t.w.pc, waits, 0, []⟩ } })) ∧
      (waits = [] → full → f.imm.getLsbD 0 = false → exec (.launchInstr f) s = .next t.put) ∧
      (waits = [] → full → f.imm.getLsbD 0 = true → ctrVal t.w.pend .wq < 255 →
        exec (.launchInstr f) s = .next (code 1)) ∧
      (waits = [] → ¬ full → ctrVal t.w.pend .wq < 255 →
        let u := p.s.unit t.die
        let n := u.pantry.stamp
        exec (.launchInstr f) s = .next (Thread.advance { p with
          s := p.s.setUnit t.die { u with pantry := { u.pantry with
            stamp := n + 1
            recs := u.pantry.recs ++ [⟨0, n, (List.range 16).map word, 1, 16, t.s.tick, n, some n, t.ctx.slot, t.launch.prio, false,
              .plain, false⟩] } }
          w := p.w.setSreg f.sD.toNat 0 } 8)))) ∧
  (∀ (s : State) (die off : Nat) (data : List Byte), die < 9 → 0x100000 ≤ off → off < 0x104000 →
    let gives (u : State) : Prop := exec (.launchSubmission die off data) s = .next u
    let u := s.unit die
    let n := u.pantry.stamp
    let full := 4096 ≤ s.poolLen die ∨ 32768 ≤ u.pantry.recs.length
    (s.isOffline die = true ∨ u.recovery = true ∨ s.mdl.booted = false ∨ s.mdl.stopped = true → gives s) ∧
    (s.isOffline die = false → u.recovery = false → s.mdl.booted = true → s.mdl.stopped = false →
      (off % 64 ≠ 0 ∨ data.length ≠ 64 → gives (s.count die 0x10400 false)) ∧
      (off % 64 = 0 → data.length = 64 → full → gives s) ∧
      (off % 64 = 0 → data.length = 64 → ¬ full → gives (s.setUnit die { u with pantry := { u.pantry with
        stamp := n + 1
        recs := u.pantry.recs ++ [⟨0, n, wordsOf 16 data, 1, 16, s.tick, n, some n, (off - 0x100000) / 64, 7, true, .plain, false⟩] } }))))

/-- R20, R152, R333 and R334: the messages of a launch. One whose next hop is a lost link is held. A BatchReq has the leader hand out the next batch of up to 64 workgroups in whole clusters,
to the mirror first where there is one; the mirror's record lets it go to the die; the die then places it; a batch that has ended is
taken off the record. With no further batch the die's span learns so. -/
def Sys2Proof.Part.LaunchMessages : Prop :=
  (∀ (s : State) (a b : List CtlMsg) (src dst lid lo hi die : Nat) (l : Launch), mapFind s.launches lid = some l →
    let u : State := { s with ctl := a ++ b }
    let put (x : Launch) : State := { u with launches := mapPut s.launches lid x }
    let given (d : Nat) (x : Launch) : Launch := { x with spans := x.spans.map fun y =>
      if y.die = d then { y with asked := false, todo := y.todo ++ [⟨y.rank, 0, lo, hi, 0, 1⟩] } else y }
    let at_ (c : CtlBody) : Prop := s.ctl = a ++ ⟨src, dst, c⟩ :: b ∧ s.routed src dst = true
    let marked : Launch := { l with batches := l.batches.map fun x => if x.lo = lo ∧ x.die = die then { x with acked := true } else x }
    (∀ c, s.ctl = a ++ ⟨src, dst, c⟩ :: b → s.routed src dst = false →
      ∀ i ∈ [Instr.launchfwd a.length, .batchreq a.length, .batchgrant a.length, .batchmirror a.length, .batchdone a.length],
        exec i s = .next s) ∧
    (at_ (.launchFwd lid) → exec (.launchfwd a.length) s = .next u) ∧
    (at_ (.batchReq lid) →
      (l.nextBatch = none → exec (.batchreq a.length) s = .next (put { l with spans := l.spans.map fun y =>
        if y.die = src then { y with asked := false, dry := true } else y })) ∧
      (∀ l', l.nextBatch = some (lo, hi, l') →
        let l'' : Launch := { l' with batches := l'.batches ++ [⟨src, lo, hi, hi - lo, l'.mirror.isNone⟩] }
        (∀ m, l'.mirror = some m →
          exec (.batchreq a.length) s = .next ((put l'').tell l'.leader m (.batchMirror lid lo hi src))) ∧
        (l'.mirror = none → src = l'.leader → exec (.batchreq a.length) s = .next (put (given src l''))) ∧
        (l'.mirror = none → src ≠ l'.leader →
          exec (.batchreq a.length) s = .next ((put l'').tell l'.leader src (.batchGrant lid lo hi))))) ∧
    (at_ (.batchGrant lid lo hi) → exec (.batchgrant a.length) s = .next (put (given dst l))) ∧
    (at_ (.batchMirror lid lo hi die) → die = l.leader → exec (.batchmirror a.length) s = .next (put (given die marked))) ∧
    (at_ (.batchMirror lid lo hi die) → die ≠ l.leader →
      exec (.batchmirror a.length) s = .next ((put marked).tell l.leader die (.batchGrant lid lo hi))) ∧
    (at_ (.batchDone lid lo hi die) →
      exec (.batchdone a.length) s = .next (put { l with batches := l.batches.filter fun x => !(x.lo == lo && x.die == die) }))) ∧
  (∀ l : Launch, l.lost = false → l.again = [] →
    let nc := levelProduct l.levels 2
    let hi := min nc (l.nextIdx + 64 / l.image.cluster * l.image.cluster)
    (nc ≤ l.nextIdx → l.nextBatch = none) ∧ (l.nextIdx < nc → l.nextBatch = some (l.nextIdx, hi, { l with nextIdx := hi })))

/-- R155, R156, R335: WORKGROUP_PLACEMENT and WORKGROUP_RESTORE on a die: one step of its placement, a new workgroup or cluster in the one, a
pre-empted workgroup in the other. Spans that have run out ask for batches before a placement. The first launch in order of priority and
acceptance that can place something does, if those before it have nothing to place or are held back; one that finds no room begins to
wait, and 100 µs later PLACEMENT_BLOCK_TIMEOUT marks it as holding back others: a younger launch of its priority or a lower one is then
passed over. One with nothing to place no longer waits. A die that may not place (offline, stopped, in recovery or under warm
reset) places nothing. -/
def Sys2Proof.Part.PlacementOrder : Prop :=
  (∀ (s u : State) (die : Nat) (i : Instr) (saved : Bool), die < 9 →
    (i, saved, u) ∈ [(Instr.workgroupPlacement die, false, s.askAll die), (.workgroupRestore die, true, s)] →
    let calm (v : State) (k : Nat) : State := v.setLaunch k ((v.launch k).modSpan die fun y => { y with since := none, blocking := false })
    let blocks (k : Nat) : Bool := ((u.launch k).span die).any fun y => y.blocking
    let passed (l : List (Nat × Launch)) : Prop := ∀ x ∈ l,
      (u.tryPlace die x.1 = .nothing ∧ calm u x.1 = u) ∨ (u.tryPlace die x.1 = .held ∧ blocks x.1 = false)
    (s.placing die = false → exec i s = .next s) ∧
    (s.placing die = true →
      (passed (u.inOrder die) → exec i s = .next u) ∧
      (∀ a e b v, u.inOrder die = a ++ e :: b → passed a → u.tryPlace die e.1 = .placed v →
        exec i s = .next (if (u.savedOf e.1 die).isEmpty = saved then u else calm v e.1)) ∧
      (∀ e, u.inOrder die = [e] → u.tryPlace die e.1 = .nothing → exec i s = .next (calm u e.1)) ∧
      (∀ e x, u.inOrder die = [e, x] → u.tryPlace die e.1 = .held → blocks e.1 = true → (u.launch e.1).order < x.2.order →
        x.2.prio ≤ (u.launch e.1).prio → exec i s = .next u) ∧
      (∀ e, u.inOrder die = [e] → u.tryPlace die e.1 = .noRoom → exec i s =
        .next (u.setLaunch e.1 ((u.launch e.1).modSpan die fun x => { x with since := some (x.since.getD u.tick) }))))) ∧
  (∀ (s : State) (die : Nat), die < 9 → exec (.placementBlockTimeout die) s = .next { s with
    launches := s.launches.map fun e => (e.1, { e.2 with spans := e.2.spans.map fun x =>
      { x with blocking := x.blocking || (decide (x.die = die) && x.since.any fun t => decide (t + 100000 ≤ s.tick)) } }) })

/-- R336, R390 and R392: PREEMPTION saves the first stopped workgroup of the die that has drained; while one is stopped and has not, it does
nothing; with none stopped, the first launch in order that finds no room, and has victims for which the save areas have room, has them
stopped. A launch with a pre-empted workgroup has it restored before anything new: on the core that can take it, those of a co-resident
launch together (the model's choice, logs 43 and 44, with when victims are stopped); a workgroup whose image has changed is killed. -/
def Sys2Proof.Part.SavesAndRestores : Prop :=
  ∀ (s : State) (die : Nat), die < 9 →
    let stopped := s.wgs.filter fun e => e.2.die == die && decide (e.2.phase = .draining)
    let cores := (List.range 96).map fun c => die * 96 + c
    (∀ a e b, stopped = a ++ e :: b → (∀ x ∈ a, s.drained x.1 = false) → s.drained e.1 = true →
      exec (.preemption die) s = .next (s.saveWg e.1)) ∧
    ((∀ e ∈ stopped, s.drained e.1 = false) →
      let stays (e : Nat × Launch) : Prop := s.tryPlace die e.1 ≠ .noRoom ∨ s.chooseVictims die e.1 e.2 = none ∨
        ∃ ids, s.chooseVictims die e.1 e.2 = some ids ∧ s.preempt ids = none
      (stopped ≠ [] ∨ s.placing die = false ∨ s.reg die 0x10308 = 0 → exec (.preemption die) s = .next s) ∧
      ((∀ e ∈ s.inOrder die, stays e) → exec (.preemption die) s = .next s) ∧
      (∀ a e b ids v, stopped = [] → s.placing die = true → s.reg die 0x10308 ≠ 0 → s.inOrder die = a ++ e :: b → (∀ x ∈ a, stays x) →
        s.tryPlace die e.1 = .noRoom → s.chooseVictims die e.1 e.2 = some ids → s.preempt ids = some v →
        exec (.preemption die) s = .next v ∧
        v = { s with wgs := s.wgs.map fun x => if x.1 ∈ ids then (x.1, { x.2 with phase := .draining }) else x })) ∧
    let free (c : Nat) : Bool := (s.core c).resize.isNone
    (∀ e r, ((s.launch e.2.launch).span die).isSome = true → s.savedOf e.2.launch die = e :: r → e.2.die = die →
      mapFind s.wgs e.1 = some e.2 →
      (e.2.phase = .draining → s.tryPlace die e.2.launch = .noRoom) ∧
      (e.2.phase = .saved → (s.launch e.2.launch).coop = false →
        ((∀ c ∈ cores, free c = false ∨ s.restoreFit e.1 e.2 c = none) → s.tryPlace die e.2.launch = .noRoom) ∧
        (∀ c b ps, c ∈ cores → (∀ k ∈ cores, k ≠ c → free k = false ∨ s.restoreFit e.1 e.2 k = none) → free c = true →
          s.restoreFit e.1 e.2 c = some (b, ps) → (s.slotsUsed c).length ≤ 64 →
          s.tryPlace die e.2.launch = .placed (s.restoreWg e.1 e.2 c b ps))) ∧
      (e.2.phase = .saved → (s.launch e.2.launch).coop = true →
        let mine := s.wgs.filter fun x => x.2.launch == e.2.launch && decide (x.2.phase ≠ .ended)
        ((∃ x ∈ mine, x.2.phase ≠ .saved ∨ s.placing x.2.die = false) → s.tryPlace die e.2.launch = .noRoom) ∧
        (∀ v, (∀ x ∈ mine, x.2.phase = .saved ∧ s.placing x.2.die = true) → restoreAll free (mine.map fun x => x.1) s = some v →
          s.tryPlace die e.2.launch = .placed v))) ∧
    (∀ id g c b ps,
      (g.image = none → s.restoreWg id g c b ps = s.rebuildWg id g c b ps) ∧
      (∀ i, g.image = some i →
        let u := s.imageTouch i.runs false
        (s.imageOk i = true → s.restoreWg id g c b ps = u.rebuildWg id g c b ps) ∧
        (s.imageOk i = false → s.restoreWg id g c b ps = u.dropSaved id)))

/-- R153, R332, R388, R389: LAUNCH_COMPLETION ends a launch all of whose workgroups have ended, with status 0, 7 with die and cause of its first
kill, or 8; it makes again the update of a completion latch that had to wait. WORKGROUP_WATCHDOG traps (0x15) in the first warp of a
workgroup that has issued nothing for its limit. -/
def Obligations.EndsAndWatchdog : Prop :=
  (∀ (s : State) (uid : Nat),
    (∀ u, mapFind s.upds uid = some u → u.park = none → exec (.launchCompletion uid) s = .next (s.latchTry uid u)) ∧
    (∀ u p, mapFind s.upds uid = some u → u.park = some p → exec (.launchCompletion uid) s = .next s) ∧
    (∀ l, mapFind s.upds uid = none → mapFind s.launches uid = some l →
      (s.launchOver uid l = false → exec (.launchCompletion uid) s = .next s) ∧
      (s.launchOver uid l = true → exec (.launchCompletion uid) s = .next (State.launchEnds (State.latchRelease { s with
        launches := mapDel s.launches uid, wgs := s.wgs.filter fun e => e.2.launch != uid } l.leader l.ctx l.latch l.status .launch)
          l.leader l.purpose l.status)))) ∧
  (∀ (l : Launch) (d c : Nat), (l.kill = none → l.lost = false → l.status = 2 ^ 31) ∧
    (l.kill = some (d, c) → l.lost = false → l.status = 2 ^ 31 + 7 * 2 ^ 16 + d * 2 ^ 8 + c) ∧
    (l.lost = true → l.kill = none → l.status = 2 ^ 31 + 8 * 2 ^ 16)) ∧
  (∀ (s : State) (wg : Nat) (g : Workgroup), mapFind s.wgs wg = some g →
    let n := s.reg g.die 0x80100 % 2 ^ 32
    (g.phase ≠ .placed ∨ n = 0 ∨ s.tick < g.active + n * 1000 → exec (.workgroupWatchdog wg) s = .next s) ∧
    (∀ e, g.phase = .placed → n ≠ 0 → g.active + n * 1000 ≤ s.tick → s.warpsOf wg = [e] → e.2.ended = false → e.2.warpid ≤ 32 →
      e.2.running = true → e.2.midway = false →
      let t : Thread := ⟨s, e.1, e.2, g⟩
      e.2.wg = wg → t.Traps → exec (.workgroupWatchdog wg) s = .next (t.trapped 0x15 0 0)))

/-- R62 to R66: the carve-out of a core. Growing writes back the lines of the surrendered ways and turns them into scratch, and the workgroups
that waited for it may issue; shrinking, while no placement waits for the core, gives the ways above the highest allocation back to
L1. -/
def Sys2Proof.Part.CarveOuts : Prop :=
  ∀ (s : State) (core : Nat),
    let k := s.core core
    let n := carveOf (gransHi (s.gransOn core))
    (k.resize = none → exec (.carveoutGrow core) s = .next s) ∧
    (∀ r, k.resize = some r →
      let keys := (k.l1.filter fun e => decide (16 - r.target ≤ e.1 % 16) && decide (e.1 % 16 < 16 - k.carve)).map fun e => e.1
      let u := keys.foldl (fun x e => x.l1Evict core e) s
      let v := u.setCore core { u.core core with carve := r.target, resize := none }
      exec (.carveoutGrow core) s = .next { v with wgs := v.wgs.map fun e =>
        (e.1, if e.2.core = core ∧ e.2.phase = .growing then { e.2 with phase := .placed } else e.2) }) ∧
    (k.resize.isSome = true ∨ k.carve ≤ n ∨ s.coreWanted core = true → exec (.carveoutShrink core) s = .next s) ∧
    (k.resize = none → n < k.carve → s.coreWanted core = false → exec (.carveoutShrink core) s = .next (s.setCore core { k with carve := n }))

/-- R347 to R350 and R358: the graph engines. A held replay takes effect when no run goes on and, if FRAMED, its edge has come; the run
begins, and then its first nodes are found; a ready node's
action is issued at start + RELOFF; a completion brings down the counters of the successors; a node that is not complete at start +
DEADOFF is late. An engine that waits for a fault, or whose home is offline, does none of this. A replay that has waited for a free entry
(R350) starts when it takes effect; a run that is ending waits for its slip log only. -/
def Sys2Proof.Part.GraphRuns : Prop :=
  ∀ (s : State) (k node : Nat) (g : Graph), mapFind s.graphs k = some g →
    (∀ n frame, g.ending = some (n, frame) →
      (g.park.isSome = true ∨ s.isOffline g.home = true → exec (.graphRunStart k) s = .next s) ∧
      (∀ u, g.park = none → s.isOffline g.home = false → g.slip s frame n 0xFFFFFFFF = .ok u →
        exec (.graphRunStart k) s = .next (u.runOver k { g with ending := none })) ∧
      (g.park = none → s.isOffline g.home = false → g.slip s frame n 0xFFFFFFFF = .error .busy →
        exec (.graphRunStart k) s = .next { s with graphs := mapPut s.graphs k g }) ∧
      (∀ r, g.run = some r → exec (.graphNodeRelease k node) s = .next s)) ∧
    (∀ r, g.held = some r → g.ending = none →
      let start := if r.framed = true then r.edge.map fun e => e.1 else some (if r.waited = true then s.tick else r.arrived)
      let before := s.graphs.filter fun e => e.2.home == g.home && decide (e.1 < k)
      (g.run = none → g.park.isSome = true ∨ 256 ≤ before.length ∨ s.isOffline g.home = true →
        exec (.graphRunStart k) s = .next s) ∧
      (g.run = none → g.park = none → before.length < 256 → s.isOffline g.home = false →
        (start = none → exec (.graphRunStart k) s = .next s) ∧
        (∀ x, start = some x → s.tick < x → exec (.graphRunStart k) s = .next s) ∧
        (∀ x u, start = some x → x ≤ s.tick → g.begin_ s k x r = .ok u → exec (.graphRunStart k) s = .next (u.graphRoot k)))) ∧
    (∀ r, g.run = some r → g.ending = none →
      (r.rooted = true ∨ g.park.isSome = true ∨ s.isOffline g.home = true → exec (.graphRunStart k) s = .next s) ∧
      (∀ u, r.rooted = false → g.park = none → s.isOffline g.home = false → g.root s k r = .ok u →
        exec (.graphRunStart k) s = .next u)) ∧
    (∀ r, g.run = some r → g.ending = none → g.park = none → s.isOffline g.home = false →
      (node ∉ r.ready → exec (.graphNodeRelease k node) s = .next s) ∧
      (∀ u n, node ∈ r.ready → g.node s node = .ok (u, n) →
        (s.tick < r.start + n.rel → exec (.graphNodeRelease k node) s = .next s) ∧
        (∀ v, r.start + n.rel ≤ s.tick → g.issue_ u k r node n = .ok v → exec (.graphNodeRelease k node) s = .next v)) ∧
      (∀ a b src dst, s.ctl = a ++ ⟨src, dst, .graphDone k node r.gen⟩ :: b → s.routed src dst = true →
        let u : State := { s with ctl := a ++ b }
        (node ∉ r.issued ∨ node ∈ r.finished → exec (.graphdone a.length) s = .next u) ∧
        (∀ v, node ∈ r.issued → node ∉ r.finished → g.nodeDone u k r node = .ok v → exec (.graphdone a.length) s = .next v))) ∧
    (∀ r u h v n, g.run = some r → g.header s = .ok (u, h) → g.node u node = .ok (v, n) → node < fieldAt h 8 4 →
      (node ∈ r.finished ∨ node ∈ r.late ∨ n.dead = 0xFFFFFFFF ∨ s.tick < r.start + n.dead →
        exec (.graphDeadlineSlip k node) s = .next s) ∧
      (node ∉ r.finished → node ∉ r.late → n.dead ≠ 0xFFFFFFFF → r.start + n.dead ≤ s.tick →
        exec (.graphDeadlineSlip k node) s =
          .next { v with graphs := mapPut v.graphs k { g with run := some { r with late := r.late ++ [node] } } }))

/-- R358 and R415: a store to a replay port. The header is read through the context of its slot and checked as GSIG checks it; a store that
cannot be served is counted and ignored, one whose home is offline waits. -/
def Sys2Proof.Part.ReplayPorts : Prop :=
  ∀ (s : State) (die slot : Nat) (v : Dword), die < 9 → slot < 256 →
    let gives (u : State) : Prop := exec (.graphReplayPort die slot v) s = .next u
    let counted : State := s.count die 0x10418 true
    (s.isOffline die = true ∨ (s.unit die).recovery = true ∨ s.mdl.booted = false → gives s) ∧
    (s.isOffline die = false → (s.unit die).recovery = false → s.mdl.booted = true →
      (s.readCtx slot = none → gives counted) ∧
      (∀ c, s.readCtx slot = some c →
        (v.toNat % 64 ≠ 0 → gives counted) ∧
        (v.toNat % 64 = 0 →
          (s.partRead 6 die c v 64 = .error .busy → gives s) ∧
          (∀ e, s.partRead 6 die c v 64 = .error e → e ≠ .busy → gives counted) ∧
          (∀ u h, s.partRead 6 die c v 64 = .ok (u, h) →
            (headerOk h = false → gives counted) ∧
            (headerOk h = true → u.isOffline (fieldAt h 13 1) = true → gives u) ∧
            (headerOk h = true → u.isOffline (fieldAt h 13 1) = false →
              gives (u.replay (fieldAt h 13 1) c v (fieldAt h 12 1 == 1)).1)))))

/-! Graphics instructions -/

namespace Sys2Proof.Machine

/-- The lanes on which a GX instruction acts, as a mask and in order (R377). -/
def gxMask (t : Thread) (f : GxF) : LaneMask :=
  if f.gen then t.w.exec &&& (if f.ginv then ~~~t.w.group f.gs.toNat else t.w.group f.gs.toNat) else t.w.exec
def gxList (t : Thread) (f : GxF) : List Nat := lanesOf t.w.width (gxMask t f)
def gxGuard (f : GxF) : List Opd := if f.gen then [.m f.gs.toNat] else []

/-- The access by which results `rs` of lanes, known as the instruction issues, reach four registers. -/
def gxGiven (u : Thread) (vd : Nat) (rs : List (Nat × List Word)) : Access :=
  u.access u.w.exec .given 16 0 0 false (.vec vd 4) (rs.map fun r =>
    ⟨u.w.fam r.1, 0, 0, .pa (2 ^ 60 + r.1 * 64), false, regBytes r.2 16, false, false, none⟩)

/-- A tap's texel, from what the texels that are read hold; zeros in the border (R370). -/
def texelOf (d : TexDesc) (reads : List (Nat × Nat × Nat)) (raws : List Nat) (x : Tap) : Texel :=
  match x.at_ with
  | none => [0, 0, 0, 0]
  | some p => (((reads.zip raws).find? fun g => g.1 == (x.level, p)).map fun g => d.texel g.2 (d.place p)).getD [0, 0, 0, 0]

/-- An instruction that reads texels and sums them by weight in each lane (R371, R378). -/
def SampleGives (i : Instr) (s : State) (t : Thread) (d : TexDesc) (vd : Nat) (ls : List (Nat × List Tap × Nat)) : Prop :=
  let reads := ls.flatMap fun e => tapReads e.2.1
  ∀ u raws, t.gxLoad d.unit (reads.map fun r => d.address r.1 r.2) = .ok (u, raws) →
    AccessGives i s u (some .gx)
      (gxGiven u vd (ls.map fun e => (e.1, weighted e.2.2 (e.2.1.map fun x => (x.weight, texelOf d reads raws x))))) 8

end Sys2Proof.Machine

/-- R370, R371, R377 and R378: TEX and TEXF. No lane: on. A descriptor or sampler with an invalid value is an illegal operand (0x02). Else each
lane's taps are read and their weighted sum, rounded once, goes to its four registers; TEXF takes one texel, zeros outside the level. -/
def Sys2Proof.Part.TexturesSample : Prop :=
  ∀ (f : GxF) (s : State) (t : Thread),
    let words := (List.range 8).map fun k => t.w.sreg (f.sdesc.toNat + k)
    let more := (List.range 4).map fun k => t.w.sreg (f.sdesc.toNat + 8 + k)
    (Ready s t (.tex f) ([.dv f.vd.toNat 4 4, .v f.va.toNat (if f.mode = 1 then 3 else if f.mode = 2 then 6 else 2) 2,
        .s f.sdesc.toNat 12 4] ++ gxGuard f) true →
      (gxMask t f = 0 → exec (.tex f) s = .next (t.advance 8)) ∧
      (gxMask t f ≠ 0 → (texDescOf words = none ∨ samplerOf more = none) → t.Traps →
        exec (.tex f) s = .next (t.trapped 2 (word0 (.tex f)) 0)) ∧
      (∀ d p, gxMask t f ≠ 0 → texDescOf words = some d → samplerOf more = some p →
        SampleGives (.tex f) s t d f.vd.toNat ((gxList t f).map fun l => (l, (t.texAsk f d l).taps p d)))) ∧
    (Ready s t (.texf f) ([.dv f.vd.toNat 4 4, .v f.va.toNat 3 2, .s f.sdesc.toNat 8 4] ++ gxGuard f) true →
      (gxMask t f = 0 → exec (.texf f) s = .next (t.advance 8)) ∧
      (gxMask t f ≠ 0 → texDescOf words = none → t.Traps → exec (.texf f) s = .next (t.trapped 2 (word0 (.texf f)) 0)) ∧
      (∀ d, gxMask t f ≠ 0 → texDescOf words = some d →
        SampleGives (.texf f) s t d f.vd.toNat ((gxList t f).map fun l =>
          let x := (t.vreg l f.va.toNat).toInt
          let y := (t.vreg l (f.va.toNat + 1)).toInt
          let k := (t.vreg l (f.va.toNat + 2)).toInt
          (l, [⟨k.toNat, (if 0 ≤ k ∧ k < d.levels ∧ 0 ≤ x ∧ x < d.wAt k.toNat ∧ 0 ≤ y ∧ y < d.hAt k.toNat
            then some (x.toNat, y.toNat) else none), 2 ^ 24⟩], 1))))

/-- R370: the address modes on a level of `n` texels. Wrap takes the coordinate modulo n, clamp the nearest texel, mirror reflects it, border
gives no texel outside; every texel that is given lies in the level. -/
def Sys2Proof.Part.TexelAddressModes : Prop :=
  ∀ (mode n : Nat) (i : Int), 0 < n → mode < 4 →
    (∀ k, wrapTexel mode n i = some k → k < n) ∧
    (0 ≤ i → i < n → wrapTexel mode n i = some i.toNat) ∧
    wrapTexel 0 n (i + n) = wrapTexel 0 n i ∧
    (i < 0 → wrapTexel 1 n i = some 0) ∧ (n ≤ i → wrapTexel 1 n i = some (n - 1)) ∧
    wrapTexel 2 n (-1 - i) = wrapTexel 2 n i ∧ wrapTexel 2 n (i + 2 * n) = wrapTexel 2 n i ∧
    (i < 0 ∨ n ≤ i → wrapTexel 3 n i = none)

/-- R373, R374, R377 and R379: TRAV. No lane: on. The tree is walked from its root; an invalid node raises job card invalid (0x10), a misaligned one
misaligned (0x03), with its address. Each lane gets the first hit that counts of the triangles that are met, or the values for none. A
triangle of no area is never hit. -/
def Obligations.TraceRays : Prop :=
  (∀ (f : GxF) (s : State) (t : Thread), Ready s t (.trav f)
      ([.dv f.vd.toNat 4 4, .v f.va.toNat 8 8, .s f.sdesc.toNat 4 4] ++
        (if f.flags.getLsbD 0 then [.v f.vd.toNat 1 1] else []) ++ gxGuard f) true →
    let root := t.w.spair f.sdesc.toNat
    let walk := walkTree root (t.w.spair (f.sdesc.toNat + 2)) 64 root t
    (gxMask t f = 0 → exec (.trav f) s = .next (t.advance 8)) ∧
    (∀ u c a m, gxMask t f ≠ 0 → walk = .error (.trap u c a m) → u.Traps →
      exec (.trav f) s = .next (u.trapped (BitVec.ofNat 32 c) a m)) ∧
    (∀ u tris, gxMask t f ≠ 0 → walk = .ok (u, tris) →
      AccessGives (.trav f) s u (some .gx) (gxGiven u f.vd.toNat ((gxList t f).map fun l =>
        let ray (k : Nat) : Nat := (u.vreg l (f.va.toNat + k)).toNat
        let hits := tris.filterMap fun x => (rayHit [ray 0, ray 1, ray 2] [ray 4, ray 5, ray 6] x).bind fun h =>
          if h.counts (f.flags.getLsbD 0) (u.vreg l (f.va.toNat + 3)) (u.vreg l (f.va.toNat + 7)) (u.vreg l f.vd.toNat) = true then some h
          else none
        (l, match firstHit hits with
          | some h => [BitVec.ofNat 32 h.prim, BitVec.ofNat 32 h.t, BitVec.ofNat 32 h.u, BitVec.ofNat 32 h.v]
          | none => [0xFFFFFFFF#32, 0x7F800000#32, 0, 0]))) 8)) ∧
  (∀ (org dir a b : List Nat) (p k m : Nat), a.length = 3 → b.length = 3 → rayHit org dir ⟨a ++ a ++ b, p, k, m⟩ = none) ∧
  (∀ l : List Hit, (firstHit l = none ↔ l = []) ∧ ∀ h, firstHit l = some h → h ∈ l)

/-- R367 and R381: KILL outside a fragment wave takes its lanes out of live, helper and exec; with no lane it goes on. In a fragment wave it takes
the live ones of its lanes, whose fragments are retired unless they have been accepted. It never traps. That one which leaves no lane in
handler mode goes on there is the model's choice (log 51). -/
def Sys2Proof.Part.KillLanes : Prop :=
  (∀ (f : GxF) (s : State) (t : Thread), Ready s t (.kill f) (gxGuard f) true →
    let m := gxMask t f
    let next : Thread := { t with w := { t.w with pc := t.w.pc + 8, stall := none } }
    let live := t.w.live &&& ~~~m
    let left := live ||| (t.w.helper &&& ~~~m)
    let gone : Warp := { t.w with
      pc := t.w.pc + 8, stall := none, live := live, helper := t.w.helper &&& ~~~m, exec := t.w.exec &&& left
      paths := joinEval live (maskPaths left t.w.paths) }
    let ends (w : Warp) : Prop := exec (.kill f) s = .next ((Thread.stand { t with w := w }).settle t.w.wg)
    (m = 0 → exec (.kill f) s = .next (t.advance 8)) ∧
    (m ≠ 0 → t.g.frags = [] →
      (left = 0 → ends gone.endAll) ∧ (left ≠ 0 → t.w.exec &&& left ≠ 0 → ends gone) ∧
      (left ≠ 0 → t.w.exec &&& left = 0 → t.w.running = true → t.w.handler = false → ends (gone.switch t.s.clock)) ∧
      (left ≠ 0 → t.w.exec &&& left = 0 → t.w.handler = true → ends gone)) ∧
    (m ≠ 0 → t.g.frags ≠ [] → exec (.kill f) s = .next ((next.removeLanes (m &&& t.w.live) true).stand.settle t.w.wg))) ∧
  (∀ (t : Thread) (m : LaneMask) (l : Nat) (x : Frag), l < t.w.width → mapFind t.g.frags (t.w.famOff + l) = some x →
    mapFind (t.retire m).g.frags (t.w.famOff + l) = some { x with retired := x.retired || (laneIn m l && !x.accepted) })

/-- R382: VISR. With `.own` outside a fragment wave it is illegal (0x02). Without it each lane reads the entry of its pixel, 8 bytes each, a
lane outside the buffer gets the cleared entry. The order of its checks is the model's choice (log 71). -/
def Sys2Proof.Part.VisibilityReads : Prop :=
  ∀ (f : GxF) (s : State) (t : Thread), Ready s t (.visr f)
      ([.dv f.vd.toNat 2 2, .s f.sdesc.toNat 4 4] ++ (if f.mode = 0 then [.v f.va.toNat 2 2] else []) ++ gxGuard f) true →
    let base := t.w.spair f.sdesc.toNat
    let w := (t.w.sreg (f.sdesc.toNat + 2)).toNat
    let h := (t.w.sreg (f.sdesc.toNat + 3)).toNat
    let entry (x y : Int) : Option Dword :=
      if 0 ≤ x ∧ x < w ∧ 0 ≤ y ∧ y < h then some (base + BitVec.ofNat 64 (8 * (y.toNat * w + x.toNat))) else none
    let type4 : Prop := ∃ j, t.frameJob = some j ∧ j.desc.headD 0 = 4
    let reads (at_ : Nat → Option Dword) : Prop :=
      let some_ := (gxList t f).filterMap fun l => (at_ l).map fun a => (l, a)
      let none_ := (gxList t f).filter fun l => (at_ l).isNone
      ∀ u ps, t.places 1 0 0 8 8 some_ = .ok (u, ps) →
        let v := none_.foldl (fun x l => x.setVregs l f.vd.toNat [0x7F800000#32, 0xFFFFFFFF#32]) u
        AccessGivesOr u.put (.visr f) s v (some .gx) { v.access v.w.exec .load 8 0 0 false (.vec f.vd.toNat 2)
          ((some_.zip ps).flatMap fun e => laneParts (v.w.fam e.1.1) e.1.2 e.2 1 8 [] false) with side := 1 } 8
    (gxMask t f = 0 → exec (.visr f) s = .next (t.advance 8)) ∧
    (gxMask t f ≠ 0 → f.mode = 1 → t.g.frags = [] → t.Traps → exec (.visr f) s = .next (t.trapped 2 (word0 (.visr f)) 0)) ∧
    (gxMask t f ≠ 0 → f.mode = 0 → reads fun l => entry (t.vreg l f.va.toNat).toInt (t.vreg l (f.va.toNat + 1)).toInt) ∧
    (gxMask t f ≠ 0 → f.mode = 1 → t.g.frags ≠ [] → ¬ type4 →
      reads fun l => (mapFind t.g.frags (t.w.famOff + l)).bind fun x => entry x.px x.py) ∧
    (gxMask t f ≠ 0 → f.mode = 1 → t.g.frags ≠ [] → type4 → ∀ u ps, t.places 1 0 0 8 8 [] = .ok (u, ps) →
      ∃ free : Nat → Dword,
        let value (l : Nat) : Dword := match mapFind t.g.frags (t.w.famOff + l) with
          | some x => if x.help then free l else x.vis
          | none => 0xFFFFFFFF7F800000#64
        let v := (gxList t f).foldl (fun x l => x.setVregs l f.vd.toNat [loWord (value l), hiWord (value l)]) u
        let v' : Thread := { v with s := { v.s with freshCount := v.s.freshCount + 128 } }
        AccessGivesOr u.put (.visr f) s v' (some .gx)
          { v'.access v'.w.exec .load 8 0 0 false (.vec f.vd.toNat 2) [] with side := 1 } 8)

/-- R368, R369 and R380: EMIT. Outside a fragment wave, with an invalid target, or for a lane whose fragment has been accepted, it is illegal
(0x02). With no acting lane it goes on. Until every lane can be accepted and the queues have room its path waits; then the colours enter
the blend queue of their tile in lane order. The order of its checks is the model's choice (log 71). -/
def Sys2Proof.Part.EmitFragments : Prop :=
  ∀ (f : GxF) (s : State) (t : Thread), Ready s t (.emit f) ([.v f.va.toNat 4 4, .s f.sdesc.toNat 4 4] ++ gxGuard f) true →
    gxMask t f ≠ 0 →
    let ls := lanesOf t.w.width (gxMask t f &&& t.w.live)
    let frag (l : Nat) : Option Frag := mapFind t.g.frags (t.w.famOff + l)
    let words := (List.range 4).map fun k => t.w.sreg (f.sdesc.toNat + k)
    let px (l : Nat) : Nat × Nat := ((frag l).map fun x => (x.px, x.py)).getD (0, 0)
    let waits : State := Thread.put { t with w := t.w.waitHere t.s.clock }
    (t.g.frags = [] ∨ targetOf words = none → t.Traps → exec (.emit f) s = .next (t.trapped 2 (word0 (.emit f)) 0)) ∧
    (∀ rt die j, t.g.frags ≠ [] → targetOf words = some rt → t.launch.purpose = .frame die → (t.s.unit die).frame = some j →
      let u := t.s.unit die
      let queued (q : Nat) : Nat := (ls.filter fun l => blendQueue (px l).1 (px l).2 == q).length
      let room := u.blend0.length + queued 0 ≤ 4096 ∧ u.blend1.length + queued 1 ≤ 4096
      ((∃ l ∈ ls, ∀ x, frag l = some x → x.accepted = true) → t.Traps → exec (.emit f) s = .next (t.trapped 2 (word0 (.emit f)) 0)) ∧
      ((∀ l ∈ ls, ∃ x, frag l = some x ∧ x.accepted = false) →
        (ls = [] → exec (.emit f) s = .next (t.advance 8)) ∧
        (ls ≠ [] → (t.acceptAll j ls = none ∨ ¬ room) → exec (.emit f) s = .next waits) ∧
        (∀ t' v ps, ls ≠ [] → t.acceptAll j ls = some t' → room → (∀ l ∈ ls, t.canonical (rt.address (px l).1 (px l).2) = true) →
          ctrVal t.w.pend .gx < 255 → t.addresses 1 1 0 (ls.map fun l => rt.address (px l).1 (px l).2) = .ok (v, ps) →
          let new (q : Nat) : List BlendFrag := ((ls.zip ps).filter fun e => blendQueue (px e.1).1 (px e.1).2 == q).map fun e =>
            ⟨v.g.launch, (px e.1).1, (px e.1).2, e.2.1, rt.fmt, f.mode.toNat, v.vregs e.1 f.va.toNat 4⟩
          let s' : State := { v.s with nextUid := v.s.nextUid + 1 }
          let u := s'.unit die
          exec (.emit f) s = .next (Thread.advance (Thread.ctrPulse { v with
            s := s'.setUnit die { u with blend0 := u.blend0 ++ new 0, blend1 := u.blend1 ++ new 1 }, g := t'.g } .gx v.s.nextUid) 8))))

/-! Coherence between dies -/

/-- R20, R88, R90, R92, R97 and R99: the six requests at their home. A request to an offline die is answered HomeOffline; one whose next hop is a
lost link, or whose slice has 1 024 waiting, stays in flight; one for a busy line waits in order of arrival. The home agent that takes one up
reads the directory and the line. A request for an idle line that needs no directory entry to be evicted is served at once when no die has to
be snooped, else its snoops go out and the line is busy; an atomic with no way of the home's L2 for its line waits. Which die answers
HomeOffline is the model's choice (log 19). -/
def Sys2Proof.Part.RequestsReachHome : Prop :=
  ∀ (s : State) (a b : List CohMsg) (m : CohMsg) (i : Nat → Instr),
    (m.code, i) ∈ ([(CohCode.readShared, Instr.readshared), (.readOwn, .readown), (.upgrade, .upgrade), (.atomic, .atomicMsg),
      (.readNC, .readnc), (.writeNC, .writenc)] : List (CohCode × (Nat → Instr))) →
    s.net = a ++ m :: b →
    let u : State := { s with net := a ++ b }
    let k := u.die m.dst
    let gives (x : State) : Prop := exec (i a.length) s = .next x
    let slice (x : CohMsg) : Nat := groupOf (x.line * 128 % 2 ^ 40)
    let waiting := (k.queue.filter fun x => slice x.1 == slice m).length
    let queued : State := u.setDie m.dst { k with queue := k.queue ++ [(m, u.tick)] }
    let busy := u.recalling m.dst = true ∨ u.homeBusy m.dst m.line = true ∨ ∃ x ∈ k.queue, x.1.line = m.line
    let read := u.dirRead m.line
    let mem := ((read.cellarReqAt u.tick m.line m.cls false).badCorrect (.cellar (homeOf m.line)) m.line).badCorrect .dram m.line
    let v := if ((read.die m.dst).l2Find m.line).isNone then mem else read
    let room := m.code ≠ .atomic ∨ ((v.die m.dst).l2Find m.line).isSome = true ∨ ((v.die m.dst).l2Way m.line).isSome = true
    let open_ (p : TxnPhase) (waits : List Nat) (snooped : Bool) : HomeTxn :=
      ⟨m, u.tick, p, waits, snooped, none, false, false, [], false⟩
    let snoops := snoopsOf m m.dst (v.dirView m.line)
    (u.isOffline m.dst = true →
      gives { u with net := u.net ++ [⟨.homeOffline, u.refuser m.src m.dst, m.src, m.req, 0, m.cls, 0, m.txn, m.line, 0, 0⟩] }) ∧
    (u.isOffline m.dst = false → u.routed m.src m.dst = false → gives s) ∧
    (u.isOffline m.dst = false → u.routed m.src m.dst = true →
      (1024 ≤ waiting → gives s) ∧
      (waiting < 1024 → busy → gives queued) ∧
      (waiting < 1024 → ¬ busy → (v.isOffline m.src = false ∨ m.src = m.dst) →
        (needsEntry m m.dst = false ∨ (v.dirFind m.line).isSome = true ∨ v.dirVictim m.line = none) →
        (¬ room → gives (v.txnPut m.dst (open_ .room [] false))) ∧
        (room → snoops = [] → gives ((v.homeFinish m.dst (open_ .snoops [] true)).selfDone m.dst m.line)) ∧
        (room → snoops ≠ [] → gives (State.selfDone (snoops.foldl (fun x e => x.send ⟨e.1, m.dst, e.2.1,
            (match m.code with | .atomic | .readNC | .writeNC => m.dst | _ => m.src), e.2.2, m.cls, 0, m.txn, m.line, 0, 0⟩)
          (v.txnPut m.dst (open_ .snoops (snoops.map fun e => e.2.1) false))) m.dst m.line))))

/-- R92 and R97: which dies are snooped. No entry: none. A shared line: for a write every other holder, for a read none. An owned line: its owner
for a read; every other holder for a write, the owner with code 0; an Upgrade of a holder needs no data from anyone. The requester is
never snooped, but for an atomic or an uncached read or write. -/
def Sys2Proof.Part.SnoopsOfRequests : Prop :=
  ∀ (m : CohMsg) (h o : Nat) (p : BitVec 9) (st : DirSt),
    let dies (f : Nat → Bool) : List Nat := (List.range 9).filter fun d => p.getLsbD d && f d
    let sn (c : CohCode) (cd : Nat) (e : Option (DirSt × Nat × BitVec 9)) : List (CohCode × Nat × Nat) :=
      snoopsOf { m with code := c, cd := cd } h e
    (∀ c cd, sn c cd none = []) ∧
    sn .readShared 0 (some (.s, o, p)) = [] ∧
    (st ≠ .s → o ≠ m.src → sn .readShared 0 (some (st, o, p)) = [(.snpShared, o, 0)]) ∧
    (st ≠ .s → sn .readNC 0 (some (st, o, p)) = [(.snpShared, o, 0)]) ∧
    sn .readOwn 0 (some (.s, o, p)) = (dies fun d => d != m.src).map (fun d => (CohCode.snpInv, d, 0)) ∧
    (st ≠ .s → sn .readOwn 0 (some (st, o, p)) =
      (dies fun d => d != m.src).map (fun d => (CohCode.snpInv, d, if d = o then 0 else 1))) ∧
    (p.getLsbD m.src = true → m.src ≠ h → sn .upgrade 0 (some (st, o, p)) =
      (dies fun d => d != m.src).map (fun d => (CohCode.snpInv, d, 1))) ∧
    (∀ c, c = .atomic ∨ c = .writeNC → sn c 0 (some (st, o, p)) =
      (dies fun _ => true).map (fun d => (CohCode.snpInv, d, 0)))

/-- R20, R89, R93 and R102: a snoop at a die, once its route is up. While a WriteBack of the line is not acknowledged the answer is WB_INFLIGHT, without a
copy NOCOPY. Else the copy's state decides: M, O and E supply the requester, a line in E becomes S for a read, M becomes O; an invalidation
drops the copy; a BackInv sends dirty data home. A copy with an uncorrectable error in a sector of it, or in a dirty sector of an L1 that it
collects, is dropped, its good dirty sectors go home. A SnpShared for a copy in S, which R93 says is not sent, gets NOCOPY here (the
model's choice, log 85). -/
def Sys2Proof.Part.SnoopsAnswered : Prop :=
  ∀ (s : State) (a b : List CohMsg) (m : CohMsg) (i : Nat → Instr),
    (m.code, i) ∈ ([(CohCode.snpShared, Instr.snpshared), (.snpInv, .snpinv), (.backInv, .backinv)] : List (CohCode × (Nat → Instr))) →
    s.net = a ++ m :: b →
    let u : State := { s with net := a ++ b }
    let d := m.dst
    let x := m.line
    let gives (v : State) : Prop := exec (i a.length) s = .next v
    let ack (v : State) (c : Nat) : State :=
      { v with net := v.net ++ [⟨.ack, d, m.src, m.req, c, m.cls, 0, m.txn, x, 0, 0⟩] }
    let forward (v : State) (data : Line) (dirty : Byte) (g : Nat) : State :=
      { v with net := v.net ++ [⟨.dataFwd, d, m.req, m.req, g, m.cls, dirty, m.txn, x, data, 0⟩] }
    let home (v : State) (data : Line) (dirty : Byte) : State :=
      { v with net := v.net ++ [⟨.data, d, m.src, m.req, 0, m.cls, dirty, m.txn, x, data, 0⟩] }
    let inflight := ∃ w ∈ (u.die d).wbs, w.1 = x
    (u.isOffline d = true ∨ u.routed m.src d = false → gives s) ∧
    (u.isOffline d = false → u.routed m.src d = true →
      (inflight → gives (ack u 6)) ∧
      (¬ inflight →
        let noData := m.code = .snpInv ∧ m.cd = 1
        let lost := u.l1Lost d x
        let c := u.snoopCopy d x (if m.code = .snpShared then .share else .take) !(m.code == .snpInv && m.cd == 1)
        let v := c.1
        (c.2 = none → gives (ack v 2)) ∧
        (∀ st dirty data, c.2 = some (st, dirty, data) →
          let place : BadAt := if ((v.die d).l2Find x).isSome then .l2 d else .attic d
          let bad := v.badMask place x
          let gone := v.dropHeld d x
          (bad ≠ 0 ∨ lost = true → (st = .m ∨ st = .o ∨ st = .e) → ¬ noData →
            gives (home (((v.badLog place x bad dirty).badClear place x).dropHeld d x) data (dirty &&& ~~~bad))) ∧
          ((bad = 0 ∧ lost = false) ∨ st = .s ∨ noData →
            (m.code = .snpShared → (st = .m ∨ st = .o → gives (ack (forward (v.snoopState d x .o) data dirty 0) 4)) ∧
              (st = .e → gives (ack (forward (v.snoopState d x .s) data 0 0) 5)) ∧ (st = .s → gives (ack v 2))) ∧
            (m.code = .snpInv → (m.cd = 1 ∨ st = .s → gives (ack gone 3)) ∧
              (m.cd ≠ 1 → (st = .m ∨ st = .o → gives (ack (forward gone data dirty 2) 4)) ∧
                (st = .e → gives (ack (forward gone data dirty 2) 5)))) ∧
            (m.code = .backInv → (st = .m ∨ st = .o → gives (home gone data dirty)) ∧ (st = .e ∨ st = .s → gives (ack gone 3)))))))

/-- R20, R89, R91, R94, R97, R99: WriteBacks and responses, once their route is up. A WriteBack at a live home puts its dirty sectors into memory, takes
the sender out of the directory, and is acknowledged, whether the line is busy or not; a transaction that holds the line then goes on with
the WriteBack seen, and waits for it no more. An acknowledgement ends a WriteBack, or closes the
transaction of the line at its home, or is the final message of a request; a snoop reply that nothing waits for is passed over; data goes to
the transaction or the request that waits for it. HomeOffline ends the request. -/
def Sys2Proof.Part.ResponsesArrive : Prop :=
  ∀ (s : State) (a b : List CohMsg) (m : CohMsg), s.net = a ++ m :: b →
    let u : State := { s with net := a ++ b }
    let k := u.die m.dst
    let x := m.line
    let arrives := u.isOffline m.dst = false ∧ u.routed m.src m.dst = true
    (u.isOffline m.dst = false → u.routed m.src m.dst = false →
      ∀ i ∈ [Instr.writeback a.length, .ackMsg a.length, .dataMsg a.length, .datafwd a.length, .homeoffline a.length], exec i s = .next s) ∧
    (u.isOffline m.dst = true →
      (m.code = .writeBack → exec (.writeback a.length) s = .next s) ∧ (m.code = .ack → exec (.ackMsg a.length) s = .next u) ∧
      (m.code = .data → exec (.dataMsg a.length) s = .next u) ∧ (m.code = .dataFwd → exec (.datafwd a.length) s = .next u)) ∧
    (m.code = .writeBack → arrives →
      let t := if m.smask = 0 then u else (u.cellarReq x m.cls true).memWrite x m.data (nibSectors m.smask)
      let v := t.dirRead x
      let gives (y : State) : Prop :=
        let z : State := { y with net := y.net ++ [⟨.ack, m.dst, m.src, m.src, 0, m.cls, 0, m.txn, x, 0, 0⟩] }
        let busy := (z.die m.dst).txns.find? fun w => w.holds x
        (busy = none → exec (.writeback a.length) s = .next z) ∧
        (∀ w, busy = some w → exec (.writeback a.length) s =
          .next (z.homeGo m.dst { w with wbSeen := x :: w.wbSeen.filter (fun l => l != x), wbWait := false }))
      (v.dirFind x = none → gives v) ∧
      (∀ w e, v.dirFind x = some (w, e) →
        let left := e.pres &&& ~~~presBit m.src
        (e.owner ≠ m.src ∨ e.st = .s → gives v) ∧
        (e.owner = m.src → e.st = .em ∨ (e.st = .o ∧ left = 0) → gives (v.dirSet x none)) ∧
        (e.owner = m.src → e.st = .o → left ≠ 0 → gives (v.dirSet x (some (.s, 0, left)))))) ∧
    (m.code = .ack → arrives →
      (2 ≤ m.cd → (∀ t, k.txnWaiting m.src x = some t → exec (.ackMsg a.length) s = .next (u.replyArrive m t)) ∧
        (k.txnWaiting m.src x = none → exec (.ackMsg a.length) s = .next u)) ∧
      (m.cd = 0 → (x, m.txn) ∈ k.wbs → m.src = homeOf x →
        exec (.ackMsg a.length) s = .next (u.setDie m.dst { k with wbs := k.wbs.filter fun w => w != (x, m.txn) })) ∧
      (m.cd = 0 → (x, m.txn) ∉ k.wbs → m.dst = homeOf x → (∃ t ∈ k.txns, t.msg.line = x ∧ t.msg.src = m.src ∧ t.phase = .done) →
        exec (.ackMsg a.length) s = .next (u.homeClose m.dst x)) ∧
      (m.cd < 2 → (m.cd = 1 ∨ ((x, m.txn) ∉ k.wbs ∧ m.dst ≠ homeOf x)) →
        (k.reqAt m.txn = none → exec (.ackMsg a.length) s = .next s) ∧
        (∀ r, k.reqAt m.txn = some r →
          exec (.ackMsg a.length) s = .next (u.reqGo m.dst { r with granted := decide (m.cd = 1), final := true })))) ∧
    (m.code = .data → arrives → (∀ t, k.txnWaiting m.src x = some t → exec (.dataMsg a.length) s = .next (u.replyArrive m t)) ∧
      (∀ r, k.txns = [] → k.reqAt m.txn = some r →
        exec (.dataMsg a.length) s = .next (u.reqGo m.dst { r with
          got := some (m.data, m.smask), grant := (if m.cd = 0 then .s else if m.cd = 1 then .e else .m), final := true }))) ∧
    (m.code = .dataFwd → arrives →
      (∀ t, k.txnWaiting m.src x = some t → t.msg.dataHome = true →
        exec (.datafwd a.length) s = .next (u.homeGo m.dst { t with data := some (m.data, m.smask) })) ∧
      (∀ r, k.txns = [] → k.reqAt m.txn = some r →
        exec (.datafwd a.length) s = .next (u.reqGo m.dst { r with
          got := some (m.data, m.smask), grant := (if m.cd = 0 then .s else if m.cd = 1 then .e else .m) }))) ∧
    (m.code = .homeOffline → u.isOffline m.dst = true ∨ u.routed m.src m.dst = true →
      exec (.homeoffline a.length) s = .next (u.homeOfflineArrive m))

/-! Frame jobs -/

/-- R359, R360: a store to the frame job port queues the 64 bytes; one that is no aligned store of 64 bytes, or finds 16 jobs waiting, is counted
and ignored. A step of the running job that succeeds gives what it says; while a line that it reads is on its way nothing happens; a
descriptor, list or record that breaks a rule ends the job with status 3, an access that is not permitted with status 7 and cause 4. That
a step is whole, and its reads coherent, is the model's choice (logs 18 and 31). A die in recovery takes no job. -/
def Sys2Proof.Part.FrameJobSteps : Prop :=
  (∀ (s : State) (die off : Nat) (data : List Byte), die < 9 → 0x70000 ≤ off → off < 0x70040 →
    let u := s.unit die
    (s.isOffline die = true ∨ u.recovery = true ∨ s.mdl.booted = false ∨ s.mdl.stopped = true →
      exec (.frameJobSubmission die off data) s = .next s) ∧
    (s.isOffline die = false → u.recovery = false → s.mdl.booted = true → s.mdl.stopped = false →
      (off ≠ 0x70000 ∨ data.length ≠ 64 ∨ 16 ≤ u.waiting.length →
        exec (.frameJobSubmission die off data) s = .next (s.count die 0x70040 false)) ∧
      (off = 0x70000 → data.length = 64 → u.waiting.length < 16 →
        exec (.frameJobSubmission die off data) s = .next (s.setUnit die { u with waiting := u.waiting ++ [data] })))) ∧
  (∀ (s : State) (die ty : Nat) (i : Nat → Instr) (j : FrameJob) (step : FrameJob → State → Nat → PartIo State),
    (ty, i, step) ∈ ([(1, .skimJob, FrameJob.skim), (2, .depthRasterJob, FrameJob.openPixels), (3, .visibilityWaveJob, FrameJob.waves)] :
      List (Nat × (Nat → Instr) × (FrameJob → State → Nat → PartIo State))) →
    s.frameOn die = true → (s.unit die).frame = some j → fjType j.desc = ty → j.park = none →
    (j.stage ≠ .fresh → exec (i die) s = .next s) ∧
    (j.stage = .fresh →
      (∀ u, step j s die = .ok u → exec (i die) s = .next u) ∧
      (step j s die = .error .busy → exec (i die) s = .next s) ∧
      (∀ k, step j s die = .error (.bad k) → exec (i die) s = .next (s.endFrame die j (statusWord 3 0 0))) ∧
      (step j s die = .error .violation → exec (i die) s = .next (s.endFrame die j (statusWord 7 die 4))))) ∧
  (∀ (s : State) (die n : Nat) (j : FrameJob), s.frameOn die = true → (s.unit die).frame = some j → j.park = none →
    (fjType j.desc = 4 → j.stage = .fresh →
      exec (.forwardRasterJob die) s = .next (s.setUnit die { s.unit die with frame := some { j with stage := .raster 0 } })) ∧
    (fjType j.desc = 4 → j.stage = .raster n → n < fjNrec j.desc → exec (.forwardRasterJob die) s = .next s) ∧
    (fjType j.desc = 4 → j.stage = .raster n → fjNrec j.desc ≤ n → exec (.forwardRasterJob die) s = .next (j.launch s die)) ∧
    (∀ u, j.stage = .raster n → n < fjNrec j.desc → j.record s die n = .ok u → exec (.rasterRecord die) s = .next u) ∧
    (∀ k, j.stage = .raster n → n < fjNrec j.desc → j.record s die n = .error (.bad k) →
      exec (.rasterRecord die) s = .next (s.endFrame die j (statusWord 3 0 0))) ∧
    (j.stage = .raster n → fjNrec j.desc ≤ n → exec (.rasterRecord die) s = .next s)) ∧
  (∀ (s : State) (die status n : Nat) (j : FrameJob), s.frameOn die = true → (s.unit die).frame = some j →
    let u := s.unit die
    let gone : State := s.setUnit die { u with frame := none }
    (j.stage = .ended status → u.blend0 = [] → u.blend1 = [] →
      exec (.frameJobCompletion die) s = .next (gone.latchRelease die j.ctx (dwordAt j.desc 48) status .frame)) ∧
    (j.stage = .ended status → u.blend0 ≠ [] ∨ u.blend1 ≠ [] → exec (.frameJobCompletion die) s = .next s) ∧
    (j.stage = .raster n → fjType j.desc = 2 → j.park = none → fjNrec j.desc ≤ n →
      exec (.frameJobCompletion die) s = .next (gone.latchRelease die j.ctx (dwordAt j.desc 48) (2 ^ 31) .frame)))

/-- R364: coverage. A pixel centre on an edge that two triangles share, each on its own side, is covered by exactly one of them; a triangle
of no area covers nothing; the two windings of a triangle cover the same pixels with the same depths. -/
def Sys2Proof.Part.RasterCoverage : Prop :=
  (∀ (a b : Vec) (x y : Int), ¬ (a.1 = b.1 ∧ a.2.1 = b.2.1) → insideEdge a b x y = !insideEdge b a x y) ∧
  (∀ (a b : List Nat) (p k m : Nat), a.length = 3 → b.length = 3 → rasterOf ⟨a ++ a ++ b, p, k, m⟩ = none) ∧
  (∀ (a b c : List Nat) (p k m x y : Nat), a.length = 3 → b.length = 3 → c.length = 3 →
    (rasterOf ⟨a ++ b ++ c, p, k, m⟩).bind (fun r => r.depth x y) = (rasterOf ⟨a ++ c ++ b, p, k, m⟩).bind fun r => r.depth x y)

/-- R361, R362: Skim. A source that shows nothing, or whose motion is no number or leads outside, changes nothing; else its target keeps it if it has
no source yet or a farther one. A target without a source is a hole, which has the cleared entry; any other keeps PRIM and BUCKET of
its source with the source's predicted depth. -/
def Sys2Proof.Part.SkimTargets : Prop :=
  (∀ (w h i e m : Nat) (best : Best) (dx dy : Int),
    let z := m / 2 ^ 32
    let tx := ((i % w : Nat) : Int) + dx
    let ty := ((i / w : Nat) : Int) + dy
    let t := ty.toNat * w + tx.toNat
    (e = clearedEntry → skimSource w h best i e m = best) ∧
    (rneInt (m % 65536) = none ∨ rneInt (m / 65536 % 65536) = none → skimSource w h best i e m = best) ∧
    (rneInt (m % 65536) = some dx → rneInt (m / 65536 % 65536) = some dy →
      (tx < 0 ∨ ty < 0 ∨ (w : Int) ≤ tx ∨ (h : Int) ≤ ty → skimSource w h best i e m = best) ∧
      (∀ n k x, e ≠ clearedEntry → 0 ≤ tx → tx < w → 0 ≤ ty → ty < h → fdecode fmtF32 z = .fin n k x →
        (mapFind best t = none → skimSource w h best i e m = mapPut best t (z, e)) ∧
        (∀ b, mapFind best t = some b →
          skimSource w h best i e m = if fltVal (.fin n k x) (fdecode fmtF32 b.1) = true then mapPut best t (z, e) else best)))) ∧
  (∀ (best : Best) (k n t : Nat), t < n →
    (mapFind best t = none → (skimOut best k none n)[t]? = some clearedEntry) ∧
    (∀ z e, mapFind best t = some (z, e) → (skimOut best k none n)[t]? = some (e / 2 ^ 32 * 2 ^ 32 + z)))

/-- R368 and R369: BLEND_WRITE takes the oldest fragment of a queue, reads its pixel when it blends, and writes what it leaves; while the pixel's
line is on its way, or its home is offline, nothing happens (the step is whole: the model's choice, logs 18 and 31). An opaque fragment of an RGBA8 target with colours 0 and 1 stores 0 and 255. -/
def Sys2Proof.Part.BlendWrites : Prop :=
  (∀ (s : State) (die q : Nat) (b : BlendFrag) (r : List BlendFrag), die < 9 → q < 2 →
    (if q = 0 then (s.unit die).blend0 else (s.unit die).blend1) = b :: r →
    let home := homeOf (b.pa / 128)
    let n := if b.fmt = 0 then 4 else 8
    (s.paBusy b.pa = true ∨ (paHomed b.pa = true ∧ s.isOffline home = true) → exec (.blendWrite die q) s = .next s) ∧
    (s.paBusy b.pa = false → (paHomed b.pa = false ∨ s.isOffline home = false) →
      let t := (if b.mode = 0 then s else s.homeTouch (some die) b.pa 1 false).homeTouch (some die) b.pa 1 true
      let v := t.sysWrite b.pa (leBytes n (b.pixel (t.viewNat b.pa n)))
      let u := v.unit die
      exec (.blendWrite die q) s = .next (v.setUnit die (if q = 0 then { u with blend0 := r } else { u with blend1 := r })))) ∧
  (∀ (s : State) (die q : Nat), die < 9 → q < 2 → (if q = 0 then (s.unit die).blend0 else (s.unit die).blend1) = [] →
    exec (.blendWrite die q) s = .next s) ∧
  (∀ (b : BlendFrag) (old : Nat) (x : Fin 4 → Bool), b.fmt = 0 → b.mode = 0 →
    b.colour = (List.finRange 4).map (fun i => if x i then 0x3F800000#32 else 0#32) →
    b.pixel old = ((List.finRange 4).map fun i => if x i then 255 * 2 ^ (8 * i.val) else 0).sum)

/-! Frame lock, power, display heads, regulators -/

/-- R405, R409 and R410: FLCFG and FLADMIT at the die with the management role, which all dies then read; other dies ignore the store. A role other
than follower with a period of 10^6 to 10^8 ticks starts the edges one period later, or changes the period of the edges that run; a
period out of that range stops them; that PERIOD then reads 0 is the model's choice (log 74). While an admission is armed every head
scans out black. -/
def Sys2Proof.Part.FrameLockRegisters : Prop :=
  ∀ (s : State) (die : Nat) (v : Dword), die < 9 →
    let f := s.mdl.fl
    let role := if v.toNat % 4 = 3 then 0 else v.toNat % 4
    let per := v.toNat / 2 ^ 32
    let low := v.toNat / 2 ^ 9 % 2 ^ 23 * 2 ^ 9
    let stored (x off : Nat) : State := (List.range 9).foldl (fun u d => u.setReg d off x) s
    let fl (u : State) (g : FrameLock) : State := { u with mdl := { u.mdl with fl := g } }
    let halt : FrameLock := { f with
      period := none, nextEdge := none, received := 0, measured := none, lastEdge := none, timed := false, counted := false, row := 0 }
    (die ≠ s.mdl.mgmt ∨ s.isOffline die = true → exec (.flcfgWrite die v) s = .next s ∧ exec (.fladmitWrite die v) s = .next s) ∧
    (die = s.mdl.mgmt → s.isOffline die = false →
      (role < 2 → 1000000 ≤ per → per ≤ 100000000 → f.period = none → exec (.flcfgWrite die v) s =
        .next (fl (stored (per * 2 ^ 32 + low + role) 0x90000) { halt with period := some per, nextEdge := some (s.tick + per) })) ∧
      (∀ p e, role < 2 → 1000000 ≤ per → per ≤ 100000000 → f.period = some p → s.pendingEdge = some e →
        exec (.flcfgWrite die v) s =
          .next (fl (stored (per * 2 ^ 32 + low + role) 0x90000) { f with period := some per, nextEdge := some (e.tick + per) })) ∧
      (role < 2 → (per < 1000000 ∨ 100000000 < per) → exec (.flcfgWrite die v) s = .next (fl (stored low 0x90000) halt)) ∧
      (role = 2 → f.period.isSome = true ∨ f.received = 0 → exec (.flcfgWrite die v) s =
        .next (fl (stored (per * 2 ^ 32 + low + 2) 0x90000) halt)) ∧
      let dark (u : State) : State := s.live.foldl (fun x d => x.setUnit d { x.unit d with head := { (x.unit d).head with black := true } }) u
      let set := stored (v.toNat % 2 ^ 33) 0x90010
      exec (.fladmitWrite die v) s = .next (fl (if bitOf v.toNat 32 = true then dark set else set)
        { f with
          admission := if bitOf v.toNat 32 = true then
            some (let a := v.toNat % 2 ^ 32
                  let now := s.frameNo s.mdl.mgmt
                  if a ≤ now then (now + 1) % 2 ^ 32 else a)
            else none }))

/-- R405 to R407, R410 and R413: the edges. The next edge goes out to every live die with the frame number that follows, and on the ports of OUTMASK
with the lead that is left; a die whose message says the tick takes it; a due edge sets %frame, the tick of the last edge and the head's
clock of pixels, applies a step of the module's clock, and reaches the graph engine unless the module is held for its admission. A follower
fires an edge that is due by its timer and counts a message that is missing after 1/16 of a period. The 4 000 ticks of lead and the window
of 10 ticks are the model's choice (log 74). -/
def Sys2Proof.Part.FrameEdges : Prop :=
  (∀ s : State, let f := s.mdl.fl
    let ports := if s.flRole = 1 ∨ s.flRole = 2 then (List.range 18).filter fun p => bitOf (s.mgmtReg 0x90000) (p + 14) else []
    let out (t : Nat) : List EdgeOut := f.sent ++ ports.map fun p => ⟨p, s.nextFrame % 2 ^ 32, t - s.tick, s.tick⟩
    (∀ t p, f.nextEdge = some t → f.period = some p →
      (s.flRole < 2 → t ≤ s.tick + 4000 → s.pendingEdge = none → exec .frameEdgeGenerate s = .next (s.setFl { f with
        nextEdge := some (t + p)
        sent := out t
        fires := f.fires ++ s.live.map fun d => ⟨d, s.nextFrame % 2 ^ 32, t, d == s.mdl.mgmt⟩ })) ∧
      (2 ≤ s.flRole ∨ s.tick + 4000 < t ∨ s.pendingEdge.isSome = true → exec .frameEdgeGenerate s = .next s)) ∧
    (∀ l m, f.lastEdge = some l → f.measured = some m →
      (s.flRole = 2 → 2 ≤ f.received → l + m ≤ s.tick → (f.timed = false ∨ f.counted = true) →
        exec .frameEdgeTimer s = .next (s.setFl { f with
          lastEdge := some (l + m), timed := true, counted := false
          sent := out (l + m)
          fires := f.fires ++ s.live.map fun d => ⟨d, s.nextFrame % 2 ^ 32, l + m, true⟩ })) ∧
      (s.flRole ≠ 2 ∨ s.tick < l + m ∨ (f.timed = true ∧ f.counted = false) → exec .frameEdgeTimer s = .next s) ∧
      (s.flRole = 2 → f.timed = true → f.counted = false → m < 16 * (s.tick - l) →
        exec .frameEdgeMissed s = .next (((s.setFl { f with counted := true, row := 0 }).flMiss).setLocked false)) ∧
      (s.flRole ≠ 2 ∨ f.timed = false ∨ f.counted = true ∨ 16 * (s.tick - l) ≤ m → exec .frameEdgeMissed s = .next s))) ∧
  (∀ (s : State) (die lead p : Nat) (frame : BitVec 32),
    let f := s.mdl.fl
    exec (.frameedge (.inside die frame lead)) s = .next (s.setFl { f with fires := f.fires.map fun e =>
      if e.die = die ∧ e.frame = frame.toNat ∧ e.here = false ∧ s.tick + lead ≤ e.tick + 10 ∧ e.tick ≤ s.tick + lead + 10
      then { e with tick := s.tick + lead, here := true } else e }) ∧
    (s.flRole ≠ 2 ∨ p ≠ s.flPort ∨ 18 ≤ p → exec (.frameedge (.port p frame lead)) s = .next s) ∧
    (s.flRole = 2 → p = s.flPort → p < 18 → exec (.frameedge (.port p frame lead)) s = .next (s.followEdge frame.toNat lead))) ∧
  (∀ (s : State) (die : Nat) (a b : List EdgeFire) (e : EdgeFire), die < 9 → s.mdl.fl.fires = a ++ e :: b →
    (∀ x ∈ a, ¬ (x.die = die ∧ x.here = true ∧ x.tick ≤ s.tick)) → e.die = die → e.here = true → e.tick ≤ s.tick →
    let t := s.setFl { s.mdl.fl with fires := a ++ b }
    (s.isOffline die = true → exec (.frameEdgeFire die) s = .next t) ∧
    (s.isOffline die = false →
      let n : State := { t with frames := storeSet 0 t.frames die (BitVec.ofNat 32 e.frame) }
      let u := n.unit die
      let v := n.setUnit die { u with lastEdge := some e.tick, head := { u.head with
        timing := n.reg die 0xA0040, span := n.flPeriod.getD 0, base := e.tick, pixels := u.head.pixelsAt e.tick } }
      let w := (if v.admitHeld e.frame = true then v else v.graphEdge die e.tick e.frame).powerApply e.tick
      ((∀ d ∈ w.live, w.admitHeld (w.frameNo d) = false) → exec (.frameEdgeFire die) s = .next (w.setFl { w.mdl.fl with admission := none })) ∧
      ((∃ d ∈ w.live, w.admitHeld (w.frameNo d) = true) → exec (.frameEdgeFire die) s = .next w)))

/-- R20, R413: the clock steps by 100 MHz, down from above 1 000 when the module draws more than its limit, up to 1 800 when it draws less than 95 %
of it or has none, one step at a time. The step is told to every live die. Once all have been told, the next edge applies it, on all dies:
the clock is the new one, the count of steps rises, and the power vector is raised. That an edge counts as the next one when it is more than
20 ticks after the last die was told, the spread of the dies' edges, is the model's choice (log 75). -/
def Sys2Proof.Part.PowerSteps : Prop :=
  (∀ (s : State) (w : Nat),
    let p := s.mdl.power
    let cap := s.mgmtReg 0xC0000 % 65536
    (p.pending = none → cap ≠ 0 → cap < w → 1000 < p.mhz → exec (.powerStepDown w) s = .next (s.powerStep (p.mhz - 100))) ∧
    (p.pending.isSome = true ∨ cap = 0 ∨ w ≤ cap ∨ p.mhz ≤ 1000 → exec (.powerStepDown w) s = .next s) ∧
    (p.pending = none → (cap = 0 ∨ 100 * w < 95 * cap) → p.mhz < 1800 → exec (.powerStepUp w) s = .next (s.powerStep (p.mhz + 100))) ∧
    (p.pending.isSome = true ∨ (cap ≠ 0 ∧ 95 * cap ≤ 100 * w) ∨ 1800 ≤ p.mhz → exec (.powerStepUp w) s = .next s)) ∧
  (∀ (s : State) (die mhz : Nat), die < 9 → s.mdl.power.pending = some mhz →
    let left := s.ctl.filter fun m => !(m.dst == die && m.body == .powerStep mhz)
    let waits := s.mdl.power.waits.filter fun d => d != die
    let power (p : Power) : State :=
      let u : State := { s with ctl := left, mdl := { s.mdl with power := p } }
      u.setUnit die { u.unit die with step := some mhz }
    (left.length = s.ctl.length ∨ s.routed s.mdl.mgmt die = false → exec (.powerstep die) s = .next s) ∧
    (left.length < s.ctl.length → s.routed s.mdl.mgmt die = true →
      (s.mdl.power.armed.isSome = true ∨ (∃ d ∈ waits, d ∈ s.live) →
        exec (.powerstep die) s = .next (power { s.mdl.power with waits := waits })) ∧
      (s.mdl.power.armed = none → (∀ d ∈ waits, d ∉ s.live) →
        exec (.powerstep die) s = .next (power { s.mdl.power with waits := [], armed := some s.tick })))) ∧
  (∀ (s : State) (tick : Nat),
    let p := s.mdl.power
    let u := s.powerApply tick
    (p.pending = none ∨ p.armed = none → u = s) ∧
    (∀ mhz a, p.pending = some mhz → p.armed = some a →
      (tick ≤ a + 20 → u = s) ∧
      (a + 20 < tick → u.mdl.power = ⟨mhz, none, p.steps + 1, [], none⟩ ∧ (∀ d ∈ s.live, (u.unit d).step = none) ∧
        u.msis = s.msis ++ [⟨.power, s.mdl.vectors.power, s.tick, !s.mdl.root, storeGet 0 s.mdl.vectors.harts MsiSource.power.code⟩])))

/-- R376, R400, R408 to R410: a display head. It is enabled when its timing fits the period, and then runs; the check reads its latch DSLEAD ticks
before the vblank, and prepares the Dust-sheet picture when no newer frame is released; the vblank presents what the check found: a newer
frame, else the substitute of the one shown, counted, or black. -/
def Sys2Proof.Part.DisplayHeads : Prop :=
  (∀ (s : State) (die : Nat) (v : Dword), die < 9 →
    let h := (s.unit die).head
    let fits := v.getLsbD 8 = true ∧ ∃ p, s.flPeriod = some p ∧ s.timingOk die p = true
    let t (b : Nat) : State := s.setReg die 0xA0008 (v.toNat % 256 + b)
    (s.isOffline die = true → exec (.headEnable die v) s = .next s) ∧
    (s.isOffline die = false →
      (fits → h.on = true → exec (.headEnable die v) s = .next (t 256)) ∧
      (fits → h.on = false → exec (.headEnable die v) s =
        .next ((t 256).setHead die { h with on := true, since := s.tick, check := none })) ∧
      (¬ fits → exec (.headEnable die v) s = .next ((t 0).setHead die { h with on := false, check := none, fill := 0 })))) ∧
  (∀ (s : State) (die f v : Nat), die < 9 → s.halted die = false → s.nextVblank die = some (f, v) →
    let h := (s.unit die).head
    let at_ := v - s.dslead die
    let due := h.on = true ∧ at_ ≤ s.tick ∧ h.since < at_ ∧ ∀ g, h.check ≠ some (f, g)
    (¬ due → exec (.displayHeadCheck die) s = .next s) ∧
    (due → s.readLatch die f = none → exec (.displayHeadCheck die) s = .next s) ∧
    (∀ u g, due → s.readLatch die f = some (u, g) →
      (h.newer g = true → exec (.displayHeadCheck die) s =
        .next (u.setHead die { (u.unit die).head with check := some (f, g) })) ∧
      (h.newer g = false → u.dustSheet die = none → exec (.displayHeadCheck die) s = .next u) ∧
      (∀ x l, h.newer g = false → u.dustSheet die = some (x, l) → exec (.displayHeadCheck die) s =
        .next (x.setHead die { (x.unit die).head with check := some (f, g), picture := l })))) ∧
  (∀ (s : State) (die : Nat), die < 9 → s.halted die = false → s.dueVblank die = none → exec (.vblankPresent die) s = .next s) ∧
  (∀ (s : State) (die f v : Nat), die < 9 → s.halted die = false → s.dueVblank die = some (f, v) →
    let h := (s.unit die).head
    s.nextVblank die = some (f, v) ∧
    (s.tick < v → exec (.vblankPresent die) s = .next s) ∧
    (v ≤ s.tick → h.on = false →
      exec (.vblankPresent die) s = .next (s.setHead die { h with vblank := some v, base := v, pixels := 0 })) ∧
    (v ≤ s.tick → h.on = true →
      let u := s.headCheck die
      let r := (u.unit die).head.present f v (u.dslead die) (u.admitHeld ((f + 1) % 2 ^ 32))
      let w := u.setHead die r.1
      exec (.vblankPresent die) s = .next (if r.2 = true then w.setReg die 0xA0038 ((w.reg die 0xA0038 + 1) % 2 ^ 64) else w))) ∧
  (∀ (h : Head) (f v lead g : Nat), h.since < v - lead →
    let e : Head := { h with vblank := some v, fill := 0, line := 0, base := v, pixels := 0 }
    (h.check = some (f, some g) → (∀ o, h.shown = some o → o < g) →
      h.present f v lead false = ({ e with shown := some g, black := false, subst := false, picture := [] }, false)) ∧
    (h.check = some (f, some g) → h.shown = some g → h.present f v lead false = ({ e with black := false, subst := true }, true)) ∧
    (h.check = some (f, none) → h.present f v lead false = ({ e with black := h.shown.isNone, subst := true }, true)) ∧
    h.present f v lead true = ({ e with black := true, subst := false }, false))

/-- R105, R112, R113, R115, R116, R408, R409 and R431: what scan-out is due to take leaves the FIFO, and the image is read line by line while the FIFO has
room, in active scan-out for two lines less than its 4 096, which are on their way (the model's choice, log 76, with scan-out line by
line); the head's urgency is raised when the FIFO falls below the low mark and lowered at
the high mark or when it no longer scans, and every live die applies its changes in their order; the fill levels are counted for every 64
ticks; a channel group serves the miss that R113 picks, the write of its dirty victim first. That the count of raises saturates, and that
the victim's write is a step of its own, is the model's choice (log 84). -/
def Sys2Proof.Part.HeadFifosAndRegulators : Prop :=
  (∀ (s : State) (die : Nat), die < 9 → s.halted die = false →
    let h := (s.unit die).head
    let scans := h.on = true ∧ h.black = false ∧ h.shown.isSome = true
    let k := s.linesDue die - h.line
    let now := s.drainHead die
    let room := if s.activeNow die = true then 4094 else 4096
    let seen := min now.fill room
    let lo := s.reg die 0x40900 % 4096
    let hi := max (s.reg die 0x40900 / 4096 % 4096) (lo + 1)
    let t := s.setHead die now
    (scans → now = { h with line := h.line + k, fill := h.fill - k }) ∧ (¬ scans → now = h) ∧
    (¬ scans → exec (.activeScanOut die) s = .next s) ∧
    (scans → room ≤ now.fill ∨ s.headH die * s.rowLines die ≤ now.line + now.fill → exec (.activeScanOut die) s = .next t) ∧
    (∀ g c u bs, h.on = true → h.black = false → h.shown = some g →
      let i := now.line + now.fill
      now.fill < room → i < t.headH die * t.rowLines die → t.readCtx (t.headCtx die) = some c →
      t.partRead 0 die c (BitVec.ofNat 64 (t.reg die 0xA0010 + g % t.headNbuf die * (t.reg die 0xA0020 % 2 ^ 32) + 128 * i)) 128 =
        .ok (u, bs) →
      exec (.activeScanOut die) s = .next (u.setHead die { (u.unit die).head with fill := now.fill + 1 })) ∧
    (scans → h.urgent = false → seen < lo → exec (.urgencyRaise die) s = .next (s.setUrgency die true)) ∧
    (¬ scans ∨ h.urgent = true ∨ lo ≤ seen → exec (.urgencyRaise die) s = .next s) ∧
    (h.urgent = true → (hi ≤ seen ∨ ¬ scans) → exec (.urgencyLower die) s = .next (s.setUrgency die false)) ∧
    (h.urgent = false ∨ (seen < hi ∧ scans) → exec (.urgencyLower die) s = .next s)) ∧
  (∀ (s : State) (a b : List CtlMsg) (src dst head : Nat) (raised : Bool), s.ctl = a ++ ⟨src, dst, .urgency head raised⟩ :: b →
    let u : State := { s with ctl := a ++ b }
    let d := u.unit dst
    let bit : BitVec 9 := BitVec.ofNat 9 (2 ^ head)
    let older := ∃ x ∈ a, x.src = src ∧ x.dst = dst ∧ ∃ h r, x.body = .urgency h r
    (s.routed src dst = false ∨ older → exec (.urgencyChange a.length) s = .next s) ∧
    (s.routed src dst = true → ¬ older →
      (s.isOffline dst = true → exec (.urgencyChange a.length) s = .next u) ∧
      (s.isOffline dst = false → exec (.urgencyChange a.length) s = .next (u.setUnit dst { d with
        urgency := if raised = true then d.urgency ||| bit else d.urgency &&& ~~~bit
        raises := if raised = true then min (d.raises + 1) (2 ^ 32 - 1) else d.raises })))) ∧
  (∀ (s : State) (die : Nat), die < 9 → s.isOffline die = false →
    let u := s.unit die
    let t := s.setUnit die { u with sampled := s.tick / 64 }
    (s.tick / 64 ≤ u.sampled → exec (.fifoFillSample die) s = .next s) ∧
    (u.sampled < s.tick / 64 → t.counting die = false → exec (.fifoFillSample die) s = .next t) ∧
    (u.sampled < s.tick / 64 → t.counting die = true → exec (.fifoFillSample die) s =
      .next ((List.range (s.tick / 64 - u.sampled)).foldl (fun y i =>
        (State.fills { s with tick := 64 * (u.sampled + 1 + i) } die).zipIdx.foldl
          (fun x e => x.countBin die (0x44000 + 0x40 * e.2) (fillBin e.1.1 e.1.2)) y) t))) ∧
  (∀ (s : State) (die g : Nat), die < 9 → g < 6 → s.isOffline die = false →
    (s.cellarPick die g = none → exec (.cellarMissSchedule die g) s = .next s) ∧
    (∀ c key floored a m b, s.cellarPick die g = some (c, key, floored) → (s.group die g).misses = a ++ m :: b →
      (∀ x ∈ a, x.cls ≠ c) → m.cls = c →
      let q := s.group die g
      let r := s.rateTokens die g c
      let f := s.floorTokens die g c
      let u := s.setGroup die g { q with
        misses := if m.victim = true ∧ m.paid = false then a ++ { m with paid := true } :: b else a ++ b
        rate := storeSet (0, 0) q.rate c (r - 2048, s.tick)
        floor := storeSet (0, 0) q.floor c (if floored = true ∨ 2048 ≤ f then f - 2048 else f, s.tick)
        last := storeSet 15 q.last key c }
      (m.victim = true → m.paid = false → exec (.cellarMissSchedule die g) s = .next (u.countBytes die c 128)) ∧
      (m.victim = false ∨ m.paid = true → exec (.cellarMissSchedule die g) s =
        .next (u.measure die c (u.latency m.tick m.line c) 128))))

/-! Loss, resets, the host -/

/-- R14, R19, R20, R98, R99, R398 and R399: a lost link. No link, or one lost already, changes nothing. While every live die still reaches
every other, the live dies get new route tables, of lowest neighbours on shortest paths; else the dies outside the group that goes on, a
largest one, are fenced. Messages past the lost link come first. -/
def Sys2Proof.Part.LinkLoss : Prop :=
  (∀ (s : State) (a b : Nat),
    let l := (min a b, max a b)
    let cut (v : State) : State := { v with mdl := { v.mdl with lost := l :: s.mdl.lost, down := s.mdl.down } }
    let off (v : State) : List Nat := v.live.filter fun d => !(pickGroup v.groupsOf).contains d
    let u := cut (s.deliverPast (off (cut s)))
    let out := off u
    (l ∉ fabricLinks ∨ l ∈ s.mdl.lost → exec (.linkLost a b) s = .next s) ∧
    (l ∈ fabricLinks → l ∉ s.mdl.lost →
      (out = [] → exec (.linkLost a b) s = .next u.installRoutes) ∧
      (out ≠ [] → exec (.linkLost a b) s = .next (u.fence out)))) ∧
  (∀ gs : List (List Nat), gs ≠ [] → (∀ g ∈ gs, g ≠ []) → pickGroup gs ∈ gs ∧ ∀ g ∈ gs, g.length ≤ (pickGroup gs).length) ∧
  (∀ (joined : Nat → Nat → Bool) (a b n : Nat), a < 9 → b < 9 → (routeRow joined a).getD b a = n → n ≠ a →
    let dist (x : Nat) : Nat := (hopCounts joined b).getD x 9
    joined a n = true ∧ dist n + 1 = dist a ∧ ∀ m, m < n → joined a m = true → dist m + 1 ≠ dist a) ∧
  (∀ (s : State) (a b : Nat), s.mdl.routes.length = 9 → a < 9 →
    s.installRoutes.nextHop a b = if a ∈ s.live then (routeRow s.linked a).getD b a else s.nextHop a b) ∧
  (fabricLinks.length = 15 ∧ fabricLinks.Nodup ∧ (State.reset.groupsOf = [List.range 9]) ∧
    (∀ a b, a < 9 → b < 9 → State.reset.routed a b = true) ∧
    ∀ l ∈ fabricLinks,
      let u : State := { State.reset with mdl := { Module.reset with lost := [l] } }
      u.groupsOf.length = 1 ∧ ∀ a b, a < 9 → b < 9 → u.installRoutes.routed a b = true)

/-- R393 to R396: a store to RSTCMD by the management die is refused with RESULT 1, or the reset stands at its first step; its steps follow in
order, each when it can. That each step is an event, and that the reset of a fenced die begins at step 6, with the recall of its lines,
is the model's choice (logs 78, 94). -/
def Sys2Proof.Part.WarmResets : Prop :=
  (∀ (s : State) (die k : Nat) (v : Dword) (i : Nat → WarmCmd → Instr) (wipe kill : Bool),
    (i, wipe, kill) ∈ ([(.warmReset, false, false), (.warmResetKill, false, true), (.warmResetWipe, true, true)] :
      List ((Nat → WarmCmd → Instr) × Bool × Bool)) →
    die < 9 → v.getLsbD 4 = wipe → (wipe = false → v.getLsbD 5 = kill) →
    let x := v.toNat
    let d := x % 16
    let gives (k : Nat) (u : State) : Prop := exec (i die ⟨v, k⟩) s = .next u
    let refused := x / 64 % 2 ^ 26 ≠ 0 ∨ 8 < d ∨ d = s.mdl.mgmt ∨ s.mdl.warm.isSome = true ∨
      (s.isOffline d = true ∧ ¬ (d ∈ s.mdl.fenced ∧ kill = true)) ∨
      (s.isOffline d = false ∧ ∃ h, h < 8 ∧ d * 8 + h ∉ s.parkedHarts)
    (die ≠ s.mdl.mgmt → gives 0 s) ∧
    (die = s.mdl.mgmt → refused → gives 0 (s.setReg s.mdl.mgmt 0x80008 (x / 2 ^ 32 * 2 ^ 32 + 1))) ∧
    (die = s.mdl.mgmt → ¬ refused → gives 0 { s with mdl := { s.mdl with
      warm := some ⟨v, d, kill, wipe, if s.isOffline d = true then 6 else 1⟩ } }) ∧
    (0 < k → (∀ r, s.mdl.warm = some r → r.cmd ≠ v ∨ r.step ≠ k) → gives k s) ∧
    (∀ r, 0 < k → s.mdl.warm = some r → r.cmd = v → r.step = k → gives k (s.warmStep r))) ∧
  (∀ (s : State) (r : WarmReset),
    let at_ (u : State) (k : Nat) : State := { u with mdl := { u.mdl with warm := some { r with step := k } } }
    let ends (u : State) (result : Nat) : State :=
      State.setReg { u with mdl := { u.mdl with warm := none } } u.mdl.mgmt 0x80008 (r.cmd.toNat / 2 ^ 32 * 2 ^ 32 + result)
    let signed := Config.signatureOk s.mdl.life.key s.mdl.image
    (r.step = 1 → r.kill = true →
      let u := (s.killWork r.die).loseLaunches r.die
      s.warmStep r = if u.workOver r.die = true then at_ u 2 else u) ∧
    (r.step = 1 → r.kill = false →
      let u := s.saveAll r.die
      s.warmStep r = if u.allSaved r.die = true then at_ (u.suspendLaunches r.die) 2 else u) ∧
    (r.step = 2 → s.warmStep r =
      if s.homeIdle r.die = false then s
      else if s.dirLines r.die = [] then at_ s 3 else (s.dirLines r.die).foldl (fun x l => x.recallLine l) s) ∧
    (r.step = 3 → ((∀ q ∈ (s.die r.die).reqs, homeOf q.line = r.die) → s.warmStep r = at_ ((s.sendHome r.die).flushOwn r.die) 4) ∧
      ((∃ q ∈ (s.die r.die).reqs, homeOf q.line ≠ r.die) → s.warmStep r = s)) ∧
    (r.step = 4 →
      let u := s.markOffline r.die
      s.warmStep r = if s.dieQuiet r.die = true then at_ (if r.kill = true then u.loseLaunches r.die else u.suspendLaunches r.die) 5
        else s) ∧
    (r.step = 5 → s.warmStep r = at_ ((s.losePantry r.die).linksDown r.die) 6) ∧
    (r.step = 6 → s.warmStep r = at_ ((if r.die ∈ s.mdl.fenced then s.recallFenced r.die else s).resetLogic r.die r.wipe) 7) ∧
    (r.step = 7 →
      let u := s.setUnit r.die ((s.unit r.die).boot signed s.attic s.mdl.root s.mdl.image)
      s.warmStep r = if signed = true then at_ u 8 else ends (((u.cutWork r.die false).unsuspend).loseLaunches r.die) 2) ∧
    (r.step = 8 → s.warmStep r = at_ (s.linksUp r.die) 9) ∧
    (r.step = 9 → s.warmStep r = at_ (s.readmit r.die).installRoutes 10) ∧
    (r.step = 10 → s.warmStep r = ends (if r.wipe = true then s.homeGone r.die else s.homeBack r.die).unsuspend 0)) ∧
  (∀ (s : State) (die : Nat) (wipe : Bool),
    let u := s.resetLogic die wipe
    (∀ c, coreDie c = die → mapFind u.cores c = none) ∧
    (∀ k, k / 2 ^ 32 = die → k % 2 ^ 32 < 0xA0000 → k ∉ u.regs.map fun e => e.1) ∧
    (∀ a : Nat, a / 2 ^ 40 ≠ die → storeGet 0 u.mem a = storeGet 0 s.mem a) ∧
    (wipe = true → ∀ a : Nat, a / 2 ^ 40 = die → storeGet 0 u.mem a = 0))

/-- R27, R104, R402, R411, R412, R414: a machine check, by an error in a tag line or a reserved message, stops the module, is recorded, and raises its
vector. A reset of the module keeps memory but for the tag areas; power-on zeroes memory and registers; a signed transition of the life
cycle zeroes memory. That a module reset keeps the tick, and structure 5 of a machine check, are the model's choice (logs 79, 73). -/
def Sys2Proof.Part.ModuleResets : Prop :=
  (∀ (s : State) (c : Byte) (die : Nat) (pa : BitVec 48), die < 9 →
    let caused := (s.tagPart die pa.toNat c.toNat = true) ∨ (c = 3 ∧ pa.toNat < 64 ∧ reservedMsg pa.toNat = true)
    let place := if c = 3 then pa.toNat else pa.toNat / 128 * 128
    let u : State := { s with mdl := { s.mdl with stopped := true } }
    let v := u.setReg u.mdl.mgmt 0x10508 (c.toNat + die * 2 ^ 8 + place * 2 ^ 16)
    let w := if c = 3 then v.interrupt .error else v.logError ⟨5, die, 0, false, true, pa.toNat / 128⟩
    (s.mdl.stopped = true ∨ ¬ caused → exec (.machineCheck c die pa) s = .next s) ∧
    (s.mdl.stopped = false → caused → exec (.machineCheck c die pa) s = .next (w.interrupt .machineCheck))) ∧
  (∀ (s : State) (a b : List CtlMsg) (src dst : Nat) (e : List Byte), s.ctl = a ++ ⟨src, dst, .errorNote e⟩ :: b →
    exec (.errornote a.length) s = .next (if s.routed src dst = true then ({ s with ctl := a ++ b } : State).putError dst e else s)) ∧
  (∀ (s : State) (attic : Config.AtticSize) (root : Bool),
    let u := s.restart attic root s.mdl.life s.mdl.image (withoutTags attic s.mem)
    exec (.moduleReset ⟨attic, root⟩) s = .next u ∧ u.warps = [] ∧ u.wgs = [] ∧ u.launches = [] ∧ u.dies = [] ∧ u.cores = [] ∧
    u.regs = [] ∧ u.tick = s.tick ∧ u.offline = [] ∧ u.mdl.root = root ∧ u.attic = attic ∧
    (∀ a : Nat, (0x90000000000 ≤ a ∨ a % 2 ^ 40 < atticTag attic) → storeGet 0 u.mem a = storeGet 0 s.mem a)) ∧
  (∀ (s : State) (attic : Config.AtticSize) (root : Bool) (image : List Byte), ∃ u,
    exec (.powerOnBoot ⟨attic, root⟩ image) s = .next u ∧ u.mem = [] ∧ u.tick = 0 ∧ u.clock = 0 ∧ u.warps = [] ∧ u.launches = [] ∧
    u.regs = [] ∧ u.attic = attic ∧ u.mdl.root = root ∧ u.mdl.image = image ∧
    (u.mdl.booted = true ↔ Config.signatureOk s.mdl.life.key image = true)) ∧
  (∀ (s : State) (cmd : List Byte),
    let signed := Config.signatureOk s.mdl.life.key cmd
    let kept := s.mem.filter fun e => decide (0x90000000000 ≤ e.1)
    (signed = false ∨ s.mdl.life = .returned → exec (.lifeCycleTransition cmd) s = .next s) ∧
    (signed = true → s.mdl.life = .manufacture →
      exec (.lifeCycleTransition cmd) s = .next (s.restart s.attic s.mdl.root .secured s.mdl.image kept)) ∧
    (signed = true → s.mdl.life = .secured →
      exec (.lifeCycleTransition cmd) s = .next (s.restart s.attic s.mdl.root .returned s.mdl.image kept))) ∧
  (∀ (s : State) (die : Nat) (image : List Byte), die < 9 →
    let ok := Config.signatureOk s.mdl.life.key image
    let t : State := { s with mdl := { s.mdl with image := image } }
    let u := t.setUnit die ((t.unit die).boot ok t.attic t.mdl.root image)
    let v := if ok = true ∧ u.isOffline die = true then (((u.linksUp die).readmit die).installRoutes).homeBack die else u
    ((s.unit die).recovery = false → exec (.firmwareImageWrite die image) s = .next s) ∧
    ((s.unit die).recovery = true → (∃ d, d < 9 ∧ (v.unit d).recovery = true) → exec (.firmwareImageWrite die image) s = .next v) ∧
    ((s.unit die).recovery = true → (∀ d, d < 9 → (v.unit d).recovery = false) →
      exec (.firmwareImageWrite die image) s = .next { v with mdl := { v.mdl with booted := true } }))

/-- R106, R108, R117, R389, R399 and R415: stores to registers. A plain register keeps its writable bits; the management die alone writes those that
it forwards, on all dies. STEER entries are stored modulo 9, CLSCFG in its legal ranges; MONCTL counts what is due, SNAP, then CLEAR;
ERRHEAD takes entries. An offline die takes no store. What the map leaves open is the model's choice (log 81). -/
def Sys2Proof.Part.RegisterStores : Prop :=
  (∀ (s : State) (die off : Nat) (v : Dword), die < 9 → off % 8 = 0 →
    (plainReg off = none ∨ s.isOffline die = true → exec (.registerWrite die off v) s = .next s) ∧
    (∀ r, plainReg off = some r → s.isOffline die = false → off ≠ 0x41000 → off ≠ 0xB2008 →
      let x := storedValue off r.mask v.toNat
      (r.mgmt = false → exec (.registerWrite die off v) s = .next (s.setReg die off x)) ∧
      (r.mgmt = true → die ≠ s.mdl.mgmt → exec (.registerWrite die off v) s = .next s) ∧
      (r.mgmt = true → die = s.mdl.mgmt →
        exec (.registerWrite die off v) s = .next ((List.range 9).foldl (fun u d => u.setReg d off x) s)))) ∧
  (∀ (s : State) (die w i : Nat) (v : Dword), die < 9 → w < 32 → i < 16 →
    let x := steerWord w v.toNat
    let e := v.toNat / 2 ^ (4 * i) % 16
    x / 2 ^ (4 * i) % 16 = (if 9 ≤ e then (16 * w + i) % 9 else e) ∧
    (s.isOffline die = true → exec (.steerWrite die w v) s = .next s) ∧
    (s.isOffline die = false → die ≠ s.mdl.mgmt → exec (.steerWrite die w v) s = .next (s.setReg die (0x10800 + 8 * w) x)) ∧
    (s.isOffline die = false → die = s.mdl.mgmt → exec (.steerWrite die w v) s =
      .next ((List.range 9).foldl (fun u d => u.setReg d (0x10800 + 8 * w) x) s))) ∧
  (∀ (s : State) (die : Nat) (v : Dword), die < 9 →
    let t := s.setReg die 0x80100 (v.toNat % 2 ^ 32)
    let ctl (u : State) : State := u.setReg die 0x41000 (v.toNat % 2)
    let now := s.sampleDie die
    let snap := now.snapMonitors die
    let head := v.toNat % 256
    (s.isOffline die = false → exec (.registerWrite die 0xB2008 v) s = .next ((s.setUnit die { s.unit die with
      errHeld := min (s.unit die).errHeld ((s.reg die 0xB2000 + 256 - head) % 256) }).setReg die 0xB2008 head)) ∧
    (s.isOffline die = false →
      let u := if v.getLsbD 2 = true then snap else now
      exec (.registerWrite die 0x41000 v) s = .next (ctl (if v.getLsbD 1 = true then u.clearMonitors die else u))) ∧
    (s.isOffline die = true → exec (.wdogWrite die v) s = .next s) ∧
    (s.isOffline die = false → (∀ e ∈ s.wgs, e.2.die ≠ die) → exec (.wdogWrite die v) s = .next t) ∧
    (s.isOffline die = false → ∀ e, s.wgs = [e] → e.2.die = die → ∀ u, exec (.workgroupWatchdog e.1) t = .next u →
      exec (.wdogWrite die v) s = .next u) ∧
    (v.getLsbD 2 = true → s.isOffline die = true → exec (.monctlSnap die v) s = .next s) ∧
    (v.getLsbD 2 = true → s.isOffline die = false → v.getLsbD 1 = false →
      exec (.monctlSnap die v) s = .next (ctl snap)) ∧
    (v.getLsbD 2 = true → s.isOffline die = false → v.getLsbD 1 = true →
      exec (.monctlSnap die v) s = .next (ctl (snap.clearMonitors die))) ∧
    (v.getLsbD 2 = false → v.getLsbD 1 = true → s.isOffline die = false →
      exec (.monctlClear die v) s = .next (ctl (now.clearMonitors die)))) ∧
  (∀ (s : State) (die c : Nat) (v : Dword), die < 9 → c < 16 → s.isOffline die = false → ∃ u,
    exec (.clscfgWrite die c v) s = .next u ∧ u.reg die (0x40000 + 8 * c) = clsStored v.toNat ∧
    (∀ d off, d < 9 → off < 2 ^ 32 → (d, off) ≠ (die, 0x40000 + 8 * c) → u.reg d off = s.reg d off))

/-- R25, R96, R146, R393, R401, R402 and R412: a peer's access is coherent, its No-Snoop read sees memory alone; a line on its way gives nothing
yet. A running hart uses its own cache; its virtual addresses walk a context's page tables. A closed address is the host's access fault; the
driver sets the vectors; BAR0 shows the register blocks. A report goes to an open address, signed; in RETURNED it is refused. What the spec
leaves open of a host, and a report for a closed address, is the model's choice (logs 9, 80). -/
def Sys2Proof.Part.HostAccesses : Prop :=
  (∀ (s : State) (a : HostAccess) (die off : Nat), hostOk a = true →
    let pa := a.pa.toNat
    let gives (u : State) : Prop := exec (.hostCoreAccess a) s = .next u
    let old := s.viewNat pa a.size
    let bytes (n : Nat) : List Byte := leBytes a.size n
    let t (w : Bool) : State := { s.homeTouch none pa 2 w with hostFault := false }
    let access := a.op ≠ .offline ∧ a.op ≠ .online ∧ ∀ k n h, a.op ≠ .vector k n h
    let kind := paKind s.attic s.window pa
    let reads (die off : Nat) : State :=
      { s with hostData := bytes (s.readReg die (off / 8 * 8) / 2 ^ (8 * (off % 8))), hostFault := false }
    (access → s.hostThere a.agent = false → gives s) ∧
    (access → s.hostThere a.agent = true → a.agent ≠ .bar0 → a.via = none →
      (kind = .dram die off → a.agent = .peer →
        let away := s.paBusy pa = true ∨ s.isOffline (homeOf (pa / 128)) = true
        (away → gives s) ∧
        (¬ away →
          (a.op = .load ∨ a.op = .fetch → gives { t false with hostData := bytes old }) ∧
          (a.op = .noSnoop → gives { t false with hostData := bytes (memNat s.mem pa a.size) }) ∧
          (a.op = .store → gives { (s.homeTouch none pa 2 true).sysWrite pa a.data with hostFault := false }) ∧
          (∀ k, a.op = .amo k → gives { (s.homeTouch none pa 2 true).sysWrite pa (bytes (amoOp k (8 * a.size) old (leNat a.data))) with
            hostData := bytes old, hostFault := false }))) ∧
      (∀ h, kind = .dram die off → a.agent = .hart h →
        let rd := s.l1Read (hartCore h) (pa / 128) (pa % 128) a.size .plain 2
        let wr := s.l1Write (hartCore h) (pa / 128) (linePlace (pa % 128) (leNat a.data)) (nibBytes (pa % 128) a.size) .plain 2
        (a.op = .load ∨ a.op = .fetch ∨ a.op = .noSnoop →
          (∀ u, rd = (u, none) → gives u) ∧
          (∀ u bs, rd = (u, some bs) → gives { u with hostData := bytes (leNat bs), hostFault := false })) ∧
        (a.op = .store → (∀ u, wr = (u, false) → gives u) ∧ (∀ u, wr = (u, true) → gives { u with hostFault := false }))) ∧
      (kind = .register die off → a.op = .load → gives (if s.isOffline die = true then s else reads die off)) ∧
      (kind = .external → (a.op = .load → gives { s with hostData := bytes (memNat s.mem pa a.size), hostFault := false }) ∧
        (a.op = .store → gives { s.sysWrite pa a.data with hostFault := false })) ∧
      ((kind ≠ .external ∧ ∀ d o, kind ≠ .dram d o ∧ kind ≠ .register d o) → gives { s with hostFault := true })) ∧
    (∀ h slot va, access → s.hostThere a.agent = true → a.agent = .hart h → a.via = some (slot, va) →
      (s.hartTranslate (h / 8) slot a.op va = .wait → gives s) ∧
      (s.hartTranslate (h / 8) slot a.op va = .fault → gives { s with hostFault := true }) ∧
      (∀ u q, s.hartTranslate (h / 8) slot a.op va = .pa u q → gives (u.hostAt a q))) ∧
    (∀ k n h, a.op = .vector k n h →
      let v := { s.mdl.vectors with harts := storeSet 0 s.mdl.vectors.harts k h }
      let set (x : Vectors) : State := { s with mdl := { s.mdl with vectors := x } }
      (s.hostThere a.agent = false → gives s) ∧
      (s.hostThere a.agent = true → (k = 2 → gives (set { v with error := n })) ∧ (k = 3 → gives (set { v with machineCheck := n })) ∧
        (k = 4 → gives (set { v with frameLock := n })) ∧ (k = 5 → gives (set { v with power := n })) ∧ (k < 2 → gives (set v)))) ∧
    (s.hostThere a.agent = true → a.agent = .bar0 → a.op = .load → pa / 2 ^ 32 < 9 →
      gives (if s.isOffline (pa / 2 ^ 32) = true then s else reads (pa / 2 ^ 32) (pa % 2 ^ 32))) ∧
    (∀ h, a.agent = .hart h → h < 72 → h / 8 ∈ s.live →
      let others := s.parkedHarts.filter fun x => x != h
      (a.op = .offline → gives { s with parkedHarts := h :: others }) ∧ (a.op = .online → gives { s with parkedHarts := others }))) ∧
  (∀ (s : State) (die : Nat) (v : Dword), die < 9 → s.isOffline die = false → s.paBusy v.toNat = false →
    s.paBusy (v.toNat + 128) = false →
    let pa := v.toNat / 256 * 256
    let t := (s.setReg die 0xD0000 pa).setReg die 0xD0008 0
    (s.mdl.life = .returned → exec (.attreqWrite die v) s = .next (t.setReg die 0xD0008 2)) ∧
    (s.mdl.life ≠ .returned → paOpen s.attic s.window pa = false → exec (.attreqWrite die v) s = .next t) ∧
    (s.mdl.life ≠ .returned → paOpen s.attic s.window pa = true →
      let r := t.report die (t.readBytes 2 pa 48)
      let u := ((t.homeTouch (some die) pa 2 false).homeTouch (some die) pa 2 true).homeTouch (some die) (pa + 128) 2 true
      exec (.attreqWrite die v) s =
        .next ((State.writeBytes 4 u pa (r ++ leBytes 96 (Config.attestSign die r))).setReg die 0xD0008 1)))

/-! The obligations that state several parts -/

/-- Reserved words are refused, and what the fetch cannot decode traps at its PC. -/
def Obligations.ReservedWordsTrap : Prop :=
  Sys2Proof.Part.ReservedWordsRefused ∧ Sys2Proof.Part.FetchTraps

/-- The mask operations, and what a written mask group reads as. -/
def Obligations.MaskInstructions : Prop :=
  Sys2Proof.Part.MaskOperations ∧ Sys2Proof.Part.MaskGroupReadsBack

/-- SMODE changes the selected bits of MODE, returns the old MODE and seeds every lane. -/
def Obligations.ModeChange : Prop :=
  Sys2Proof.Part.ModeSelectedBits ∧ Sys2Proof.Part.SeedingReachesEveryLane

/-- The vector instructions that compute lane by lane complete in every form. -/
def Obligations.VectorLanes : Prop :=
  Sys2Proof.Part.LaneOpcodes ∧ Sys2Proof.Part.VectorConversions ∧ Sys2Proof.Part.VectorFourOperands

/-- What the integer, bitwise and floating-point opcodes and the conversions compute in a lane. -/
def Obligations.LaneResults : Prop :=
  Sys2Proof.Part.IntegerElements ∧ Sys2Proof.Part.FloatElements ∧ Sys2Proof.Part.ElementConversions

/-- Shuffles, broadcasts, votes and matches, and the limits of sub-groups. -/
def Obligations.CrossLane : Prop :=
  Sys2Proof.Part.Shuffles ∧ Sys2Proof.Part.VotesAndMatches ∧ Sys2Proof.Part.SubGroupLimits

/-- Reductions and scans in their fixed tree; on integers the tree is a plain fold. -/
def Obligations.ReductionsAndScans : Prop :=
  Sys2Proof.Part.FixedTrees ∧ Sys2Proof.Part.IntegerReductionIsFold

/-- BRD parks the taken lanes; JOIN brings them together or parks. -/
def Obligations.DivergenceAndJoins : Prop :=
  Sys2Proof.Part.DivergentBranch ∧ Sys2Proof.Part.JoinLanes

/-- Parking a path, and the choice of the path that runs. -/
def Obligations.PathTable : Prop :=
  Sys2Proof.Part.ParkedPaths ∧ Sys2Proof.Part.SwitchRunsLowest

/-- TRAP, BRK and held traps enter the handler or kill; TRET returns. -/
def Obligations.TrapsAndReturns : Prop :=
  Sys2Proof.Part.SoftwareTraps ∧ Sys2Proof.Part.TrapReturns ∧ Sys2Proof.Part.HeldTraps

/-- BAR, BARC, BARD and NEXT park at a barrier; what its completion releases. -/
def Obligations.Barriers : Prop :=
  Sys2Proof.Part.BarriersArrive ∧ Sys2Proof.Part.BarriersRelease

/-- WAITC, WAITB, ARRB, FENCE, NAP and YIELD, and barrier objects. -/
def Obligations.Waits : Prop :=
  Sys2Proof.Part.WaitingInstructions ∧ Sys2Proof.Part.BarrierObjects

/-- Alignment, canonical form and range checks of vector memory addresses. -/
def Obligations.AddressChecks : Prop :=
  Sys2Proof.Part.FirstFailingLane ∧ Sys2Proof.Part.ScratchPlaces

/-- Loads, stores, atomics and prefetches enter the machine with the parts of their lanes. -/
def Obligations.MemoryIssues : Prop :=
  Sys2Proof.Part.VectorMemoryIssues ∧ Sys2Proof.Part.ScalarMemoryIssues

/-- What an access reads and writes where it is performed. -/
def Obligations.AccessesPerform : Prop :=
  Sys2Proof.Part.DirectAccesses ∧ Sys2Proof.Part.CachedAccesses

/-- The page walk, level by level, its faults, and what it leaves. -/
def Obligations.PageWalks : Prop :=
  Sys2Proof.Part.WalkLevels ∧ Sys2Proof.Part.WalksComplete

/-- Translation faults, fault queues and their answers, shootdowns. -/
def Obligations.FaultsAndShootdowns : Prop :=
  Sys2Proof.Part.FaultsPark ∧ Sys2Proof.Part.FaultQueues ∧ Sys2Proof.Part.Shootdowns

/-- REL, ACQ and their wakes, BIND and UNBIND. -/
def Obligations.LatchesAndRegions : Prop :=
  Sys2Proof.Part.AcquireAndRelease ∧ Sys2Proof.Part.RegionTable

/-- Matrix and copy instructions check their operands and queue their jobs. -/
def Obligations.EngineInstructions : Prop :=
  Sys2Proof.Part.MatrixInstructionsQueue ∧ Sys2Proof.Part.CopyInstructionsQueue

/-- What a job does as it starts, goes on and completes. -/
def Obligations.EngineJobs : Prop :=
  Sys2Proof.Part.JobsStart ∧ Sys2Proof.Part.ArrayWords ∧ Sys2Proof.Part.JobsGoOn

/-- SPLIT and FUSE, and the warp that two halves fuse to. -/
def Obligations.SplitAndFuse : Prop :=
  Sys2Proof.Part.WarpsSplit ∧ Sys2Proof.Part.WarpsReachFuse ∧ Sys2Proof.Part.WarpsFuse

/-- The deque instructions, QPUSH and QPOP. -/
def Obligations.Queues : Prop :=
  Sys2Proof.Part.Deques ∧ Sys2Proof.Part.ScratchQueues

/-- Enqueues into the Pantry, their messages, the fold operators, class descriptors and seals. -/
def Obligations.PantryEnqueues : Prop :=
  Sys2Proof.Part.Enqueues ∧ Sys2Proof.Part.PantryMessages ∧ Sys2Proof.Part.FoldOperators ∧ Sys2Proof.Part.PantryRecords

/-- PLIFT, and the dispatch of records. -/
def Obligations.LiftsAndDispatch : Prop :=
  Sys2Proof.Part.Lifts ∧ Sys2Proof.Part.RecordDispatch

/-- LAUNCH and the enqueue ports, and the messages that hand out batches. -/
def Obligations.Launches : Prop :=
  Sys2Proof.Part.LaunchRecords ∧ Sys2Proof.Part.LaunchMessages

/-- Placing, saving and restoring workgroups, and the carve-outs of cores. -/
def Obligations.Placement : Prop :=
  Sys2Proof.Part.PlacementOrder ∧ Sys2Proof.Part.SavesAndRestores ∧ Sys2Proof.Part.CarveOuts

/-- GSIG, the graph engines and the replay ports. -/
def Obligations.Graphs : Prop :=
  Sys2Proof.Part.GraphSignals ∧ Sys2Proof.Part.GraphRuns ∧ Sys2Proof.Part.ReplayPorts

/-- TEX and TEXF, and the address modes. -/
def Obligations.Textures : Prop :=
  Sys2Proof.Part.TexturesSample ∧ Sys2Proof.Part.TexelAddressModes

/-- KILL, VISR and EMIT. -/
def Obligations.FragmentWaves : Prop :=
  Sys2Proof.Part.KillLanes ∧ Sys2Proof.Part.VisibilityReads ∧ Sys2Proof.Part.EmitFragments

/-- The requests between dies at their home, and which dies they snoop. -/
def Obligations.CoherenceRequests : Prop :=
  Sys2Proof.Part.RequestsReachHome ∧ Sys2Proof.Part.SnoopsOfRequests

/-- Snoops at a die, WriteBacks and responses. -/
def Obligations.CoherenceReplies : Prop :=
  Sys2Proof.Part.SnoopsAnswered ∧ Sys2Proof.Part.ResponsesArrive

/-- Frame jobs, their steps and their end, and blending. -/
def Obligations.FrameJobs : Prop :=
  Sys2Proof.Part.FrameJobSteps ∧ Sys2Proof.Part.BlendWrites

/-- Coverage of pixels by triangles, and what Skim keeps. -/
def Obligations.Rasterisation : Prop :=
  Sys2Proof.Part.RasterCoverage ∧ Sys2Proof.Part.SkimTargets

/-- The frame lock registers, and frame edges. -/
def Obligations.FrameLock : Prop :=
  Sys2Proof.Part.FrameLockRegisters ∧ Sys2Proof.Part.FrameEdges

/-- Power steps, display heads, regulators and channel groups. -/
def Obligations.PowerAndHeads : Prop :=
  Sys2Proof.Part.PowerSteps ∧ Sys2Proof.Part.DisplayHeads ∧ Sys2Proof.Part.HeadFifosAndRegulators

/-- Lost links, resets, stores to registers, accesses of the host, attestation. -/
def Obligations.ResetsAndRegisters : Prop :=
  Sys2Proof.Part.LinkLoss ∧ Sys2Proof.Part.WarmResets ∧ Sys2Proof.Part.ModuleResets ∧ Sys2Proof.Part.RegisterStores ∧ Sys2Proof.Part.HostAccesses
end

