-- ==== Sys2Proof/Laws/Maps.lean ====
section
/-! SUPPORT. Laws of the finite maps: reading after a write, and the canonical form that every operation keeps. -/

namespace Sys2Proof.Machine

variable {α : Type}

@[simp] theorem mapFind_mapPut_same (m : FMap α) (k : Nat) (v : α) : mapFind (mapPut m k v) k = some v := by
  induction m with
  | nil => simp [mapPut, mapFind]
  | cons e r ih =>
    obtain ⟨k', v'⟩ := e
    simp only [mapPut]
    split
    · simp [mapFind]
    · split
      · simp [mapFind]
      · simp [mapFind, *]

theorem mapFind_mapPut_other (m : FMap α) {k j : Nat} (v : α) (h : j ≠ k) : mapFind (mapPut m k v) j = mapFind m j := by
  induction m with
  | nil => simp [mapPut, mapFind, h]
  | cons e r ih =>
    obtain ⟨k', v'⟩ := e
    simp only [mapPut]
    split
    · simp [mapFind, h]
    · split
      · next hk => subst hk; simp [mapFind, h]
      · simp only [mapFind, ih]

@[simp] theorem mapFind_mapDel_same (m : FMap α) (k : Nat) : mapFind (mapDel m k) k = none := by
  induction m with
  | nil => rfl
  | cons e r ih =>
    obtain ⟨k', v'⟩ := e
    by_cases hk : k' = k
    · simpa [mapDel, hk] using ih
    · have hk' : k ≠ k' := fun h => hk h.symm
      simpa [mapDel, hk, mapFind, hk'] using ih

theorem mapFind_mapDel_other (m : FMap α) {k j : Nat} (h : j ≠ k) : mapFind (mapDel m k) j = mapFind m j := by
  induction m with
  | nil => rfl
  | cons e r ih =>
    obtain ⟨k', v'⟩ := e
    by_cases hk : k' = k
    · subst hk; simpa [mapDel, mapFind, h] using ih
    · by_cases hj : j = k'
      · simp [mapDel, hk, mapFind, hj]
      · simpa [mapDel, hk, mapFind, hj] using ih

section store
variable [DecidableEq α] (d : α)

@[simp] theorem storeGet_storeSet_same (m : FMap α) (k : Nat) (v : α) : storeGet d (storeSet d m k v) k = v := by
  unfold storeSet storeGet
  split
  · next h => simp [h]
  · simp

theorem storeGet_storeSet_other (m : FMap α) {k j : Nat} (v : α) (h : j ≠ k) :
    storeGet d (storeSet d m k v) j = storeGet d m j := by
  unfold storeSet storeGet
  split
  · rw [mapFind_mapDel_other m h]
  · rw [mapFind_mapPut_other m v h]

/-! The canonical form -/

omit [DecidableEq α] in
theorem mapSorted_mapPut (m : FMap α) (k : Nat) (v : α) (lo : Option Nat) (h : mapSorted lo m = true)
    (hk : ∀ x, lo = some x → x < k) : mapSorted lo (mapPut m k v) = true := by
  induction m generalizing lo with
  | nil => cases lo with
    | none => simp [mapPut, mapSorted]
    | some x => simp [mapPut, mapSorted, hk x rfl]
  | cons e r ih =>
    obtain ⟨k', v'⟩ := e
    simp only [mapPut]
    split
    · next hlt => cases lo with
      | none => simp_all [mapSorted]
      | some x => simp_all [mapSorted]
    · split
      · next heq => subst heq; cases lo <;> simp_all [mapSorted]
      · next hn hne =>
        have hlt : k' < k := by omega
        cases lo with
        | none =>
          simp only [mapSorted] at h ⊢
          exact ih (some k') h (by rintro x hx; simp only [Option.some.injEq] at hx; omega)
        | some y =>
          simp only [mapSorted, Bool.and_eq_true] at h ⊢
          exact ⟨h.1, ih (some k') h.2 (by rintro x hx; simp only [Option.some.injEq] at hx; omega)⟩

omit [DecidableEq α] in
theorem mapSorted_loosen (m : FMap α) {a b : Nat} (h : a ≤ b) (hm : mapSorted (some b) m = true) :
    mapSorted (some a) m = true := by
  cases m with
  | nil => rfl
  | cons e r =>
    simp only [mapSorted, Bool.and_eq_true, decide_eq_true_eq] at hm ⊢
    exact ⟨by omega, hm.2⟩

omit [DecidableEq α] in
theorem mapSorted_filter (p : Nat × α → Bool) (m : FMap α) (lo : Option Nat) (h : mapSorted lo m = true) :
    mapSorted lo (m.filter p) = true := by
  induction m generalizing lo with
  | nil => simpa using h
  | cons e r ih =>
    obtain ⟨k, v⟩ := e
    have hr : mapSorted (some k) r = true := by cases lo <;> simp_all [mapSorted]
    by_cases hp : p (k, v) = true
    · rw [List.filter_cons_of_pos hp]
      cases lo with
      | none => exact ih _ hr
      | some x =>
        simp only [mapSorted, Bool.and_eq_true] at h ⊢
        exact ⟨h.1, ih _ hr⟩
    · rw [List.filter_cons_of_neg hp]
      cases lo with
      | none =>
        cases hf : r.filter p with
        | nil => rfl
        | cons e' r' =>
          have := ih (some k) hr
          rw [hf] at this
          simp only [mapSorted, Bool.and_eq_true] at this ⊢
          exact this.2
      | some x =>
        simp only [mapSorted, Bool.and_eq_true, decide_eq_true_eq] at h
        exact ih _ (mapSorted_loosen r (by omega) h.2)

theorem storeWf_filter (p : Nat × α → Bool) (m : FMap α) (h : storeWf d m = true) : storeWf d (m.filter p) = true := by
  simp only [storeWf, Bool.and_eq_true, List.all_eq_true] at h ⊢
  exact ⟨mapSorted_filter p m none h.1, fun e he => h.2 e (List.mem_filter.mp he).1⟩

omit [DecidableEq α] in
theorem mem_mapPut (m : FMap α) (k : Nat) (v : α) (e : Nat × α) (h : e ∈ mapPut m k v) : e = (k, v) ∨ e ∈ m := by
  induction m with
  | nil => simpa [mapPut] using h
  | cons x r ih =>
    obtain ⟨k', v'⟩ := x
    simp only [mapPut] at h
    split at h
    · simpa using h
    · split at h
      · rcases List.mem_cons.mp h with h | h
        · exact .inl h
        · exact .inr (List.mem_cons_of_mem _ h)
      · rcases List.mem_cons.mp h with h | h
        · exact .inr (h ▸ List.mem_cons_self)
        · rcases ih h with h | h
          · exact .inl h
          · exact .inr (List.mem_cons_of_mem _ h)

/-- A write keeps the canonical form. -/
theorem storeWf_storeSet (m : FMap α) (k : Nat) (v : α) (h : storeWf d m = true) : storeWf d (storeSet d m k v) = true := by
  unfold storeSet
  split
  · exact storeWf_filter d _ m h
  · next hv =>
    simp only [storeWf, Bool.and_eq_true, List.all_eq_true, decide_eq_true_eq] at h ⊢
    refine ⟨mapSorted_mapPut m k v none h.1 (by simp), fun e he => ?_⟩
    rcases mem_mapPut m k v e he with rfl | he
    · exact hv
    · exact h.2 e he

end store

/-! Memory -/

/-- Every operation on memory keeps its canonical form. -/
theorem memory_wf_putBytes (m : FMap Byte) (pa : Nat) (bs : List Byte) (h : Memory.wf m = true) :
    Memory.wf (putBytes m pa bs) = true := by
  induction bs generalizing m pa with
  | nil => exact h
  | cons b bs ih => exact ih _ _ (storeWf_storeSet 0 m pa b h)

theorem memory_wf_putLine (m : FMap Byte) (x : Nat) (d : Line) (h : Memory.wf m = true) :
    Memory.wf (putLine m x d) = true := memory_wf_putBytes m _ _ h

theorem memory_wf_mergeMem (m : FMap Byte) (x : Nat) (d : Line) (k : NibMask) (h : Memory.wf m = true) :
    Memory.wf (mergeMem m x d k) = true := by
  unfold mergeMem
  split
  · exact h
  · exact memory_wf_putLine m x _ h

theorem memory_wf_reset : Memory.wf State.reset.mem = true := rfl

end Sys2Proof.Machine
end

