-- ==== Sys2Proof/Laws/State.lean ====
section
/-! SUPPORT. What each plain update of the state changes and what it leaves: one lemma for each field. -/

namespace Sys2Proof.Machine

/-! putByte -/

@[simp] theorem putByte_tick (s : State) (pa : Nat) (b : Byte) : (s.putByte pa b).tick = s.tick := rfl
@[simp] theorem putByte_clock (s : State) (pa : Nat) (b : Byte) : (s.putByte pa b).clock = s.clock := rfl
@[simp] theorem putByte_schedule (s : State) (pa : Nat) (b : Byte) : (s.putByte pa b).schedule = s.schedule := rfl
@[simp] theorem putByte_turnNo (s : State) (pa : Nat) (b : Byte) : (s.putByte pa b).turnNo = s.turnNo := rfl
@[simp] theorem putByte_regs (s : State) (pa : Nat) (b : Byte) : (s.putByte pa b).regs = s.regs := rfl
@[simp] theorem putByte_attic (s : State) (pa : Nat) (b : Byte) : (s.putByte pa b).attic = s.attic := rfl
@[simp] theorem putByte_offline (s : State) (pa : Nat) (b : Byte) : (s.putByte pa b).offline = s.offline := rfl
@[simp] theorem putByte_cores (s : State) (pa : Nat) (b : Byte) : (s.putByte pa b).cores = s.cores := rfl
@[simp] theorem putByte_dies (s : State) (pa : Nat) (b : Byte) : (s.putByte pa b).dies = s.dies := rfl
@[simp] theorem putByte_net (s : State) (pa : Nat) (b : Byte) : (s.putByte pa b).net = s.net := rfl
@[simp] theorem putByte_ctl (s : State) (pa : Nat) (b : Byte) : (s.putByte pa b).ctl = s.ctl := rfl
@[simp] theorem putByte_accs (s : State) (pa : Nat) (b : Byte) : (s.putByte pa b).accs = s.accs := rfl
@[simp] theorem putByte_jobs (s : State) (pa : Nat) (b : Byte) : (s.putByte pa b).jobs = s.jobs := rfl
@[simp] theorem putByte_arrays (s : State) (pa : Nat) (b : Byte) : (s.putByte pa b).arrays = s.arrays := rfl
@[simp] theorem putByte_savedArrays (s : State) (pa : Nat) (b : Byte) : (s.putByte pa b).savedArrays = s.savedArrays := rfl
@[simp] theorem putByte_colls (s : State) (pa : Nat) (b : Byte) : (s.putByte pa b).colls = s.colls := rfl
@[simp] theorem putByte_collNo (s : State) (pa : Nat) (b : Byte) : (s.putByte pa b).collNo = s.collNo := rfl
@[simp] theorem putByte_acqs (s : State) (pa : Nat) (b : Byte) : (s.putByte pa b).acqs = s.acqs := rfl
@[simp] theorem putByte_units (s : State) (pa : Nat) (b : Byte) : (s.putByte pa b).units = s.units := rfl
@[simp] theorem putByte_mdl (s : State) (pa : Nat) (b : Byte) : (s.putByte pa b).mdl = s.mdl := rfl
@[simp] theorem putByte_enqs (s : State) (pa : Nat) (b : Byte) : (s.putByte pa b).enqs = s.enqs := rfl
@[simp] theorem putByte_deques (s : State) (pa : Nat) (b : Byte) : (s.putByte pa b).deques = s.deques := rfl
@[simp] theorem putByte_lifts (s : State) (pa : Nat) (b : Byte) : (s.putByte pa b).lifts = s.lifts := rfl
@[simp] theorem putByte_graphs (s : State) (pa : Nat) (b : Byte) : (s.putByte pa b).graphs = s.graphs := rfl
@[simp] theorem putByte_upds (s : State) (pa : Nat) (b : Byte) : (s.putByte pa b).upds = s.upds := rfl
@[simp] theorem putByte_msis (s : State) (pa : Nat) (b : Byte) : (s.putByte pa b).msis = s.msis := rfl
@[simp] theorem putByte_parkedHarts (s : State) (pa : Nat) (b : Byte) : (s.putByte pa b).parkedHarts = s.parkedHarts := rfl
@[simp] theorem putByte_hostData (s : State) (pa : Nat) (b : Byte) : (s.putByte pa b).hostData = s.hostData := rfl
@[simp] theorem putByte_hostFault (s : State) (pa : Nat) (b : Byte) : (s.putByte pa b).hostFault = s.hostFault := rfl
@[simp] theorem putByte_cur (s : State) (pa : Nat) (b : Byte) : (s.putByte pa b).cur = s.cur := rfl
@[simp] theorem putByte_freshCount (s : State) (pa : Nat) (b : Byte) : (s.putByte pa b).freshCount = s.freshCount := rfl
@[simp] theorem putByte_nextUid (s : State) (pa : Nat) (b : Byte) : (s.putByte pa b).nextUid = s.nextUid := rfl
@[simp] theorem putByte_warps (s : State) (pa : Nat) (b : Byte) : (s.putByte pa b).warps = s.warps := rfl
@[simp] theorem putByte_wgs (s : State) (pa : Nat) (b : Byte) : (s.putByte pa b).wgs = s.wgs := rfl
@[simp] theorem putByte_launches (s : State) (pa : Nat) (b : Byte) : (s.putByte pa b).launches = s.launches := rfl
@[simp] theorem putByte_mem (s : State) (pa : Nat) (b : Byte) : (s.putByte pa b).mem = storeSet 0 s.mem pa b := rfl
@[simp] theorem putByte_bad (s : State) (pa : Nat) (b : Byte) : (s.putByte pa b).bad = s.bad := rfl
@[simp] theorem putByte_frames (s : State) (pa : Nat) (b : Byte) : (s.putByte pa b).frames = s.frames := rfl

/-! setDie -/

@[simp] theorem setDie_tick (s : State) (d : Nat) (x : Die) : (s.setDie d x).tick = s.tick := rfl
@[simp] theorem setDie_clock (s : State) (d : Nat) (x : Die) : (s.setDie d x).clock = s.clock := rfl
@[simp] theorem setDie_schedule (s : State) (d : Nat) (x : Die) : (s.setDie d x).schedule = s.schedule := rfl
@[simp] theorem setDie_turnNo (s : State) (d : Nat) (x : Die) : (s.setDie d x).turnNo = s.turnNo := rfl
@[simp] theorem setDie_regs (s : State) (d : Nat) (x : Die) : (s.setDie d x).regs = s.regs := rfl
@[simp] theorem setDie_attic (s : State) (d : Nat) (x : Die) : (s.setDie d x).attic = s.attic := rfl
@[simp] theorem setDie_offline (s : State) (d : Nat) (x : Die) : (s.setDie d x).offline = s.offline := rfl
@[simp] theorem setDie_cores (s : State) (d : Nat) (x : Die) : (s.setDie d x).cores = s.cores := rfl
@[simp] theorem setDie_dies (s : State) (d : Nat) (x : Die) : (s.setDie d x).dies = storeSet Die.reset s.dies d x := rfl
@[simp] theorem setDie_net (s : State) (d : Nat) (x : Die) : (s.setDie d x).net = s.net := rfl
@[simp] theorem setDie_ctl (s : State) (d : Nat) (x : Die) : (s.setDie d x).ctl = s.ctl := rfl
@[simp] theorem setDie_accs (s : State) (d : Nat) (x : Die) : (s.setDie d x).accs = s.accs := rfl
@[simp] theorem setDie_jobs (s : State) (d : Nat) (x : Die) : (s.setDie d x).jobs = s.jobs := rfl
@[simp] theorem setDie_arrays (s : State) (d : Nat) (x : Die) : (s.setDie d x).arrays = s.arrays := rfl
@[simp] theorem setDie_savedArrays (s : State) (d : Nat) (x : Die) : (s.setDie d x).savedArrays = s.savedArrays := rfl
@[simp] theorem setDie_colls (s : State) (d : Nat) (x : Die) : (s.setDie d x).colls = s.colls := rfl
@[simp] theorem setDie_collNo (s : State) (d : Nat) (x : Die) : (s.setDie d x).collNo = s.collNo := rfl
@[simp] theorem setDie_acqs (s : State) (d : Nat) (x : Die) : (s.setDie d x).acqs = s.acqs := rfl
@[simp] theorem setDie_units (s : State) (d : Nat) (x : Die) : (s.setDie d x).units = s.units := rfl
@[simp] theorem setDie_mdl (s : State) (d : Nat) (x : Die) : (s.setDie d x).mdl = s.mdl := rfl
@[simp] theorem setDie_enqs (s : State) (d : Nat) (x : Die) : (s.setDie d x).enqs = s.enqs := rfl
@[simp] theorem setDie_deques (s : State) (d : Nat) (x : Die) : (s.setDie d x).deques = s.deques := rfl
@[simp] theorem setDie_lifts (s : State) (d : Nat) (x : Die) : (s.setDie d x).lifts = s.lifts := rfl
@[simp] theorem setDie_graphs (s : State) (d : Nat) (x : Die) : (s.setDie d x).graphs = s.graphs := rfl
@[simp] theorem setDie_upds (s : State) (d : Nat) (x : Die) : (s.setDie d x).upds = s.upds := rfl
@[simp] theorem setDie_msis (s : State) (d : Nat) (x : Die) : (s.setDie d x).msis = s.msis := rfl
@[simp] theorem setDie_parkedHarts (s : State) (d : Nat) (x : Die) : (s.setDie d x).parkedHarts = s.parkedHarts := rfl
@[simp] theorem setDie_hostData (s : State) (d : Nat) (x : Die) : (s.setDie d x).hostData = s.hostData := rfl
@[simp] theorem setDie_hostFault (s : State) (d : Nat) (x : Die) : (s.setDie d x).hostFault = s.hostFault := rfl
@[simp] theorem setDie_cur (s : State) (d : Nat) (x : Die) : (s.setDie d x).cur = s.cur := rfl
@[simp] theorem setDie_freshCount (s : State) (d : Nat) (x : Die) : (s.setDie d x).freshCount = s.freshCount := rfl
@[simp] theorem setDie_nextUid (s : State) (d : Nat) (x : Die) : (s.setDie d x).nextUid = s.nextUid := rfl
@[simp] theorem setDie_warps (s : State) (d : Nat) (x : Die) : (s.setDie d x).warps = s.warps := rfl
@[simp] theorem setDie_wgs (s : State) (d : Nat) (x : Die) : (s.setDie d x).wgs = s.wgs := rfl
@[simp] theorem setDie_launches (s : State) (d : Nat) (x : Die) : (s.setDie d x).launches = s.launches := rfl
@[simp] theorem setDie_mem (s : State) (d : Nat) (x : Die) : (s.setDie d x).mem = s.mem := rfl
@[simp] theorem setDie_bad (s : State) (d : Nat) (x : Die) : (s.setDie d x).bad = s.bad := rfl
@[simp] theorem setDie_frames (s : State) (d : Nat) (x : Die) : (s.setDie d x).frames = s.frames := rfl

/-! setCore -/

@[simp] theorem setCore_tick (s : State) (c : Nat) (x : Core) : (s.setCore c x).tick = s.tick := rfl
@[simp] theorem setCore_clock (s : State) (c : Nat) (x : Core) : (s.setCore c x).clock = s.clock := rfl
@[simp] theorem setCore_schedule (s : State) (c : Nat) (x : Core) : (s.setCore c x).schedule = s.schedule := rfl
@[simp] theorem setCore_turnNo (s : State) (c : Nat) (x : Core) : (s.setCore c x).turnNo = s.turnNo := rfl
@[simp] theorem setCore_regs (s : State) (c : Nat) (x : Core) : (s.setCore c x).regs = s.regs := rfl
@[simp] theorem setCore_attic (s : State) (c : Nat) (x : Core) : (s.setCore c x).attic = s.attic := rfl
@[simp] theorem setCore_offline (s : State) (c : Nat) (x : Core) : (s.setCore c x).offline = s.offline := rfl
@[simp] theorem setCore_cores (s : State) (c : Nat) (x : Core) : (s.setCore c x).cores = storeSet Core.reset s.cores c x := rfl
@[simp] theorem setCore_dies (s : State) (c : Nat) (x : Core) : (s.setCore c x).dies = s.dies := rfl
@[simp] theorem setCore_net (s : State) (c : Nat) (x : Core) : (s.setCore c x).net = s.net := rfl
@[simp] theorem setCore_ctl (s : State) (c : Nat) (x : Core) : (s.setCore c x).ctl = s.ctl := rfl
@[simp] theorem setCore_accs (s : State) (c : Nat) (x : Core) : (s.setCore c x).accs = s.accs := rfl
@[simp] theorem setCore_jobs (s : State) (c : Nat) (x : Core) : (s.setCore c x).jobs = s.jobs := rfl
@[simp] theorem setCore_arrays (s : State) (c : Nat) (x : Core) : (s.setCore c x).arrays = s.arrays := rfl
@[simp] theorem setCore_savedArrays (s : State) (c : Nat) (x : Core) : (s.setCore c x).savedArrays = s.savedArrays := rfl
@[simp] theorem setCore_colls (s : State) (c : Nat) (x : Core) : (s.setCore c x).colls = s.colls := rfl
@[simp] theorem setCore_collNo (s : State) (c : Nat) (x : Core) : (s.setCore c x).collNo = s.collNo := rfl
@[simp] theorem setCore_acqs (s : State) (c : Nat) (x : Core) : (s.setCore c x).acqs = s.acqs := rfl
@[simp] theorem setCore_units (s : State) (c : Nat) (x : Core) : (s.setCore c x).units = s.units := rfl
@[simp] theorem setCore_mdl (s : State) (c : Nat) (x : Core) : (s.setCore c x).mdl = s.mdl := rfl
@[simp] theorem setCore_enqs (s : State) (c : Nat) (x : Core) : (s.setCore c x).enqs = s.enqs := rfl
@[simp] theorem setCore_deques (s : State) (c : Nat) (x : Core) : (s.setCore c x).deques = s.deques := rfl
@[simp] theorem setCore_lifts (s : State) (c : Nat) (x : Core) : (s.setCore c x).lifts = s.lifts := rfl
@[simp] theorem setCore_graphs (s : State) (c : Nat) (x : Core) : (s.setCore c x).graphs = s.graphs := rfl
@[simp] theorem setCore_upds (s : State) (c : Nat) (x : Core) : (s.setCore c x).upds = s.upds := rfl
@[simp] theorem setCore_msis (s : State) (c : Nat) (x : Core) : (s.setCore c x).msis = s.msis := rfl
@[simp] theorem setCore_parkedHarts (s : State) (c : Nat) (x : Core) : (s.setCore c x).parkedHarts = s.parkedHarts := rfl
@[simp] theorem setCore_hostData (s : State) (c : Nat) (x : Core) : (s.setCore c x).hostData = s.hostData := rfl
@[simp] theorem setCore_hostFault (s : State) (c : Nat) (x : Core) : (s.setCore c x).hostFault = s.hostFault := rfl
@[simp] theorem setCore_cur (s : State) (c : Nat) (x : Core) : (s.setCore c x).cur = s.cur := rfl
@[simp] theorem setCore_freshCount (s : State) (c : Nat) (x : Core) : (s.setCore c x).freshCount = s.freshCount := rfl
@[simp] theorem setCore_nextUid (s : State) (c : Nat) (x : Core) : (s.setCore c x).nextUid = s.nextUid := rfl
@[simp] theorem setCore_warps (s : State) (c : Nat) (x : Core) : (s.setCore c x).warps = s.warps := rfl
@[simp] theorem setCore_wgs (s : State) (c : Nat) (x : Core) : (s.setCore c x).wgs = s.wgs := rfl
@[simp] theorem setCore_launches (s : State) (c : Nat) (x : Core) : (s.setCore c x).launches = s.launches := rfl
@[simp] theorem setCore_mem (s : State) (c : Nat) (x : Core) : (s.setCore c x).mem = s.mem := rfl
@[simp] theorem setCore_bad (s : State) (c : Nat) (x : Core) : (s.setCore c x).bad = s.bad := rfl
@[simp] theorem setCore_frames (s : State) (c : Nat) (x : Core) : (s.setCore c x).frames = s.frames := rfl

/-! setReg -/

@[simp] theorem setReg_tick (s : State) (d o v : Nat) : (s.setReg d o v).tick = s.tick := rfl
@[simp] theorem setReg_clock (s : State) (d o v : Nat) : (s.setReg d o v).clock = s.clock := rfl
@[simp] theorem setReg_schedule (s : State) (d o v : Nat) : (s.setReg d o v).schedule = s.schedule := rfl
@[simp] theorem setReg_turnNo (s : State) (d o v : Nat) : (s.setReg d o v).turnNo = s.turnNo := rfl
@[simp] theorem setReg_regs (s : State) (d o v : Nat) : (s.setReg d o v).regs = storeSet (regReset o) s.regs (d * 2 ^ 32 + o) v := rfl
@[simp] theorem setReg_attic (s : State) (d o v : Nat) : (s.setReg d o v).attic = s.attic := rfl
@[simp] theorem setReg_offline (s : State) (d o v : Nat) : (s.setReg d o v).offline = s.offline := rfl
@[simp] theorem setReg_cores (s : State) (d o v : Nat) : (s.setReg d o v).cores = s.cores := rfl
@[simp] theorem setReg_dies (s : State) (d o v : Nat) : (s.setReg d o v).dies = s.dies := rfl
@[simp] theorem setReg_net (s : State) (d o v : Nat) : (s.setReg d o v).net = s.net := rfl
@[simp] theorem setReg_ctl (s : State) (d o v : Nat) : (s.setReg d o v).ctl = s.ctl := rfl
@[simp] theorem setReg_accs (s : State) (d o v : Nat) : (s.setReg d o v).accs = s.accs := rfl
@[simp] theorem setReg_jobs (s : State) (d o v : Nat) : (s.setReg d o v).jobs = s.jobs := rfl
@[simp] theorem setReg_arrays (s : State) (d o v : Nat) : (s.setReg d o v).arrays = s.arrays := rfl
@[simp] theorem setReg_savedArrays (s : State) (d o v : Nat) : (s.setReg d o v).savedArrays = s.savedArrays := rfl
@[simp] theorem setReg_colls (s : State) (d o v : Nat) : (s.setReg d o v).colls = s.colls := rfl
@[simp] theorem setReg_collNo (s : State) (d o v : Nat) : (s.setReg d o v).collNo = s.collNo := rfl
@[simp] theorem setReg_acqs (s : State) (d o v : Nat) : (s.setReg d o v).acqs = s.acqs := rfl
@[simp] theorem setReg_units (s : State) (d o v : Nat) : (s.setReg d o v).units = s.units := rfl
@[simp] theorem setReg_mdl (s : State) (d o v : Nat) : (s.setReg d o v).mdl = s.mdl := rfl
@[simp] theorem setReg_enqs (s : State) (d o v : Nat) : (s.setReg d o v).enqs = s.enqs := rfl
@[simp] theorem setReg_deques (s : State) (d o v : Nat) : (s.setReg d o v).deques = s.deques := rfl
@[simp] theorem setReg_lifts (s : State) (d o v : Nat) : (s.setReg d o v).lifts = s.lifts := rfl
@[simp] theorem setReg_graphs (s : State) (d o v : Nat) : (s.setReg d o v).graphs = s.graphs := rfl
@[simp] theorem setReg_upds (s : State) (d o v : Nat) : (s.setReg d o v).upds = s.upds := rfl
@[simp] theorem setReg_msis (s : State) (d o v : Nat) : (s.setReg d o v).msis = s.msis := rfl
@[simp] theorem setReg_parkedHarts (s : State) (d o v : Nat) : (s.setReg d o v).parkedHarts = s.parkedHarts := rfl
@[simp] theorem setReg_hostData (s : State) (d o v : Nat) : (s.setReg d o v).hostData = s.hostData := rfl
@[simp] theorem setReg_hostFault (s : State) (d o v : Nat) : (s.setReg d o v).hostFault = s.hostFault := rfl
@[simp] theorem setReg_cur (s : State) (d o v : Nat) : (s.setReg d o v).cur = s.cur := rfl
@[simp] theorem setReg_freshCount (s : State) (d o v : Nat) : (s.setReg d o v).freshCount = s.freshCount := rfl
@[simp] theorem setReg_nextUid (s : State) (d o v : Nat) : (s.setReg d o v).nextUid = s.nextUid := rfl
@[simp] theorem setReg_warps (s : State) (d o v : Nat) : (s.setReg d o v).warps = s.warps := rfl
@[simp] theorem setReg_wgs (s : State) (d o v : Nat) : (s.setReg d o v).wgs = s.wgs := rfl
@[simp] theorem setReg_launches (s : State) (d o v : Nat) : (s.setReg d o v).launches = s.launches := rfl
@[simp] theorem setReg_mem (s : State) (d o v : Nat) : (s.setReg d o v).mem = s.mem := rfl
@[simp] theorem setReg_bad (s : State) (d o v : Nat) : (s.setReg d o v).bad = s.bad := rfl
@[simp] theorem setReg_frames (s : State) (d o v : Nat) : (s.setReg d o v).frames = s.frames := rfl

/-! setUnit -/

@[simp] theorem setUnit_tick (s : State) (d : Nat) (x : DieUnit) : (s.setUnit d x).tick = s.tick := rfl
@[simp] theorem setUnit_clock (s : State) (d : Nat) (x : DieUnit) : (s.setUnit d x).clock = s.clock := rfl
@[simp] theorem setUnit_schedule (s : State) (d : Nat) (x : DieUnit) : (s.setUnit d x).schedule = s.schedule := rfl
@[simp] theorem setUnit_turnNo (s : State) (d : Nat) (x : DieUnit) : (s.setUnit d x).turnNo = s.turnNo := rfl
@[simp] theorem setUnit_regs (s : State) (d : Nat) (x : DieUnit) : (s.setUnit d x).regs = s.regs := rfl
@[simp] theorem setUnit_attic (s : State) (d : Nat) (x : DieUnit) : (s.setUnit d x).attic = s.attic := rfl
@[simp] theorem setUnit_offline (s : State) (d : Nat) (x : DieUnit) : (s.setUnit d x).offline = s.offline := rfl
@[simp] theorem setUnit_cores (s : State) (d : Nat) (x : DieUnit) : (s.setUnit d x).cores = s.cores := rfl
@[simp] theorem setUnit_dies (s : State) (d : Nat) (x : DieUnit) : (s.setUnit d x).dies = s.dies := rfl
@[simp] theorem setUnit_net (s : State) (d : Nat) (x : DieUnit) : (s.setUnit d x).net = s.net := rfl
@[simp] theorem setUnit_ctl (s : State) (d : Nat) (x : DieUnit) : (s.setUnit d x).ctl = s.ctl := rfl
@[simp] theorem setUnit_accs (s : State) (d : Nat) (x : DieUnit) : (s.setUnit d x).accs = s.accs := rfl
@[simp] theorem setUnit_jobs (s : State) (d : Nat) (x : DieUnit) : (s.setUnit d x).jobs = s.jobs := rfl
@[simp] theorem setUnit_arrays (s : State) (d : Nat) (x : DieUnit) : (s.setUnit d x).arrays = s.arrays := rfl
@[simp] theorem setUnit_savedArrays (s : State) (d : Nat) (x : DieUnit) : (s.setUnit d x).savedArrays = s.savedArrays := rfl
@[simp] theorem setUnit_colls (s : State) (d : Nat) (x : DieUnit) : (s.setUnit d x).colls = s.colls := rfl
@[simp] theorem setUnit_collNo (s : State) (d : Nat) (x : DieUnit) : (s.setUnit d x).collNo = s.collNo := rfl
@[simp] theorem setUnit_acqs (s : State) (d : Nat) (x : DieUnit) : (s.setUnit d x).acqs = s.acqs := rfl
@[simp] theorem setUnit_units (s : State) (d : Nat) (x : DieUnit) : (s.setUnit d x).units = storeSet DieUnit.reset s.units d x := rfl
@[simp] theorem setUnit_mdl (s : State) (d : Nat) (x : DieUnit) : (s.setUnit d x).mdl = s.mdl := rfl
@[simp] theorem setUnit_enqs (s : State) (d : Nat) (x : DieUnit) : (s.setUnit d x).enqs = s.enqs := rfl
@[simp] theorem setUnit_deques (s : State) (d : Nat) (x : DieUnit) : (s.setUnit d x).deques = s.deques := rfl
@[simp] theorem setUnit_lifts (s : State) (d : Nat) (x : DieUnit) : (s.setUnit d x).lifts = s.lifts := rfl
@[simp] theorem setUnit_graphs (s : State) (d : Nat) (x : DieUnit) : (s.setUnit d x).graphs = s.graphs := rfl
@[simp] theorem setUnit_upds (s : State) (d : Nat) (x : DieUnit) : (s.setUnit d x).upds = s.upds := rfl
@[simp] theorem setUnit_msis (s : State) (d : Nat) (x : DieUnit) : (s.setUnit d x).msis = s.msis := rfl
@[simp] theorem setUnit_parkedHarts (s : State) (d : Nat) (x : DieUnit) : (s.setUnit d x).parkedHarts = s.parkedHarts := rfl
@[simp] theorem setUnit_hostData (s : State) (d : Nat) (x : DieUnit) : (s.setUnit d x).hostData = s.hostData := rfl
@[simp] theorem setUnit_hostFault (s : State) (d : Nat) (x : DieUnit) : (s.setUnit d x).hostFault = s.hostFault := rfl
@[simp] theorem setUnit_cur (s : State) (d : Nat) (x : DieUnit) : (s.setUnit d x).cur = s.cur := rfl
@[simp] theorem setUnit_freshCount (s : State) (d : Nat) (x : DieUnit) : (s.setUnit d x).freshCount = s.freshCount := rfl
@[simp] theorem setUnit_nextUid (s : State) (d : Nat) (x : DieUnit) : (s.setUnit d x).nextUid = s.nextUid := rfl
@[simp] theorem setUnit_warps (s : State) (d : Nat) (x : DieUnit) : (s.setUnit d x).warps = s.warps := rfl
@[simp] theorem setUnit_wgs (s : State) (d : Nat) (x : DieUnit) : (s.setUnit d x).wgs = s.wgs := rfl
@[simp] theorem setUnit_launches (s : State) (d : Nat) (x : DieUnit) : (s.setUnit d x).launches = s.launches := rfl
@[simp] theorem setUnit_mem (s : State) (d : Nat) (x : DieUnit) : (s.setUnit d x).mem = s.mem := rfl
@[simp] theorem setUnit_bad (s : State) (d : Nat) (x : DieUnit) : (s.setUnit d x).bad = s.bad := rfl
@[simp] theorem setUnit_frames (s : State) (d : Nat) (x : DieUnit) : (s.setUnit d x).frames = s.frames := rfl

/-! setLaunch -/

@[simp] theorem setLaunch_tick (s : State) (l : Nat) (x : Launch) : (s.setLaunch l x).tick = s.tick := rfl
@[simp] theorem setLaunch_clock (s : State) (l : Nat) (x : Launch) : (s.setLaunch l x).clock = s.clock := rfl
@[simp] theorem setLaunch_schedule (s : State) (l : Nat) (x : Launch) : (s.setLaunch l x).schedule = s.schedule := rfl
@[simp] theorem setLaunch_turnNo (s : State) (l : Nat) (x : Launch) : (s.setLaunch l x).turnNo = s.turnNo := rfl
@[simp] theorem setLaunch_regs (s : State) (l : Nat) (x : Launch) : (s.setLaunch l x).regs = s.regs := rfl
@[simp] theorem setLaunch_attic (s : State) (l : Nat) (x : Launch) : (s.setLaunch l x).attic = s.attic := rfl
@[simp] theorem setLaunch_offline (s : State) (l : Nat) (x : Launch) : (s.setLaunch l x).offline = s.offline := rfl
@[simp] theorem setLaunch_cores (s : State) (l : Nat) (x : Launch) : (s.setLaunch l x).cores = s.cores := rfl
@[simp] theorem setLaunch_dies (s : State) (l : Nat) (x : Launch) : (s.setLaunch l x).dies = s.dies := rfl
@[simp] theorem setLaunch_net (s : State) (l : Nat) (x : Launch) : (s.setLaunch l x).net = s.net := rfl
@[simp] theorem setLaunch_ctl (s : State) (l : Nat) (x : Launch) : (s.setLaunch l x).ctl = s.ctl := rfl
@[simp] theorem setLaunch_accs (s : State) (l : Nat) (x : Launch) : (s.setLaunch l x).accs = s.accs := rfl
@[simp] theorem setLaunch_jobs (s : State) (l : Nat) (x : Launch) : (s.setLaunch l x).jobs = s.jobs := rfl
@[simp] theorem setLaunch_arrays (s : State) (l : Nat) (x : Launch) : (s.setLaunch l x).arrays = s.arrays := rfl
@[simp] theorem setLaunch_savedArrays (s : State) (l : Nat) (x : Launch) : (s.setLaunch l x).savedArrays = s.savedArrays := rfl
@[simp] theorem setLaunch_colls (s : State) (l : Nat) (x : Launch) : (s.setLaunch l x).colls = s.colls := rfl
@[simp] theorem setLaunch_collNo (s : State) (l : Nat) (x : Launch) : (s.setLaunch l x).collNo = s.collNo := rfl
@[simp] theorem setLaunch_acqs (s : State) (l : Nat) (x : Launch) : (s.setLaunch l x).acqs = s.acqs := rfl
@[simp] theorem setLaunch_units (s : State) (l : Nat) (x : Launch) : (s.setLaunch l x).units = s.units := rfl
@[simp] theorem setLaunch_mdl (s : State) (l : Nat) (x : Launch) : (s.setLaunch l x).mdl = s.mdl := rfl
@[simp] theorem setLaunch_enqs (s : State) (l : Nat) (x : Launch) : (s.setLaunch l x).enqs = s.enqs := rfl
@[simp] theorem setLaunch_deques (s : State) (l : Nat) (x : Launch) : (s.setLaunch l x).deques = s.deques := rfl
@[simp] theorem setLaunch_lifts (s : State) (l : Nat) (x : Launch) : (s.setLaunch l x).lifts = s.lifts := rfl
@[simp] theorem setLaunch_graphs (s : State) (l : Nat) (x : Launch) : (s.setLaunch l x).graphs = s.graphs := rfl
@[simp] theorem setLaunch_upds (s : State) (l : Nat) (x : Launch) : (s.setLaunch l x).upds = s.upds := rfl
@[simp] theorem setLaunch_msis (s : State) (l : Nat) (x : Launch) : (s.setLaunch l x).msis = s.msis := rfl
@[simp] theorem setLaunch_parkedHarts (s : State) (l : Nat) (x : Launch) : (s.setLaunch l x).parkedHarts = s.parkedHarts := rfl
@[simp] theorem setLaunch_hostData (s : State) (l : Nat) (x : Launch) : (s.setLaunch l x).hostData = s.hostData := rfl
@[simp] theorem setLaunch_hostFault (s : State) (l : Nat) (x : Launch) : (s.setLaunch l x).hostFault = s.hostFault := rfl
@[simp] theorem setLaunch_cur (s : State) (l : Nat) (x : Launch) : (s.setLaunch l x).cur = s.cur := rfl
@[simp] theorem setLaunch_freshCount (s : State) (l : Nat) (x : Launch) : (s.setLaunch l x).freshCount = s.freshCount := rfl
@[simp] theorem setLaunch_nextUid (s : State) (l : Nat) (x : Launch) : (s.setLaunch l x).nextUid = s.nextUid := rfl
@[simp] theorem setLaunch_warps (s : State) (l : Nat) (x : Launch) : (s.setLaunch l x).warps = s.warps := rfl
@[simp] theorem setLaunch_wgs (s : State) (l : Nat) (x : Launch) : (s.setLaunch l x).wgs = s.wgs := rfl
@[simp] theorem setLaunch_launches (s : State) (l : Nat) (x : Launch) : (s.setLaunch l x).launches = mapPut s.launches l x := rfl
@[simp] theorem setLaunch_mem (s : State) (l : Nat) (x : Launch) : (s.setLaunch l x).mem = s.mem := rfl
@[simp] theorem setLaunch_bad (s : State) (l : Nat) (x : Launch) : (s.setLaunch l x).bad = s.bad := rfl
@[simp] theorem setLaunch_frames (s : State) (l : Nat) (x : Launch) : (s.setLaunch l x).frames = s.frames := rfl

/-! setArray -/

@[simp] theorem setArray_tick (s : State) (c : Nat) (a : MatArray) : (s.setArray c a).tick = s.tick := rfl
@[simp] theorem setArray_clock (s : State) (c : Nat) (a : MatArray) : (s.setArray c a).clock = s.clock := rfl
@[simp] theorem setArray_schedule (s : State) (c : Nat) (a : MatArray) : (s.setArray c a).schedule = s.schedule := rfl
@[simp] theorem setArray_turnNo (s : State) (c : Nat) (a : MatArray) : (s.setArray c a).turnNo = s.turnNo := rfl
@[simp] theorem setArray_regs (s : State) (c : Nat) (a : MatArray) : (s.setArray c a).regs = s.regs := rfl
@[simp] theorem setArray_attic (s : State) (c : Nat) (a : MatArray) : (s.setArray c a).attic = s.attic := rfl
@[simp] theorem setArray_offline (s : State) (c : Nat) (a : MatArray) : (s.setArray c a).offline = s.offline := rfl
@[simp] theorem setArray_cores (s : State) (c : Nat) (a : MatArray) : (s.setArray c a).cores = s.cores := rfl
@[simp] theorem setArray_dies (s : State) (c : Nat) (a : MatArray) : (s.setArray c a).dies = s.dies := rfl
@[simp] theorem setArray_net (s : State) (c : Nat) (a : MatArray) : (s.setArray c a).net = s.net := rfl
@[simp] theorem setArray_ctl (s : State) (c : Nat) (a : MatArray) : (s.setArray c a).ctl = s.ctl := rfl
@[simp] theorem setArray_accs (s : State) (c : Nat) (a : MatArray) : (s.setArray c a).accs = s.accs := rfl
@[simp] theorem setArray_jobs (s : State) (c : Nat) (a : MatArray) : (s.setArray c a).jobs = s.jobs := rfl
@[simp] theorem setArray_arrays (s : State) (c : Nat) (a : MatArray) : (s.setArray c a).arrays = storeSet MatArray.zero s.arrays c a := rfl
@[simp] theorem setArray_savedArrays (s : State) (c : Nat) (a : MatArray) : (s.setArray c a).savedArrays = s.savedArrays := rfl
@[simp] theorem setArray_colls (s : State) (c : Nat) (a : MatArray) : (s.setArray c a).colls = s.colls := rfl
@[simp] theorem setArray_collNo (s : State) (c : Nat) (a : MatArray) : (s.setArray c a).collNo = s.collNo := rfl
@[simp] theorem setArray_acqs (s : State) (c : Nat) (a : MatArray) : (s.setArray c a).acqs = s.acqs := rfl
@[simp] theorem setArray_units (s : State) (c : Nat) (a : MatArray) : (s.setArray c a).units = s.units := rfl
@[simp] theorem setArray_mdl (s : State) (c : Nat) (a : MatArray) : (s.setArray c a).mdl = s.mdl := rfl
@[simp] theorem setArray_enqs (s : State) (c : Nat) (a : MatArray) : (s.setArray c a).enqs = s.enqs := rfl
@[simp] theorem setArray_deques (s : State) (c : Nat) (a : MatArray) : (s.setArray c a).deques = s.deques := rfl
@[simp] theorem setArray_lifts (s : State) (c : Nat) (a : MatArray) : (s.setArray c a).lifts = s.lifts := rfl
@[simp] theorem setArray_graphs (s : State) (c : Nat) (a : MatArray) : (s.setArray c a).graphs = s.graphs := rfl
@[simp] theorem setArray_upds (s : State) (c : Nat) (a : MatArray) : (s.setArray c a).upds = s.upds := rfl
@[simp] theorem setArray_msis (s : State) (c : Nat) (a : MatArray) : (s.setArray c a).msis = s.msis := rfl
@[simp] theorem setArray_parkedHarts (s : State) (c : Nat) (a : MatArray) : (s.setArray c a).parkedHarts = s.parkedHarts := rfl
@[simp] theorem setArray_hostData (s : State) (c : Nat) (a : MatArray) : (s.setArray c a).hostData = s.hostData := rfl
@[simp] theorem setArray_hostFault (s : State) (c : Nat) (a : MatArray) : (s.setArray c a).hostFault = s.hostFault := rfl
@[simp] theorem setArray_cur (s : State) (c : Nat) (a : MatArray) : (s.setArray c a).cur = s.cur := rfl
@[simp] theorem setArray_freshCount (s : State) (c : Nat) (a : MatArray) : (s.setArray c a).freshCount = s.freshCount := rfl
@[simp] theorem setArray_nextUid (s : State) (c : Nat) (a : MatArray) : (s.setArray c a).nextUid = s.nextUid := rfl
@[simp] theorem setArray_warps (s : State) (c : Nat) (a : MatArray) : (s.setArray c a).warps = s.warps := rfl
@[simp] theorem setArray_wgs (s : State) (c : Nat) (a : MatArray) : (s.setArray c a).wgs = s.wgs := rfl
@[simp] theorem setArray_launches (s : State) (c : Nat) (a : MatArray) : (s.setArray c a).launches = s.launches := rfl
@[simp] theorem setArray_mem (s : State) (c : Nat) (a : MatArray) : (s.setArray c a).mem = s.mem := rfl
@[simp] theorem setArray_bad (s : State) (c : Nat) (a : MatArray) : (s.setArray c a).bad = s.bad := rfl
@[simp] theorem setArray_frames (s : State) (c : Nat) (a : MatArray) : (s.setArray c a).frames = s.frames := rfl

/-! setFl -/

@[simp] theorem setFl_tick (s : State) (f : FrameLock) : (s.setFl f).tick = s.tick := rfl
@[simp] theorem setFl_clock (s : State) (f : FrameLock) : (s.setFl f).clock = s.clock := rfl
@[simp] theorem setFl_schedule (s : State) (f : FrameLock) : (s.setFl f).schedule = s.schedule := rfl
@[simp] theorem setFl_turnNo (s : State) (f : FrameLock) : (s.setFl f).turnNo = s.turnNo := rfl
@[simp] theorem setFl_regs (s : State) (f : FrameLock) : (s.setFl f).regs = s.regs := rfl
@[simp] theorem setFl_attic (s : State) (f : FrameLock) : (s.setFl f).attic = s.attic := rfl
@[simp] theorem setFl_offline (s : State) (f : FrameLock) : (s.setFl f).offline = s.offline := rfl
@[simp] theorem setFl_cores (s : State) (f : FrameLock) : (s.setFl f).cores = s.cores := rfl
@[simp] theorem setFl_dies (s : State) (f : FrameLock) : (s.setFl f).dies = s.dies := rfl
@[simp] theorem setFl_net (s : State) (f : FrameLock) : (s.setFl f).net = s.net := rfl
@[simp] theorem setFl_ctl (s : State) (f : FrameLock) : (s.setFl f).ctl = s.ctl := rfl
@[simp] theorem setFl_accs (s : State) (f : FrameLock) : (s.setFl f).accs = s.accs := rfl
@[simp] theorem setFl_jobs (s : State) (f : FrameLock) : (s.setFl f).jobs = s.jobs := rfl
@[simp] theorem setFl_arrays (s : State) (f : FrameLock) : (s.setFl f).arrays = s.arrays := rfl
@[simp] theorem setFl_savedArrays (s : State) (f : FrameLock) : (s.setFl f).savedArrays = s.savedArrays := rfl
@[simp] theorem setFl_colls (s : State) (f : FrameLock) : (s.setFl f).colls = s.colls := rfl
@[simp] theorem setFl_collNo (s : State) (f : FrameLock) : (s.setFl f).collNo = s.collNo := rfl
@[simp] theorem setFl_acqs (s : State) (f : FrameLock) : (s.setFl f).acqs = s.acqs := rfl
@[simp] theorem setFl_units (s : State) (f : FrameLock) : (s.setFl f).units = s.units := rfl
@[simp] theorem setFl_enqs (s : State) (f : FrameLock) : (s.setFl f).enqs = s.enqs := rfl
@[simp] theorem setFl_deques (s : State) (f : FrameLock) : (s.setFl f).deques = s.deques := rfl
@[simp] theorem setFl_lifts (s : State) (f : FrameLock) : (s.setFl f).lifts = s.lifts := rfl
@[simp] theorem setFl_graphs (s : State) (f : FrameLock) : (s.setFl f).graphs = s.graphs := rfl
@[simp] theorem setFl_upds (s : State) (f : FrameLock) : (s.setFl f).upds = s.upds := rfl
@[simp] theorem setFl_msis (s : State) (f : FrameLock) : (s.setFl f).msis = s.msis := rfl
@[simp] theorem setFl_parkedHarts (s : State) (f : FrameLock) : (s.setFl f).parkedHarts = s.parkedHarts := rfl
@[simp] theorem setFl_hostData (s : State) (f : FrameLock) : (s.setFl f).hostData = s.hostData := rfl
@[simp] theorem setFl_hostFault (s : State) (f : FrameLock) : (s.setFl f).hostFault = s.hostFault := rfl
@[simp] theorem setFl_cur (s : State) (f : FrameLock) : (s.setFl f).cur = s.cur := rfl
@[simp] theorem setFl_freshCount (s : State) (f : FrameLock) : (s.setFl f).freshCount = s.freshCount := rfl
@[simp] theorem setFl_nextUid (s : State) (f : FrameLock) : (s.setFl f).nextUid = s.nextUid := rfl
@[simp] theorem setFl_warps (s : State) (f : FrameLock) : (s.setFl f).warps = s.warps := rfl
@[simp] theorem setFl_wgs (s : State) (f : FrameLock) : (s.setFl f).wgs = s.wgs := rfl
@[simp] theorem setFl_launches (s : State) (f : FrameLock) : (s.setFl f).launches = s.launches := rfl
@[simp] theorem setFl_mem (s : State) (f : FrameLock) : (s.setFl f).mem = s.mem := rfl
@[simp] theorem setFl_bad (s : State) (f : FrameLock) : (s.setFl f).bad = s.bad := rfl
@[simp] theorem setFl_frames (s : State) (f : FrameLock) : (s.setFl f).frames = s.frames := rfl

/-! setFrame -/

@[simp] theorem setFrame_tick (s : State) (d n : Nat) : (s.setFrame d n).tick = s.tick := rfl
@[simp] theorem setFrame_clock (s : State) (d n : Nat) : (s.setFrame d n).clock = s.clock := rfl
@[simp] theorem setFrame_schedule (s : State) (d n : Nat) : (s.setFrame d n).schedule = s.schedule := rfl
@[simp] theorem setFrame_turnNo (s : State) (d n : Nat) : (s.setFrame d n).turnNo = s.turnNo := rfl
@[simp] theorem setFrame_regs (s : State) (d n : Nat) : (s.setFrame d n).regs = s.regs := rfl
@[simp] theorem setFrame_attic (s : State) (d n : Nat) : (s.setFrame d n).attic = s.attic := rfl
@[simp] theorem setFrame_offline (s : State) (d n : Nat) : (s.setFrame d n).offline = s.offline := rfl
@[simp] theorem setFrame_cores (s : State) (d n : Nat) : (s.setFrame d n).cores = s.cores := rfl
@[simp] theorem setFrame_dies (s : State) (d n : Nat) : (s.setFrame d n).dies = s.dies := rfl
@[simp] theorem setFrame_net (s : State) (d n : Nat) : (s.setFrame d n).net = s.net := rfl
@[simp] theorem setFrame_ctl (s : State) (d n : Nat) : (s.setFrame d n).ctl = s.ctl := rfl
@[simp] theorem setFrame_accs (s : State) (d n : Nat) : (s.setFrame d n).accs = s.accs := rfl
@[simp] theorem setFrame_jobs (s : State) (d n : Nat) : (s.setFrame d n).jobs = s.jobs := rfl
@[simp] theorem setFrame_arrays (s : State) (d n : Nat) : (s.setFrame d n).arrays = s.arrays := rfl
@[simp] theorem setFrame_savedArrays (s : State) (d n : Nat) : (s.setFrame d n).savedArrays = s.savedArrays := rfl
@[simp] theorem setFrame_colls (s : State) (d n : Nat) : (s.setFrame d n).colls = s.colls := rfl
@[simp] theorem setFrame_collNo (s : State) (d n : Nat) : (s.setFrame d n).collNo = s.collNo := rfl
@[simp] theorem setFrame_acqs (s : State) (d n : Nat) : (s.setFrame d n).acqs = s.acqs := rfl
@[simp] theorem setFrame_units (s : State) (d n : Nat) : (s.setFrame d n).units = s.units := rfl
@[simp] theorem setFrame_mdl (s : State) (d n : Nat) : (s.setFrame d n).mdl = s.mdl := rfl
@[simp] theorem setFrame_enqs (s : State) (d n : Nat) : (s.setFrame d n).enqs = s.enqs := rfl
@[simp] theorem setFrame_deques (s : State) (d n : Nat) : (s.setFrame d n).deques = s.deques := rfl
@[simp] theorem setFrame_lifts (s : State) (d n : Nat) : (s.setFrame d n).lifts = s.lifts := rfl
@[simp] theorem setFrame_graphs (s : State) (d n : Nat) : (s.setFrame d n).graphs = s.graphs := rfl
@[simp] theorem setFrame_upds (s : State) (d n : Nat) : (s.setFrame d n).upds = s.upds := rfl
@[simp] theorem setFrame_msis (s : State) (d n : Nat) : (s.setFrame d n).msis = s.msis := rfl
@[simp] theorem setFrame_parkedHarts (s : State) (d n : Nat) : (s.setFrame d n).parkedHarts = s.parkedHarts := rfl
@[simp] theorem setFrame_hostData (s : State) (d n : Nat) : (s.setFrame d n).hostData = s.hostData := rfl
@[simp] theorem setFrame_hostFault (s : State) (d n : Nat) : (s.setFrame d n).hostFault = s.hostFault := rfl
@[simp] theorem setFrame_cur (s : State) (d n : Nat) : (s.setFrame d n).cur = s.cur := rfl
@[simp] theorem setFrame_freshCount (s : State) (d n : Nat) : (s.setFrame d n).freshCount = s.freshCount := rfl
@[simp] theorem setFrame_nextUid (s : State) (d n : Nat) : (s.setFrame d n).nextUid = s.nextUid := rfl
@[simp] theorem setFrame_warps (s : State) (d n : Nat) : (s.setFrame d n).warps = s.warps := rfl
@[simp] theorem setFrame_wgs (s : State) (d n : Nat) : (s.setFrame d n).wgs = s.wgs := rfl
@[simp] theorem setFrame_launches (s : State) (d n : Nat) : (s.setFrame d n).launches = s.launches := rfl
@[simp] theorem setFrame_mem (s : State) (d n : Nat) : (s.setFrame d n).mem = s.mem := rfl
@[simp] theorem setFrame_bad (s : State) (d n : Nat) : (s.setFrame d n).bad = s.bad := rfl
@[simp] theorem setFrame_frames (s : State) (d n : Nat) : (s.setFrame d n).frames = storeSet 0 s.frames d (BitVec.ofNat 32 n) := rfl

/-! putJob -/

@[simp] theorem putJob_tick (s : State) (u : Nat) (j : Job) : (s.putJob u j).tick = s.tick := rfl
@[simp] theorem putJob_clock (s : State) (u : Nat) (j : Job) : (s.putJob u j).clock = s.clock := rfl
@[simp] theorem putJob_schedule (s : State) (u : Nat) (j : Job) : (s.putJob u j).schedule = s.schedule := rfl
@[simp] theorem putJob_turnNo (s : State) (u : Nat) (j : Job) : (s.putJob u j).turnNo = s.turnNo := rfl
@[simp] theorem putJob_regs (s : State) (u : Nat) (j : Job) : (s.putJob u j).regs = s.regs := rfl
@[simp] theorem putJob_attic (s : State) (u : Nat) (j : Job) : (s.putJob u j).attic = s.attic := rfl
@[simp] theorem putJob_offline (s : State) (u : Nat) (j : Job) : (s.putJob u j).offline = s.offline := rfl
@[simp] theorem putJob_cores (s : State) (u : Nat) (j : Job) : (s.putJob u j).cores = s.cores := rfl
@[simp] theorem putJob_dies (s : State) (u : Nat) (j : Job) : (s.putJob u j).dies = s.dies := rfl
@[simp] theorem putJob_net (s : State) (u : Nat) (j : Job) : (s.putJob u j).net = s.net := rfl
@[simp] theorem putJob_ctl (s : State) (u : Nat) (j : Job) : (s.putJob u j).ctl = s.ctl := rfl
@[simp] theorem putJob_accs (s : State) (u : Nat) (j : Job) : (s.putJob u j).accs = s.accs := rfl
@[simp] theorem putJob_jobs (s : State) (u : Nat) (j : Job) : (s.putJob u j).jobs = mapPut s.jobs u j := rfl
@[simp] theorem putJob_arrays (s : State) (u : Nat) (j : Job) : (s.putJob u j).arrays = s.arrays := rfl
@[simp] theorem putJob_savedArrays (s : State) (u : Nat) (j : Job) : (s.putJob u j).savedArrays = s.savedArrays := rfl
@[simp] theorem putJob_colls (s : State) (u : Nat) (j : Job) : (s.putJob u j).colls = s.colls := rfl
@[simp] theorem putJob_collNo (s : State) (u : Nat) (j : Job) : (s.putJob u j).collNo = s.collNo := rfl
@[simp] theorem putJob_acqs (s : State) (u : Nat) (j : Job) : (s.putJob u j).acqs = s.acqs := rfl
@[simp] theorem putJob_units (s : State) (u : Nat) (j : Job) : (s.putJob u j).units = s.units := rfl
@[simp] theorem putJob_mdl (s : State) (u : Nat) (j : Job) : (s.putJob u j).mdl = s.mdl := rfl
@[simp] theorem putJob_enqs (s : State) (u : Nat) (j : Job) : (s.putJob u j).enqs = s.enqs := rfl
@[simp] theorem putJob_deques (s : State) (u : Nat) (j : Job) : (s.putJob u j).deques = s.deques := rfl
@[simp] theorem putJob_lifts (s : State) (u : Nat) (j : Job) : (s.putJob u j).lifts = s.lifts := rfl
@[simp] theorem putJob_graphs (s : State) (u : Nat) (j : Job) : (s.putJob u j).graphs = s.graphs := rfl
@[simp] theorem putJob_upds (s : State) (u : Nat) (j : Job) : (s.putJob u j).upds = s.upds := rfl
@[simp] theorem putJob_msis (s : State) (u : Nat) (j : Job) : (s.putJob u j).msis = s.msis := rfl
@[simp] theorem putJob_parkedHarts (s : State) (u : Nat) (j : Job) : (s.putJob u j).parkedHarts = s.parkedHarts := rfl
@[simp] theorem putJob_hostData (s : State) (u : Nat) (j : Job) : (s.putJob u j).hostData = s.hostData := rfl
@[simp] theorem putJob_hostFault (s : State) (u : Nat) (j : Job) : (s.putJob u j).hostFault = s.hostFault := rfl
@[simp] theorem putJob_cur (s : State) (u : Nat) (j : Job) : (s.putJob u j).cur = s.cur := rfl
@[simp] theorem putJob_freshCount (s : State) (u : Nat) (j : Job) : (s.putJob u j).freshCount = s.freshCount := rfl
@[simp] theorem putJob_nextUid (s : State) (u : Nat) (j : Job) : (s.putJob u j).nextUid = s.nextUid := rfl
@[simp] theorem putJob_warps (s : State) (u : Nat) (j : Job) : (s.putJob u j).warps = s.warps := rfl
@[simp] theorem putJob_wgs (s : State) (u : Nat) (j : Job) : (s.putJob u j).wgs = s.wgs := rfl
@[simp] theorem putJob_launches (s : State) (u : Nat) (j : Job) : (s.putJob u j).launches = s.launches := rfl
@[simp] theorem putJob_mem (s : State) (u : Nat) (j : Job) : (s.putJob u j).mem = s.mem := rfl
@[simp] theorem putJob_bad (s : State) (u : Nat) (j : Job) : (s.putJob u j).bad = s.bad := rfl
@[simp] theorem putJob_frames (s : State) (u : Nat) (j : Job) : (s.putJob u j).frames = s.frames := rfl

/-! putGraph -/

@[simp] theorem putGraph_tick (s : State) (u : Nat) (g : Graph) : (s.putGraph u g).tick = s.tick := rfl
@[simp] theorem putGraph_clock (s : State) (u : Nat) (g : Graph) : (s.putGraph u g).clock = s.clock := rfl
@[simp] theorem putGraph_schedule (s : State) (u : Nat) (g : Graph) : (s.putGraph u g).schedule = s.schedule := rfl
@[simp] theorem putGraph_turnNo (s : State) (u : Nat) (g : Graph) : (s.putGraph u g).turnNo = s.turnNo := rfl
@[simp] theorem putGraph_regs (s : State) (u : Nat) (g : Graph) : (s.putGraph u g).regs = s.regs := rfl
@[simp] theorem putGraph_attic (s : State) (u : Nat) (g : Graph) : (s.putGraph u g).attic = s.attic := rfl
@[simp] theorem putGraph_offline (s : State) (u : Nat) (g : Graph) : (s.putGraph u g).offline = s.offline := rfl
@[simp] theorem putGraph_cores (s : State) (u : Nat) (g : Graph) : (s.putGraph u g).cores = s.cores := rfl
@[simp] theorem putGraph_dies (s : State) (u : Nat) (g : Graph) : (s.putGraph u g).dies = s.dies := rfl
@[simp] theorem putGraph_net (s : State) (u : Nat) (g : Graph) : (s.putGraph u g).net = s.net := rfl
@[simp] theorem putGraph_ctl (s : State) (u : Nat) (g : Graph) : (s.putGraph u g).ctl = s.ctl := rfl
@[simp] theorem putGraph_accs (s : State) (u : Nat) (g : Graph) : (s.putGraph u g).accs = s.accs := rfl
@[simp] theorem putGraph_jobs (s : State) (u : Nat) (g : Graph) : (s.putGraph u g).jobs = s.jobs := rfl
@[simp] theorem putGraph_arrays (s : State) (u : Nat) (g : Graph) : (s.putGraph u g).arrays = s.arrays := rfl
@[simp] theorem putGraph_savedArrays (s : State) (u : Nat) (g : Graph) : (s.putGraph u g).savedArrays = s.savedArrays := rfl
@[simp] theorem putGraph_colls (s : State) (u : Nat) (g : Graph) : (s.putGraph u g).colls = s.colls := rfl
@[simp] theorem putGraph_collNo (s : State) (u : Nat) (g : Graph) : (s.putGraph u g).collNo = s.collNo := rfl
@[simp] theorem putGraph_acqs (s : State) (u : Nat) (g : Graph) : (s.putGraph u g).acqs = s.acqs := rfl
@[simp] theorem putGraph_units (s : State) (u : Nat) (g : Graph) : (s.putGraph u g).units = s.units := rfl
@[simp] theorem putGraph_mdl (s : State) (u : Nat) (g : Graph) : (s.putGraph u g).mdl = s.mdl := rfl
@[simp] theorem putGraph_enqs (s : State) (u : Nat) (g : Graph) : (s.putGraph u g).enqs = s.enqs := rfl
@[simp] theorem putGraph_deques (s : State) (u : Nat) (g : Graph) : (s.putGraph u g).deques = s.deques := rfl
@[simp] theorem putGraph_lifts (s : State) (u : Nat) (g : Graph) : (s.putGraph u g).lifts = s.lifts := rfl
@[simp] theorem putGraph_graphs (s : State) (u : Nat) (g : Graph) : (s.putGraph u g).graphs = mapPut s.graphs u g := rfl
@[simp] theorem putGraph_upds (s : State) (u : Nat) (g : Graph) : (s.putGraph u g).upds = s.upds := rfl
@[simp] theorem putGraph_msis (s : State) (u : Nat) (g : Graph) : (s.putGraph u g).msis = s.msis := rfl
@[simp] theorem putGraph_parkedHarts (s : State) (u : Nat) (g : Graph) : (s.putGraph u g).parkedHarts = s.parkedHarts := rfl
@[simp] theorem putGraph_hostData (s : State) (u : Nat) (g : Graph) : (s.putGraph u g).hostData = s.hostData := rfl
@[simp] theorem putGraph_hostFault (s : State) (u : Nat) (g : Graph) : (s.putGraph u g).hostFault = s.hostFault := rfl
@[simp] theorem putGraph_cur (s : State) (u : Nat) (g : Graph) : (s.putGraph u g).cur = s.cur := rfl
@[simp] theorem putGraph_freshCount (s : State) (u : Nat) (g : Graph) : (s.putGraph u g).freshCount = s.freshCount := rfl
@[simp] theorem putGraph_nextUid (s : State) (u : Nat) (g : Graph) : (s.putGraph u g).nextUid = s.nextUid := rfl
@[simp] theorem putGraph_warps (s : State) (u : Nat) (g : Graph) : (s.putGraph u g).warps = s.warps := rfl
@[simp] theorem putGraph_wgs (s : State) (u : Nat) (g : Graph) : (s.putGraph u g).wgs = s.wgs := rfl
@[simp] theorem putGraph_launches (s : State) (u : Nat) (g : Graph) : (s.putGraph u g).launches = s.launches := rfl
@[simp] theorem putGraph_mem (s : State) (u : Nat) (g : Graph) : (s.putGraph u g).mem = s.mem := rfl
@[simp] theorem putGraph_bad (s : State) (u : Nat) (g : Graph) : (s.putGraph u g).bad = s.bad := rfl
@[simp] theorem putGraph_frames (s : State) (u : Nat) (g : Graph) : (s.putGraph u g).frames = s.frames := rfl

/-! send -/

@[simp] theorem send_tick (s : State) (m : CohMsg) : (s.send m).tick = s.tick := rfl
@[simp] theorem send_clock (s : State) (m : CohMsg) : (s.send m).clock = s.clock := rfl
@[simp] theorem send_schedule (s : State) (m : CohMsg) : (s.send m).schedule = s.schedule := rfl
@[simp] theorem send_turnNo (s : State) (m : CohMsg) : (s.send m).turnNo = s.turnNo := rfl
@[simp] theorem send_regs (s : State) (m : CohMsg) : (s.send m).regs = s.regs := rfl
@[simp] theorem send_attic (s : State) (m : CohMsg) : (s.send m).attic = s.attic := rfl
@[simp] theorem send_offline (s : State) (m : CohMsg) : (s.send m).offline = s.offline := rfl
@[simp] theorem send_cores (s : State) (m : CohMsg) : (s.send m).cores = s.cores := rfl
@[simp] theorem send_dies (s : State) (m : CohMsg) : (s.send m).dies = s.dies := rfl
@[simp] theorem send_net (s : State) (m : CohMsg) : (s.send m).net = s.net ++ [m] := rfl
@[simp] theorem send_ctl (s : State) (m : CohMsg) : (s.send m).ctl = s.ctl := rfl
@[simp] theorem send_accs (s : State) (m : CohMsg) : (s.send m).accs = s.accs := rfl
@[simp] theorem send_jobs (s : State) (m : CohMsg) : (s.send m).jobs = s.jobs := rfl
@[simp] theorem send_arrays (s : State) (m : CohMsg) : (s.send m).arrays = s.arrays := rfl
@[simp] theorem send_savedArrays (s : State) (m : CohMsg) : (s.send m).savedArrays = s.savedArrays := rfl
@[simp] theorem send_colls (s : State) (m : CohMsg) : (s.send m).colls = s.colls := rfl
@[simp] theorem send_collNo (s : State) (m : CohMsg) : (s.send m).collNo = s.collNo := rfl
@[simp] theorem send_acqs (s : State) (m : CohMsg) : (s.send m).acqs = s.acqs := rfl
@[simp] theorem send_units (s : State) (m : CohMsg) : (s.send m).units = s.units := rfl
@[simp] theorem send_mdl (s : State) (m : CohMsg) : (s.send m).mdl = s.mdl := rfl
@[simp] theorem send_enqs (s : State) (m : CohMsg) : (s.send m).enqs = s.enqs := rfl
@[simp] theorem send_deques (s : State) (m : CohMsg) : (s.send m).deques = s.deques := rfl
@[simp] theorem send_lifts (s : State) (m : CohMsg) : (s.send m).lifts = s.lifts := rfl
@[simp] theorem send_graphs (s : State) (m : CohMsg) : (s.send m).graphs = s.graphs := rfl
@[simp] theorem send_upds (s : State) (m : CohMsg) : (s.send m).upds = s.upds := rfl
@[simp] theorem send_msis (s : State) (m : CohMsg) : (s.send m).msis = s.msis := rfl
@[simp] theorem send_parkedHarts (s : State) (m : CohMsg) : (s.send m).parkedHarts = s.parkedHarts := rfl
@[simp] theorem send_hostData (s : State) (m : CohMsg) : (s.send m).hostData = s.hostData := rfl
@[simp] theorem send_hostFault (s : State) (m : CohMsg) : (s.send m).hostFault = s.hostFault := rfl
@[simp] theorem send_cur (s : State) (m : CohMsg) : (s.send m).cur = s.cur := rfl
@[simp] theorem send_freshCount (s : State) (m : CohMsg) : (s.send m).freshCount = s.freshCount := rfl
@[simp] theorem send_nextUid (s : State) (m : CohMsg) : (s.send m).nextUid = s.nextUid := rfl
@[simp] theorem send_warps (s : State) (m : CohMsg) : (s.send m).warps = s.warps := rfl
@[simp] theorem send_wgs (s : State) (m : CohMsg) : (s.send m).wgs = s.wgs := rfl
@[simp] theorem send_launches (s : State) (m : CohMsg) : (s.send m).launches = s.launches := rfl
@[simp] theorem send_mem (s : State) (m : CohMsg) : (s.send m).mem = s.mem := rfl
@[simp] theorem send_bad (s : State) (m : CohMsg) : (s.send m).bad = s.bad := rfl
@[simp] theorem send_frames (s : State) (m : CohMsg) : (s.send m).frames = s.frames := rfl

/-! tell -/

@[simp] theorem tell_tick (s : State) (a b : Nat) (x : CtlBody) : (s.tell a b x).tick = s.tick := rfl
@[simp] theorem tell_clock (s : State) (a b : Nat) (x : CtlBody) : (s.tell a b x).clock = s.clock := rfl
@[simp] theorem tell_schedule (s : State) (a b : Nat) (x : CtlBody) : (s.tell a b x).schedule = s.schedule := rfl
@[simp] theorem tell_turnNo (s : State) (a b : Nat) (x : CtlBody) : (s.tell a b x).turnNo = s.turnNo := rfl
@[simp] theorem tell_regs (s : State) (a b : Nat) (x : CtlBody) : (s.tell a b x).regs = s.regs := rfl
@[simp] theorem tell_attic (s : State) (a b : Nat) (x : CtlBody) : (s.tell a b x).attic = s.attic := rfl
@[simp] theorem tell_offline (s : State) (a b : Nat) (x : CtlBody) : (s.tell a b x).offline = s.offline := rfl
@[simp] theorem tell_cores (s : State) (a b : Nat) (x : CtlBody) : (s.tell a b x).cores = s.cores := rfl
@[simp] theorem tell_dies (s : State) (a b : Nat) (x : CtlBody) : (s.tell a b x).dies = s.dies := rfl
@[simp] theorem tell_net (s : State) (a b : Nat) (x : CtlBody) : (s.tell a b x).net = s.net := rfl
@[simp] theorem tell_accs (s : State) (a b : Nat) (x : CtlBody) : (s.tell a b x).accs = s.accs := rfl
@[simp] theorem tell_jobs (s : State) (a b : Nat) (x : CtlBody) : (s.tell a b x).jobs = s.jobs := rfl
@[simp] theorem tell_arrays (s : State) (a b : Nat) (x : CtlBody) : (s.tell a b x).arrays = s.arrays := rfl
@[simp] theorem tell_savedArrays (s : State) (a b : Nat) (x : CtlBody) : (s.tell a b x).savedArrays = s.savedArrays := rfl
@[simp] theorem tell_colls (s : State) (a b : Nat) (x : CtlBody) : (s.tell a b x).colls = s.colls := rfl
@[simp] theorem tell_collNo (s : State) (a b : Nat) (x : CtlBody) : (s.tell a b x).collNo = s.collNo := rfl
@[simp] theorem tell_acqs (s : State) (a b : Nat) (x : CtlBody) : (s.tell a b x).acqs = s.acqs := rfl
@[simp] theorem tell_units (s : State) (a b : Nat) (x : CtlBody) : (s.tell a b x).units = s.units := rfl
@[simp] theorem tell_mdl (s : State) (a b : Nat) (x : CtlBody) : (s.tell a b x).mdl = s.mdl := rfl
@[simp] theorem tell_enqs (s : State) (a b : Nat) (x : CtlBody) : (s.tell a b x).enqs = s.enqs := rfl
@[simp] theorem tell_deques (s : State) (a b : Nat) (x : CtlBody) : (s.tell a b x).deques = s.deques := rfl
@[simp] theorem tell_lifts (s : State) (a b : Nat) (x : CtlBody) : (s.tell a b x).lifts = s.lifts := rfl
@[simp] theorem tell_graphs (s : State) (a b : Nat) (x : CtlBody) : (s.tell a b x).graphs = s.graphs := rfl
@[simp] theorem tell_upds (s : State) (a b : Nat) (x : CtlBody) : (s.tell a b x).upds = s.upds := rfl
@[simp] theorem tell_msis (s : State) (a b : Nat) (x : CtlBody) : (s.tell a b x).msis = s.msis := rfl
@[simp] theorem tell_parkedHarts (s : State) (a b : Nat) (x : CtlBody) : (s.tell a b x).parkedHarts = s.parkedHarts := rfl
@[simp] theorem tell_hostData (s : State) (a b : Nat) (x : CtlBody) : (s.tell a b x).hostData = s.hostData := rfl
@[simp] theorem tell_hostFault (s : State) (a b : Nat) (x : CtlBody) : (s.tell a b x).hostFault = s.hostFault := rfl
@[simp] theorem tell_cur (s : State) (a b : Nat) (x : CtlBody) : (s.tell a b x).cur = s.cur := rfl
@[simp] theorem tell_freshCount (s : State) (a b : Nat) (x : CtlBody) : (s.tell a b x).freshCount = s.freshCount := rfl
@[simp] theorem tell_nextUid (s : State) (a b : Nat) (x : CtlBody) : (s.tell a b x).nextUid = s.nextUid := rfl
@[simp] theorem tell_warps (s : State) (a b : Nat) (x : CtlBody) : (s.tell a b x).warps = s.warps := rfl
@[simp] theorem tell_wgs (s : State) (a b : Nat) (x : CtlBody) : (s.tell a b x).wgs = s.wgs := rfl
@[simp] theorem tell_launches (s : State) (a b : Nat) (x : CtlBody) : (s.tell a b x).launches = s.launches := rfl
@[simp] theorem tell_mem (s : State) (a b : Nat) (x : CtlBody) : (s.tell a b x).mem = s.mem := rfl
@[simp] theorem tell_bad (s : State) (a b : Nat) (x : CtlBody) : (s.tell a b x).bad = s.bad := rfl
@[simp] theorem tell_frames (s : State) (a b : Nat) (x : CtlBody) : (s.tell a b x).frames = s.frames := rfl

/-! interrupt -/

@[simp] theorem interrupt_tick (s : State) (k : MsiSource) : (s.interrupt k).tick = s.tick := rfl
@[simp] theorem interrupt_clock (s : State) (k : MsiSource) : (s.interrupt k).clock = s.clock := rfl
@[simp] theorem interrupt_schedule (s : State) (k : MsiSource) : (s.interrupt k).schedule = s.schedule := rfl
@[simp] theorem interrupt_turnNo (s : State) (k : MsiSource) : (s.interrupt k).turnNo = s.turnNo := rfl
@[simp] theorem interrupt_regs (s : State) (k : MsiSource) : (s.interrupt k).regs = s.regs := rfl
@[simp] theorem interrupt_attic (s : State) (k : MsiSource) : (s.interrupt k).attic = s.attic := rfl
@[simp] theorem interrupt_offline (s : State) (k : MsiSource) : (s.interrupt k).offline = s.offline := rfl
@[simp] theorem interrupt_cores (s : State) (k : MsiSource) : (s.interrupt k).cores = s.cores := rfl
@[simp] theorem interrupt_dies (s : State) (k : MsiSource) : (s.interrupt k).dies = s.dies := rfl
@[simp] theorem interrupt_net (s : State) (k : MsiSource) : (s.interrupt k).net = s.net := rfl
@[simp] theorem interrupt_ctl (s : State) (k : MsiSource) : (s.interrupt k).ctl = s.ctl := rfl
@[simp] theorem interrupt_accs (s : State) (k : MsiSource) : (s.interrupt k).accs = s.accs := rfl
@[simp] theorem interrupt_jobs (s : State) (k : MsiSource) : (s.interrupt k).jobs = s.jobs := rfl
@[simp] theorem interrupt_arrays (s : State) (k : MsiSource) : (s.interrupt k).arrays = s.arrays := rfl
@[simp] theorem interrupt_savedArrays (s : State) (k : MsiSource) : (s.interrupt k).savedArrays = s.savedArrays := rfl
@[simp] theorem interrupt_colls (s : State) (k : MsiSource) : (s.interrupt k).colls = s.colls := rfl
@[simp] theorem interrupt_collNo (s : State) (k : MsiSource) : (s.interrupt k).collNo = s.collNo := rfl
@[simp] theorem interrupt_acqs (s : State) (k : MsiSource) : (s.interrupt k).acqs = s.acqs := rfl
@[simp] theorem interrupt_units (s : State) (k : MsiSource) : (s.interrupt k).units = s.units := rfl
@[simp] theorem interrupt_mdl (s : State) (k : MsiSource) : (s.interrupt k).mdl = s.mdl := rfl
@[simp] theorem interrupt_enqs (s : State) (k : MsiSource) : (s.interrupt k).enqs = s.enqs := rfl
@[simp] theorem interrupt_deques (s : State) (k : MsiSource) : (s.interrupt k).deques = s.deques := rfl
@[simp] theorem interrupt_lifts (s : State) (k : MsiSource) : (s.interrupt k).lifts = s.lifts := rfl
@[simp] theorem interrupt_graphs (s : State) (k : MsiSource) : (s.interrupt k).graphs = s.graphs := rfl
@[simp] theorem interrupt_upds (s : State) (k : MsiSource) : (s.interrupt k).upds = s.upds := rfl
@[simp] theorem interrupt_parkedHarts (s : State) (k : MsiSource) : (s.interrupt k).parkedHarts = s.parkedHarts := rfl
@[simp] theorem interrupt_hostData (s : State) (k : MsiSource) : (s.interrupt k).hostData = s.hostData := rfl
@[simp] theorem interrupt_hostFault (s : State) (k : MsiSource) : (s.interrupt k).hostFault = s.hostFault := rfl
@[simp] theorem interrupt_cur (s : State) (k : MsiSource) : (s.interrupt k).cur = s.cur := rfl
@[simp] theorem interrupt_freshCount (s : State) (k : MsiSource) : (s.interrupt k).freshCount = s.freshCount := rfl
@[simp] theorem interrupt_nextUid (s : State) (k : MsiSource) : (s.interrupt k).nextUid = s.nextUid := rfl
@[simp] theorem interrupt_warps (s : State) (k : MsiSource) : (s.interrupt k).warps = s.warps := rfl
@[simp] theorem interrupt_wgs (s : State) (k : MsiSource) : (s.interrupt k).wgs = s.wgs := rfl
@[simp] theorem interrupt_launches (s : State) (k : MsiSource) : (s.interrupt k).launches = s.launches := rfl
@[simp] theorem interrupt_mem (s : State) (k : MsiSource) : (s.interrupt k).mem = s.mem := rfl
@[simp] theorem interrupt_bad (s : State) (k : MsiSource) : (s.interrupt k).bad = s.bad := rfl
@[simp] theorem interrupt_frames (s : State) (k : MsiSource) : (s.interrupt k).frames = s.frames := rfl

/-! pass -/

@[simp] theorem pass_tick (s : State) (a b : Nat) : (s.pass a b).tick = s.tick + a := rfl
@[simp] theorem pass_clock (s : State) (a b : Nat) : (s.pass a b).clock = s.clock + b := rfl
@[simp] theorem pass_schedule (s : State) (a b : Nat) : (s.pass a b).schedule = s.schedule := rfl
@[simp] theorem pass_turnNo (s : State) (a b : Nat) : (s.pass a b).turnNo = s.turnNo := rfl
@[simp] theorem pass_regs (s : State) (a b : Nat) : (s.pass a b).regs = s.regs := rfl
@[simp] theorem pass_attic (s : State) (a b : Nat) : (s.pass a b).attic = s.attic := rfl
@[simp] theorem pass_offline (s : State) (a b : Nat) : (s.pass a b).offline = s.offline := rfl
@[simp] theorem pass_cores (s : State) (a b : Nat) : (s.pass a b).cores = s.cores := rfl
@[simp] theorem pass_dies (s : State) (a b : Nat) : (s.pass a b).dies = s.dies := rfl
@[simp] theorem pass_net (s : State) (a b : Nat) : (s.pass a b).net = s.net := rfl
@[simp] theorem pass_ctl (s : State) (a b : Nat) : (s.pass a b).ctl = s.ctl := rfl
@[simp] theorem pass_accs (s : State) (a b : Nat) : (s.pass a b).accs = s.accs := rfl
@[simp] theorem pass_jobs (s : State) (a b : Nat) : (s.pass a b).jobs = s.jobs := rfl
@[simp] theorem pass_arrays (s : State) (a b : Nat) : (s.pass a b).arrays = s.arrays := rfl
@[simp] theorem pass_savedArrays (s : State) (a b : Nat) : (s.pass a b).savedArrays = s.savedArrays := rfl
@[simp] theorem pass_colls (s : State) (a b : Nat) : (s.pass a b).colls = s.colls := rfl
@[simp] theorem pass_collNo (s : State) (a b : Nat) : (s.pass a b).collNo = s.collNo := rfl
@[simp] theorem pass_acqs (s : State) (a b : Nat) : (s.pass a b).acqs = s.acqs := rfl
@[simp] theorem pass_units (s : State) (a b : Nat) : (s.pass a b).units = s.units := rfl
@[simp] theorem pass_mdl (s : State) (a b : Nat) : (s.pass a b).mdl = s.mdl := rfl
@[simp] theorem pass_enqs (s : State) (a b : Nat) : (s.pass a b).enqs = s.enqs := rfl
@[simp] theorem pass_deques (s : State) (a b : Nat) : (s.pass a b).deques = s.deques := rfl
@[simp] theorem pass_lifts (s : State) (a b : Nat) : (s.pass a b).lifts = s.lifts := rfl
@[simp] theorem pass_graphs (s : State) (a b : Nat) : (s.pass a b).graphs = s.graphs := rfl
@[simp] theorem pass_upds (s : State) (a b : Nat) : (s.pass a b).upds = s.upds := rfl
@[simp] theorem pass_msis (s : State) (a b : Nat) : (s.pass a b).msis = s.msis := rfl
@[simp] theorem pass_parkedHarts (s : State) (a b : Nat) : (s.pass a b).parkedHarts = s.parkedHarts := rfl
@[simp] theorem pass_hostData (s : State) (a b : Nat) : (s.pass a b).hostData = s.hostData := rfl
@[simp] theorem pass_hostFault (s : State) (a b : Nat) : (s.pass a b).hostFault = s.hostFault := rfl
@[simp] theorem pass_cur (s : State) (a b : Nat) : (s.pass a b).cur = s.cur := rfl
@[simp] theorem pass_freshCount (s : State) (a b : Nat) : (s.pass a b).freshCount = s.freshCount := rfl
@[simp] theorem pass_nextUid (s : State) (a b : Nat) : (s.pass a b).nextUid = s.nextUid := rfl
@[simp] theorem pass_warps (s : State) (a b : Nat) : (s.pass a b).warps = s.warps := rfl
@[simp] theorem pass_wgs (s : State) (a b : Nat) : (s.pass a b).wgs = s.wgs := rfl
@[simp] theorem pass_launches (s : State) (a b : Nat) : (s.pass a b).launches = s.launches := rfl
@[simp] theorem pass_mem (s : State) (a b : Nat) : (s.pass a b).mem = s.mem := rfl
@[simp] theorem pass_bad (s : State) (a b : Nat) : (s.pass a b).bad = s.bad := rfl
@[simp] theorem pass_frames (s : State) (a b : Nat) : (s.pass a b).frames = s.frames := rfl

/-! forgetMiss: only the miss table changes -/

@[simp] theorem forgetMiss_tick (s : State) (d k : Nat) (pc : Dword) : (s.forgetMiss d k pc).tick = s.tick := by
  unfold State.forgetMiss; dsimp only; split <;> rfl
@[simp] theorem forgetMiss_clock (s : State) (d k : Nat) (pc : Dword) : (s.forgetMiss d k pc).clock = s.clock := by
  unfold State.forgetMiss; dsimp only; split <;> rfl
@[simp] theorem forgetMiss_schedule (s : State) (d k : Nat) (pc : Dword) : (s.forgetMiss d k pc).schedule = s.schedule := by
  unfold State.forgetMiss; dsimp only; split <;> rfl
@[simp] theorem forgetMiss_turnNo (s : State) (d k : Nat) (pc : Dword) : (s.forgetMiss d k pc).turnNo = s.turnNo := by
  unfold State.forgetMiss; dsimp only; split <;> rfl
@[simp] theorem forgetMiss_regs (s : State) (d k : Nat) (pc : Dword) : (s.forgetMiss d k pc).regs = s.regs := by
  unfold State.forgetMiss; dsimp only; split <;> rfl
@[simp] theorem forgetMiss_attic (s : State) (d k : Nat) (pc : Dword) : (s.forgetMiss d k pc).attic = s.attic := by
  unfold State.forgetMiss; dsimp only; split <;> rfl
@[simp] theorem forgetMiss_offline (s : State) (d k : Nat) (pc : Dword) : (s.forgetMiss d k pc).offline = s.offline := by
  unfold State.forgetMiss; dsimp only; split <;> rfl
@[simp] theorem forgetMiss_cores (s : State) (d k : Nat) (pc : Dword) : (s.forgetMiss d k pc).cores = s.cores := by
  unfold State.forgetMiss; dsimp only; split <;> rfl
@[simp] theorem forgetMiss_net (s : State) (d k : Nat) (pc : Dword) : (s.forgetMiss d k pc).net = s.net := by
  unfold State.forgetMiss; dsimp only; split <;> rfl
@[simp] theorem forgetMiss_ctl (s : State) (d k : Nat) (pc : Dword) : (s.forgetMiss d k pc).ctl = s.ctl := by
  unfold State.forgetMiss; dsimp only; split <;> rfl
@[simp] theorem forgetMiss_accs (s : State) (d k : Nat) (pc : Dword) : (s.forgetMiss d k pc).accs = s.accs := by
  unfold State.forgetMiss; dsimp only; split <;> rfl
@[simp] theorem forgetMiss_jobs (s : State) (d k : Nat) (pc : Dword) : (s.forgetMiss d k pc).jobs = s.jobs := by
  unfold State.forgetMiss; dsimp only; split <;> rfl
@[simp] theorem forgetMiss_arrays (s : State) (d k : Nat) (pc : Dword) : (s.forgetMiss d k pc).arrays = s.arrays := by
  unfold State.forgetMiss; dsimp only; split <;> rfl
@[simp] theorem forgetMiss_savedArrays (s : State) (d k : Nat) (pc : Dword) : (s.forgetMiss d k pc).savedArrays = s.savedArrays := by
  unfold State.forgetMiss; dsimp only; split <;> rfl
@[simp] theorem forgetMiss_colls (s : State) (d k : Nat) (pc : Dword) : (s.forgetMiss d k pc).colls = s.colls := by
  unfold State.forgetMiss; dsimp only; split <;> rfl
@[simp] theorem forgetMiss_collNo (s : State) (d k : Nat) (pc : Dword) : (s.forgetMiss d k pc).collNo = s.collNo := by
  unfold State.forgetMiss; dsimp only; split <;> rfl
@[simp] theorem forgetMiss_acqs (s : State) (d k : Nat) (pc : Dword) : (s.forgetMiss d k pc).acqs = s.acqs := by
  unfold State.forgetMiss; dsimp only; split <;> rfl
@[simp] theorem forgetMiss_units (s : State) (d k : Nat) (pc : Dword) : (s.forgetMiss d k pc).units = s.units := by
  unfold State.forgetMiss; dsimp only; split <;> rfl
@[simp] theorem forgetMiss_mdl (s : State) (d k : Nat) (pc : Dword) : (s.forgetMiss d k pc).mdl = s.mdl := by
  unfold State.forgetMiss; dsimp only; split <;> rfl
@[simp] theorem forgetMiss_enqs (s : State) (d k : Nat) (pc : Dword) : (s.forgetMiss d k pc).enqs = s.enqs := by
  unfold State.forgetMiss; dsimp only; split <;> rfl
@[simp] theorem forgetMiss_deques (s : State) (d k : Nat) (pc : Dword) : (s.forgetMiss d k pc).deques = s.deques := by
  unfold State.forgetMiss; dsimp only; split <;> rfl
@[simp] theorem forgetMiss_lifts (s : State) (d k : Nat) (pc : Dword) : (s.forgetMiss d k pc).lifts = s.lifts := by
  unfold State.forgetMiss; dsimp only; split <;> rfl
@[simp] theorem forgetMiss_graphs (s : State) (d k : Nat) (pc : Dword) : (s.forgetMiss d k pc).graphs = s.graphs := by
  unfold State.forgetMiss; dsimp only; split <;> rfl
@[simp] theorem forgetMiss_upds (s : State) (d k : Nat) (pc : Dword) : (s.forgetMiss d k pc).upds = s.upds := by
  unfold State.forgetMiss; dsimp only; split <;> rfl
@[simp] theorem forgetMiss_msis (s : State) (d k : Nat) (pc : Dword) : (s.forgetMiss d k pc).msis = s.msis := by
  unfold State.forgetMiss; dsimp only; split <;> rfl
@[simp] theorem forgetMiss_parkedHarts (s : State) (d k : Nat) (pc : Dword) : (s.forgetMiss d k pc).parkedHarts = s.parkedHarts := by
  unfold State.forgetMiss; dsimp only; split <;> rfl
@[simp] theorem forgetMiss_hostData (s : State) (d k : Nat) (pc : Dword) : (s.forgetMiss d k pc).hostData = s.hostData := by
  unfold State.forgetMiss; dsimp only; split <;> rfl
@[simp] theorem forgetMiss_hostFault (s : State) (d k : Nat) (pc : Dword) : (s.forgetMiss d k pc).hostFault = s.hostFault := by
  unfold State.forgetMiss; dsimp only; split <;> rfl
@[simp] theorem forgetMiss_cur (s : State) (d k : Nat) (pc : Dword) : (s.forgetMiss d k pc).cur = s.cur := by
  unfold State.forgetMiss; dsimp only; split <;> rfl
@[simp] theorem forgetMiss_freshCount (s : State) (d k : Nat) (pc : Dword) : (s.forgetMiss d k pc).freshCount = s.freshCount := by
  unfold State.forgetMiss; dsimp only; split <;> rfl
@[simp] theorem forgetMiss_nextUid (s : State) (d k : Nat) (pc : Dword) : (s.forgetMiss d k pc).nextUid = s.nextUid := by
  unfold State.forgetMiss; dsimp only; split <;> rfl
@[simp] theorem forgetMiss_warps (s : State) (d k : Nat) (pc : Dword) : (s.forgetMiss d k pc).warps = s.warps := by
  unfold State.forgetMiss; dsimp only; split <;> rfl
@[simp] theorem forgetMiss_wgs (s : State) (d k : Nat) (pc : Dword) : (s.forgetMiss d k pc).wgs = s.wgs := by
  unfold State.forgetMiss; dsimp only; split <;> rfl
@[simp] theorem forgetMiss_launches (s : State) (d k : Nat) (pc : Dword) : (s.forgetMiss d k pc).launches = s.launches := by
  unfold State.forgetMiss; dsimp only; split <;> rfl
@[simp] theorem forgetMiss_mem (s : State) (d k : Nat) (pc : Dword) : (s.forgetMiss d k pc).mem = s.mem := by
  unfold State.forgetMiss; dsimp only; split <;> rfl
@[simp] theorem forgetMiss_bad (s : State) (d k : Nat) (pc : Dword) : (s.forgetMiss d k pc).bad = s.bad := by
  unfold State.forgetMiss; dsimp only; split <;> rfl
@[simp] theorem forgetMiss_frames (s : State) (d k : Nat) (pc : Dword) : (s.forgetMiss d k pc).frames = s.frames := by
  unfold State.forgetMiss; dsimp only; split <;> rfl

/-! A thread put back -/

@[simp] theorem put_tick (t : Thread) : t.put.tick = t.s.tick := rfl
@[simp] theorem put_clock (t : Thread) : t.put.clock = t.s.clock := rfl
@[simp] theorem put_schedule (t : Thread) : t.put.schedule = t.s.schedule := rfl
@[simp] theorem put_turnNo (t : Thread) : t.put.turnNo = t.s.turnNo := rfl
@[simp] theorem put_regs (t : Thread) : t.put.regs = t.s.regs := rfl
@[simp] theorem put_attic (t : Thread) : t.put.attic = t.s.attic := rfl
@[simp] theorem put_offline (t : Thread) : t.put.offline = t.s.offline := rfl
@[simp] theorem put_cores (t : Thread) : t.put.cores = t.s.cores := rfl
@[simp] theorem put_dies (t : Thread) : t.put.dies = t.s.dies := rfl
@[simp] theorem put_net (t : Thread) : t.put.net = t.s.net := rfl
@[simp] theorem put_ctl (t : Thread) : t.put.ctl = t.s.ctl := rfl
@[simp] theorem put_accs (t : Thread) : t.put.accs = t.s.accs := rfl
@[simp] theorem put_jobs (t : Thread) : t.put.jobs = t.s.jobs := rfl
@[simp] theorem put_arrays (t : Thread) : t.put.arrays = t.s.arrays := rfl
@[simp] theorem put_savedArrays (t : Thread) : t.put.savedArrays = t.s.savedArrays := rfl
@[simp] theorem put_colls (t : Thread) : t.put.colls = t.s.colls := rfl
@[simp] theorem put_collNo (t : Thread) : t.put.collNo = t.s.collNo := rfl
@[simp] theorem put_acqs (t : Thread) : t.put.acqs = t.s.acqs := rfl
@[simp] theorem put_units (t : Thread) : t.put.units = t.s.units := rfl
@[simp] theorem put_mdl (t : Thread) : t.put.mdl = t.s.mdl := rfl
@[simp] theorem put_enqs (t : Thread) : t.put.enqs = t.s.enqs := rfl
@[simp] theorem put_deques (t : Thread) : t.put.deques = t.s.deques := rfl
@[simp] theorem put_lifts (t : Thread) : t.put.lifts = t.s.lifts := rfl
@[simp] theorem put_graphs (t : Thread) : t.put.graphs = t.s.graphs := rfl
@[simp] theorem put_upds (t : Thread) : t.put.upds = t.s.upds := rfl
@[simp] theorem put_msis (t : Thread) : t.put.msis = t.s.msis := rfl
@[simp] theorem put_parkedHarts (t : Thread) : t.put.parkedHarts = t.s.parkedHarts := rfl
@[simp] theorem put_hostData (t : Thread) : t.put.hostData = t.s.hostData := rfl
@[simp] theorem put_hostFault (t : Thread) : t.put.hostFault = t.s.hostFault := rfl
@[simp] theorem put_cur (t : Thread) : t.put.cur = t.s.cur := rfl
@[simp] theorem put_freshCount (t : Thread) : t.put.freshCount = t.s.freshCount := rfl
@[simp] theorem put_nextUid (t : Thread) : t.put.nextUid = t.s.nextUid := rfl
@[simp] theorem put_warps (t : Thread) : t.put.warps = mapPut t.s.warps t.id t.w := rfl
@[simp] theorem put_wgs (t : Thread) : t.put.wgs = mapPut t.s.wgs t.w.wg t.g := rfl
@[simp] theorem put_launches (t : Thread) : t.put.launches = t.s.launches := rfl
@[simp] theorem put_mem (t : Thread) : t.put.mem = t.s.mem := rfl
@[simp] theorem put_bad (t : Thread) : t.put.bad = t.s.bad := rfl
@[simp] theorem put_frames (t : Thread) : t.put.frames = t.s.frames := rfl

/-! Reading back -/

@[simp] theorem byte_putByte_same (s : State) (pa : Nat) (b : Byte) : (s.putByte pa b).byte pa = b :=
  storeGet_storeSet_same 0 s.mem pa b
theorem byte_putByte_other (s : State) {pa a : Nat} (b : Byte) (h : a ≠ pa) : (s.putByte pa b).byte a = s.byte a :=
  storeGet_storeSet_other 0 s.mem b h
@[simp] theorem die_setDie_same (s : State) (d : Nat) (x : Die) : (s.setDie d x).die d = x :=
  storeGet_storeSet_same Die.reset s.dies d x
theorem die_setDie_other (s : State) {d e : Nat} (x : Die) (h : e ≠ d) : (s.setDie d x).die e = s.die e :=
  storeGet_storeSet_other Die.reset s.dies x h
@[simp] theorem core_setCore_same (s : State) (c : Nat) (x : Core) : (s.setCore c x).core c = x :=
  storeGet_storeSet_same Core.reset s.cores c x
theorem core_setCore_other (s : State) {c e : Nat} (x : Core) (h : e ≠ c) : (s.setCore c x).core e = s.core e :=
  storeGet_storeSet_other Core.reset s.cores x h
@[simp] theorem unit_setUnit_same (s : State) (d : Nat) (x : DieUnit) : (s.setUnit d x).unit d = x :=
  storeGet_storeSet_same DieUnit.reset s.units d x
theorem unit_setUnit_other (s : State) {d e : Nat} (x : DieUnit) (h : e ≠ d) : (s.setUnit d x).unit e = s.unit e :=
  storeGet_storeSet_other DieUnit.reset s.units x h
@[simp] theorem array_setArray_same (s : State) (c : Nat) (a : MatArray) : (s.setArray c a).array c = a :=
  storeGet_storeSet_same MatArray.zero s.arrays c a
@[simp] theorem reg_setReg_same (s : State) (d o v : Nat) : (s.setReg d o v).reg d o = v :=
  storeGet_storeSet_same (regReset o) s.regs (d * 2 ^ 32 + o) v
theorem reg_setReg_other (s : State) {d e o p : Nat} (v : Nat) (h : e * 2 ^ 32 + p ≠ d * 2 ^ 32 + o) :
    (s.setReg d o v).reg e p = s.reg e p := by
  unfold State.reg State.setReg storeSet storeGet
  split
  · rw [mapFind_mapDel_other _ h]
  · rw [mapFind_mapPut_other _ _ h]
@[simp] theorem launch_setLaunch_same (s : State) (l : Nat) (x : Launch) : (s.setLaunch l x).launch l = x := by
  simp [State.launch]

/-! Registers of a warp and a thread -/

@[simp] theorem sreg_setSreg_same (w : Warp) (r : Nat) (v : Word) : (w.setSreg r v).sreg r = v :=
  storeGet_storeSet_same 0 w.sregs r v
theorem sreg_setSreg_other (w : Warp) {r q : Nat} (v : Word) (h : q ≠ r) : (w.setSreg r v).sreg q = w.sreg q :=
  storeGet_storeSet_other 0 w.sregs v h
@[simp] theorem setSreg_wg (w : Warp) (r : Nat) (v : Word) : (w.setSreg r v).wg = w.wg := rfl
@[simp] theorem setSreg_width (w : Warp) (r : Nat) (v : Word) : (w.setSreg r v).width = w.width := rfl
@[simp] theorem setSreg_famOff (w : Warp) (r : Nat) (v : Word) : (w.setSreg r v).famOff = w.famOff := rfl
@[simp] theorem setSreg_warpid (w : Warp) (r : Nat) (v : Word) : (w.setSreg r v).warpid = w.warpid := rfl
@[simp] theorem setSreg_splitIdx (w : Warp) (r : Nat) (v : Word) : (w.setSreg r v).splitIdx = w.splitIdx := rfl
@[simp] theorem setSreg_pair (w : Warp) (r : Nat) (v : Word) : (w.setSreg r v).pair = w.pair := rfl
@[simp] theorem setSreg_col (w : Warp) (r : Nat) (v : Word) : (w.setSreg r v).col = w.col := rfl
@[simp] theorem setSreg_row0 (w : Warp) (r : Nat) (v : Word) : (w.setSreg r v).row0 = w.row0 := rfl
@[simp] theorem setSreg_slots (w : Warp) (r : Nat) (v : Word) : (w.setSreg r v).slots = w.slots := rfl
@[simp] theorem setSreg_pc (w : Warp) (r : Nat) (v : Word) : (w.setSreg r v).pc = w.pc := rfl
@[simp] theorem setSreg_running (w : Warp) (r : Nat) (v : Word) : (w.setSreg r v).running = w.running := rfl
@[simp] theorem setSreg_exec (w : Warp) (r : Nat) (v : Word) : (w.setSreg r v).exec = w.exec := rfl
@[simp] theorem setSreg_live (w : Warp) (r : Nat) (v : Word) : (w.setSreg r v).live = w.live := rfl
@[simp] theorem setSreg_helper (w : Warp) (r : Nat) (v : Word) : (w.setSreg r v).helper = w.helper := rfl
@[simp] theorem setSreg_paths (w : Warp) (r : Nat) (v : Word) : (w.setSreg r v).paths = w.paths := rfl
@[simp] theorem setSreg_mode (w : Warp) (r : Nat) (v : Word) : (w.setSreg r v).mode = w.mode := rfl
@[simp] theorem setSreg_pend (w : Warp) (r : Nat) (v : Word) : (w.setSreg r v).pend = w.pend := rfl
@[simp] theorem setSreg_handler (w : Warp) (r : Nat) (v : Word) : (w.setSreg r v).handler = w.handler := rfl
@[simp] theorem setSreg_trapExec (w : Warp) (r : Nat) (v : Word) : (w.setSreg r v).trapExec = w.trapExec := rfl
@[simp] theorem setSreg_boundary (w : Warp) (r : Nat) (v : Word) : (w.setSreg r v).boundary = w.boundary := rfl
@[simp] theorem setSreg_cause (w : Warp) (r : Nat) (v : Word) : (w.setSreg r v).cause = w.cause := rfl
@[simp] theorem setSreg_trappc (w : Warp) (r : Nat) (v : Word) : (w.setSreg r v).trappc = w.trappc := rfl
@[simp] theorem setSreg_trapaddr (w : Warp) (r : Nat) (v : Word) : (w.setSreg r v).trapaddr = w.trapaddr := rfl
@[simp] theorem setSreg_trapimm (w : Warp) (r : Nat) (v : Word) : (w.setSreg r v).trapimm = w.trapimm := rfl
@[simp] theorem setSreg_trapsrc (w : Warp) (r : Nat) (v : Word) : (w.setSreg r v).trapsrc = w.trapsrc := rfl
@[simp] theorem setSreg_held (w : Warp) (r : Nat) (v : Word) : (w.setSreg r v).held = w.held := rfl
@[simp] theorem setSreg_tickLatch (w : Warp) (r : Nat) (v : Word) : (w.setSreg r v).tickLatch = w.tickLatch := rfl
@[simp] theorem setSreg_seq (w : Warp) (r : Nat) (v : Word) : (w.setSreg r v).seq = w.seq := rfl
@[simp] theorem setSreg_block (w : Warp) (r : Nat) (v : Word) : (w.setSreg r v).block = w.block := rfl
@[simp] theorem setSreg_offl (w : Warp) (r : Nat) (v : Word) : (w.setSreg r v).offl = w.offl := rfl
@[simp] theorem setSreg_wake (w : Warp) (r : Nat) (v : Word) : (w.setSreg r v).wake = w.wake := rfl
@[simp] theorem setSreg_nap (w : Warp) (r : Nat) (v : Word) : (w.setSreg r v).nap = w.nap := rfl
@[simp] theorem setSreg_trapNap (w : Warp) (r : Nat) (v : Word) : (w.setSreg r v).trapNap = w.trapNap := rfl
@[simp] theorem setSreg_trapWake (w : Warp) (r : Nat) (v : Word) : (w.setSreg r v).trapWake = w.trapWake := rfl
@[simp] theorem setSreg_notBefore (w : Warp) (r : Nat) (v : Word) : (w.setSreg r v).notBefore = w.notBefore := rfl
@[simp] theorem setSreg_slice (w : Warp) (r : Nat) (v : Word) : (w.setSreg r v).slice = w.slice := rfl
@[simp] theorem setSreg_age (w : Warp) (r : Nat) (v : Word) : (w.setSreg r v).age = w.age := rfl
@[simp] theorem setSreg_fuse (w : Warp) (r : Nat) (v : Word) : (w.setSreg r v).fuse = w.fuse := rfl
@[simp] theorem setSreg_stall (w : Warp) (r : Nat) (v : Word) : (w.setSreg r v).stall = w.stall := rfl
@[simp] theorem setSreg_fetched (w : Warp) (r : Nat) (v : Word) : (w.setSreg r v).fetched = w.fetched := rfl
@[simp] theorem raise_wg (w : Warp) (fl : BitVec 5) : (w.raise fl).wg = w.wg := rfl
@[simp] theorem raise_width (w : Warp) (fl : BitVec 5) : (w.raise fl).width = w.width := rfl
@[simp] theorem raise_famOff (w : Warp) (fl : BitVec 5) : (w.raise fl).famOff = w.famOff := rfl
@[simp] theorem raise_warpid (w : Warp) (fl : BitVec 5) : (w.raise fl).warpid = w.warpid := rfl
@[simp] theorem raise_splitIdx (w : Warp) (fl : BitVec 5) : (w.raise fl).splitIdx = w.splitIdx := rfl
@[simp] theorem raise_pair (w : Warp) (fl : BitVec 5) : (w.raise fl).pair = w.pair := rfl
@[simp] theorem raise_col (w : Warp) (fl : BitVec 5) : (w.raise fl).col = w.col := rfl
@[simp] theorem raise_row0 (w : Warp) (fl : BitVec 5) : (w.raise fl).row0 = w.row0 := rfl
@[simp] theorem raise_slots (w : Warp) (fl : BitVec 5) : (w.raise fl).slots = w.slots := rfl
@[simp] theorem raise_pc (w : Warp) (fl : BitVec 5) : (w.raise fl).pc = w.pc := rfl
@[simp] theorem raise_running (w : Warp) (fl : BitVec 5) : (w.raise fl).running = w.running := rfl
@[simp] theorem raise_exec (w : Warp) (fl : BitVec 5) : (w.raise fl).exec = w.exec := rfl
@[simp] theorem raise_live (w : Warp) (fl : BitVec 5) : (w.raise fl).live = w.live := rfl
@[simp] theorem raise_helper (w : Warp) (fl : BitVec 5) : (w.raise fl).helper = w.helper := rfl
@[simp] theorem raise_paths (w : Warp) (fl : BitVec 5) : (w.raise fl).paths = w.paths := rfl
@[simp] theorem raise_sregs (w : Warp) (fl : BitVec 5) : (w.raise fl).sregs = w.sregs := rfl
@[simp] theorem raise_pend (w : Warp) (fl : BitVec 5) : (w.raise fl).pend = w.pend := rfl
@[simp] theorem raise_handler (w : Warp) (fl : BitVec 5) : (w.raise fl).handler = w.handler := rfl
@[simp] theorem raise_trapExec (w : Warp) (fl : BitVec 5) : (w.raise fl).trapExec = w.trapExec := rfl
@[simp] theorem raise_boundary (w : Warp) (fl : BitVec 5) : (w.raise fl).boundary = w.boundary := rfl
@[simp] theorem raise_cause (w : Warp) (fl : BitVec 5) : (w.raise fl).cause = w.cause := rfl
@[simp] theorem raise_trappc (w : Warp) (fl : BitVec 5) : (w.raise fl).trappc = w.trappc := rfl
@[simp] theorem raise_trapaddr (w : Warp) (fl : BitVec 5) : (w.raise fl).trapaddr = w.trapaddr := rfl
@[simp] theorem raise_trapimm (w : Warp) (fl : BitVec 5) : (w.raise fl).trapimm = w.trapimm := rfl
@[simp] theorem raise_trapsrc (w : Warp) (fl : BitVec 5) : (w.raise fl).trapsrc = w.trapsrc := rfl
@[simp] theorem raise_held (w : Warp) (fl : BitVec 5) : (w.raise fl).held = w.held := rfl
@[simp] theorem raise_tickLatch (w : Warp) (fl : BitVec 5) : (w.raise fl).tickLatch = w.tickLatch := rfl
@[simp] theorem raise_seq (w : Warp) (fl : BitVec 5) : (w.raise fl).seq = w.seq := rfl
@[simp] theorem raise_block (w : Warp) (fl : BitVec 5) : (w.raise fl).block = w.block := rfl
@[simp] theorem raise_offl (w : Warp) (fl : BitVec 5) : (w.raise fl).offl = w.offl := rfl
@[simp] theorem raise_wake (w : Warp) (fl : BitVec 5) : (w.raise fl).wake = w.wake := rfl
@[simp] theorem raise_nap (w : Warp) (fl : BitVec 5) : (w.raise fl).nap = w.nap := rfl
@[simp] theorem raise_trapNap (w : Warp) (fl : BitVec 5) : (w.raise fl).trapNap = w.trapNap := rfl
@[simp] theorem raise_trapWake (w : Warp) (fl : BitVec 5) : (w.raise fl).trapWake = w.trapWake := rfl
@[simp] theorem raise_notBefore (w : Warp) (fl : BitVec 5) : (w.raise fl).notBefore = w.notBefore := rfl
@[simp] theorem raise_slice (w : Warp) (fl : BitVec 5) : (w.raise fl).slice = w.slice := rfl
@[simp] theorem raise_age (w : Warp) (fl : BitVec 5) : (w.raise fl).age = w.age := rfl
@[simp] theorem raise_fuse (w : Warp) (fl : BitVec 5) : (w.raise fl).fuse = w.fuse := rfl
@[simp] theorem raise_stall (w : Warp) (fl : BitVec 5) : (w.raise fl).stall = w.stall := rfl
@[simp] theorem raise_fetched (w : Warp) (fl : BitVec 5) : (w.raise fl).fetched = w.fetched := rfl
@[simp] theorem setVregs_s (t : Thread) (l r : Nat) (ws : List Word) : (t.setVregs l r ws).s = t.s := rfl
@[simp] theorem setVregs_id (t : Thread) (l r : Nat) (ws : List Word) : (t.setVregs l r ws).id = t.id := rfl
@[simp] theorem setVregs_w (t : Thread) (l r : Nat) (ws : List Word) : (t.setVregs l r ws).w = t.w := rfl
@[simp] theorem setVregs_g_launch (t : Thread) (l r : Nat) (ws : List Word) : (t.setVregs l r ws).g.launch = t.g.launch := rfl
@[simp] theorem setVregs_g_die (t : Thread) (l r : Nat) (ws : List Word) : (t.setVregs l r ws).g.die = t.g.die := rfl
@[simp] theorem setVregs_g_core (t : Thread) (l r : Nat) (ws : List Word) : (t.setVregs l r ws).g.core = t.g.core := rfl
@[simp] theorem setVregs_g_rank (t : Thread) (l r : Nat) (ws : List Word) : (t.setVregs l r ws).g.rank = t.g.rank := rfl
@[simp] theorem setVregs_g_d (t : Thread) (l r : Nat) (ws : List Word) : (t.setVregs l r ws).g.d = t.g.d := rfl
@[simp] theorem setVregs_g_w (t : Thread) (l r : Nat) (ws : List Word) : (t.setVregs l r ws).g.w = t.g.w := rfl
@[simp] theorem setVregs_g_t (t : Thread) (l r : Nat) (ws : List Word) : (t.setVregs l r ws).g.t = t.g.t := rfl
@[simp] theorem setVregs_g_clmember (t : Thread) (l r : Nat) (ws : List Word) : (t.setVregs l r ws).g.clmember = t.g.clmember := rfl
@[simp] theorem setVregs_g_width0 (t : Thread) (l r : Nat) (ws : List Word) : (t.setVregs l r ws).g.width0 = t.g.width0 := rfl
@[simp] theorem setVregs_g_nwarps (t : Thread) (l r : Nat) (ws : List Word) : (t.setVregs l r ws).g.nwarps = t.g.nwarps := rfl
@[simp] theorem setVregs_g_k (t : Thread) (l r : Nat) (ws : List Word) : (t.setVregs l r ws).g.k = t.g.k := rfl
@[simp] theorem setVregs_g_sr (t : Thread) (l r : Nat) (ws : List Word) : (t.setVregs l r ws).g.sr = t.g.sr := rfl
@[simp] theorem setVregs_g_alloc (t : Thread) (l r : Nat) (ws : List Word) : (t.setVregs l r ws).g.alloc = t.g.alloc := rfl
@[simp] theorem setVregs_g_gran (t : Thread) (l r : Nat) (ws : List Word) : (t.setVregs l r ws).g.gran = t.g.gran := rfl
@[simp] theorem setVregs_g_scratch (t : Thread) (l r : Nat) (ws : List Word) : (t.setVregs l r ws).g.scratch = t.g.scratch := rfl
@[simp] theorem setVregs_g_lfsr (t : Thread) (l r : Nat) (ws : List Word) : (t.setVregs l r ws).g.lfsr = t.g.lfsr := rfl
@[simp] theorem setVregs_g_frags (t : Thread) (l r : Nat) (ws : List Word) : (t.setVregs l r ws).g.frags = t.g.frags := rfl
@[simp] theorem setVregs_g_active (t : Thread) (l r : Nat) (ws : List Word) : (t.setVregs l r ws).g.active = t.g.active := rfl
@[simp] theorem setVregs_g_phase (t : Thread) (l r : Nat) (ws : List Word) : (t.setVregs l r ws).g.phase = t.g.phase := rfl
@[simp] theorem setVregs_g_killed (t : Thread) (l r : Nat) (ws : List Word) : (t.setVregs l r ws).g.killed = t.g.killed := rfl
@[simp] theorem setVregs_g_order (t : Thread) (l r : Nat) (ws : List Word) : (t.setVregs l r ws).g.order = t.g.order := rfl
@[simp] theorem setVregs_g_image (t : Thread) (l r : Nat) (ws : List Word) : (t.setVregs l r ws).g.image = t.g.image := rfl
@[simp] theorem setLane_s (t : Thread) (l : Nat) (q : Word) : (t.setLane l q).s = t.s := rfl
@[simp] theorem setLane_id (t : Thread) (l : Nat) (q : Word) : (t.setLane l q).id = t.id := rfl
@[simp] theorem setLane_w (t : Thread) (l : Nat) (q : Word) : (t.setLane l q).w = t.w := rfl
@[simp] theorem setLane_g_launch (t : Thread) (l : Nat) (q : Word) : (t.setLane l q).g.launch = t.g.launch := rfl
@[simp] theorem setLane_g_die (t : Thread) (l : Nat) (q : Word) : (t.setLane l q).g.die = t.g.die := rfl
@[simp] theorem setLane_g_core (t : Thread) (l : Nat) (q : Word) : (t.setLane l q).g.core = t.g.core := rfl
@[simp] theorem setLane_g_rank (t : Thread) (l : Nat) (q : Word) : (t.setLane l q).g.rank = t.g.rank := rfl
@[simp] theorem setLane_g_d (t : Thread) (l : Nat) (q : Word) : (t.setLane l q).g.d = t.g.d := rfl
@[simp] theorem setLane_g_w (t : Thread) (l : Nat) (q : Word) : (t.setLane l q).g.w = t.g.w := rfl
@[simp] theorem setLane_g_t (t : Thread) (l : Nat) (q : Word) : (t.setLane l q).g.t = t.g.t := rfl
@[simp] theorem setLane_g_clmember (t : Thread) (l : Nat) (q : Word) : (t.setLane l q).g.clmember = t.g.clmember := rfl
@[simp] theorem setLane_g_width0 (t : Thread) (l : Nat) (q : Word) : (t.setLane l q).g.width0 = t.g.width0 := rfl
@[simp] theorem setLane_g_nwarps (t : Thread) (l : Nat) (q : Word) : (t.setLane l q).g.nwarps = t.g.nwarps := rfl
@[simp] theorem setLane_g_k (t : Thread) (l : Nat) (q : Word) : (t.setLane l q).g.k = t.g.k := rfl
@[simp] theorem setLane_g_sr (t : Thread) (l : Nat) (q : Word) : (t.setLane l q).g.sr = t.g.sr := rfl
@[simp] theorem setLane_g_alloc (t : Thread) (l : Nat) (q : Word) : (t.setLane l q).g.alloc = t.g.alloc := rfl
@[simp] theorem setLane_g_gran (t : Thread) (l : Nat) (q : Word) : (t.setLane l q).g.gran = t.g.gran := rfl
@[simp] theorem setLane_g_scratch (t : Thread) (l : Nat) (q : Word) : (t.setLane l q).g.scratch = t.g.scratch := rfl
@[simp] theorem setLane_g_vregs (t : Thread) (l : Nat) (q : Word) : (t.setLane l q).g.vregs = t.g.vregs := rfl
@[simp] theorem setLane_g_frags (t : Thread) (l : Nat) (q : Word) : (t.setLane l q).g.frags = t.g.frags := rfl
@[simp] theorem setLane_g_active (t : Thread) (l : Nat) (q : Word) : (t.setLane l q).g.active = t.g.active := rfl
@[simp] theorem setLane_g_phase (t : Thread) (l : Nat) (q : Word) : (t.setLane l q).g.phase = t.g.phase := rfl
@[simp] theorem setLane_g_killed (t : Thread) (l : Nat) (q : Word) : (t.setLane l q).g.killed = t.g.killed := rfl
@[simp] theorem setLane_g_order (t : Thread) (l : Nat) (q : Word) : (t.setLane l q).g.order = t.g.order := rfl
@[simp] theorem setLane_g_image (t : Thread) (l : Nat) (q : Word) : (t.setLane l q).g.image = t.g.image := rfl

end Sys2Proof.Machine
end

