-- ==== Sys2Proof/Laws/Issue.lean ====
section
/-! SUPPORT. What the shared operations of an instruction answer: issue, its ends, traps, events. The meanings rest on
these; a proof cites them and unfolds none of them. -/

namespace Sys2Proof.Machine

variable {s : State} {t : Thread} {i : Instr} {ops : List Opd} {lim : Bool}

/-! Ends -/

theorem finish_next (t : Thread) (pc : Dword) (n : Nat) : (Res.next t).finish pc n = t.advance n := rfl
theorem finish_go (t : Thread) (pc : Dword) (n : Nat) : (Res.go t).finish pc n = t.stand := rfl
theorem finish_left (t : Thread) (pc : Dword) (n : Nat) : (Res.left t).finish pc n = t.stand.settle t.w.wg := rfl
theorem finish_parked (t : Thread) (m : LaneMask) (pc : Dword) (n : Nat) :
    (Res.parked t m).finish pc n = (t.stand.settle t.w.wg).divergence t.id pc m := rfl
theorem finish_again (t : Thread) (pc : Dword) (n : Nat) : (Res.again t).finish pc n = t.put := rfl
theorem finish_state (s : State) (pc : Dword) (n : Nat) : (Res.state s).finish pc n = s := rfl

/-- A trap with a handler to take it (R384). -/
theorem finish_trap (c : Nat) (a : Dword) (m : Word) (pc : Dword) (n : Nat) (h : t.Traps) :
    (Res.trap t c a m).finish pc n = t.trapped (BitVec.ofNat 32 c) a m := by
  obtain ⟨h1, h2⟩ := h
  have h2' : t.touch.launch.image.trapvec ≠ 0 := h2
  simp only [Res.finish, Thread.trapHere, Thread.takeTrap]
  rw [if_neg (by simp only [not_or]; exact ⟨by simpa [Thread.touch] using h1, h2'⟩)]
  simp only [Thread.put, forgetMiss_warps, forgetMiss_wgs]
  rfl

/-- A trap in handler mode, or without a handler, kills the workgroup (R385, R388). -/
theorem finish_trap_kill (c : Nat) (a : Dword) (m : Word) (pc : Dword) (n : Nat)
    (h : t.w.handler = true ∨ t.launch.image.trapvec = 0) :
    (Res.trap t c a m).finish pc n = t.killed c := by
  simp only [Res.finish, Thread.trapHere, Thread.takeTrap, Thread.killed]
  rw [if_pos (by simpa [Thread.touch, Thread.launch] using h)]
  simp only [Thread.stand, Thread.touch, Thread.put, Thread.die, forgetMiss_tick]

/-! Issue -/

/-- Registers in sectors that hold no error are read as they are (R100). -/
theorem readRegs_sound (n : Nat) (m : LaneMask) (h : ∀ b ∈ t.s.bad, ops.any (fun o => o.touches t.w m t.id b) = false) (k : Thread → Res) :
    Thread.readRegs n t m ops k = k t := by
  cases n with
  | zero => rfl
  | succ n =>
    have : (t.s.bad.find? fun b => ops.any fun o => o.touches t.w m t.id b) = none := by
      rw [List.find?_eq_none]; intro b hb; simp [h b hb]
    simp only [Thread.readRegs, this]

/-- With no failing sector in the machine nothing is asked of the registers. -/
theorem sound_of_nil (m : LaneMask) (h : t.s.bad = []) : ∀ b ∈ t.s.bad, ops.any (fun o => o.touches t.w m t.id b) = false := by simp [h]

theorem run_ready (h : Ready s t i ops lim) (eff : Thread → Res) : t.run i ops lim eff = eff t := by
  obtain ⟨⟨-, hb⟩, hw, ho, hl, hs⟩ := h
  simp [Thread.run, hb, hw, ho, hl, readRegs_sound _ _ hs]

theorem issue_ready (h : Ready s t i ops lim) (eff : Thread → Res) :
    issue i ops lim eff s = .next ((eff t).finish t.w.pc (instrLen i)) := by
  simp [issue, h.running.1, run_ready h]

/-- An instruction that goes on at the next one. -/
theorem issue_next (h : Ready s t i ops lim) {eff : Thread → Res} {u : Thread} (he : eff t = .next u) :
    issue i ops lim eff s = .next (u.advance (instrLen i)) := by
  rw [issue_ready h, he, finish_next]

/-- An instruction that traps. -/
theorem issue_trap (h : Ready s t i ops lim) {eff : Thread → Res} {u : Thread} {c : Nat} {a : Dword} {m : Word}
    (he : eff t = .trap u c a m) (hu : u.Traps) :
    issue i ops lim eff s = .next (u.trapped (BitVec.ofNat 32 c) a m) := by
  rw [issue_ready h, he, finish_trap _ _ _ _ _ hu]

/-- An instruction that is not executed yet. -/
theorem issue_again (h : Ready s t i ops lim) {eff : Thread → Res} {u : Thread} (he : eff t = .again u) :
    issue i ops lim eff s = .next u.put := by
  rw [issue_ready h, he, finish_again]

/-- Operands outside the kernel's registers, or a limit broken: illegal operand (R184 step 5, R198). -/
theorem issue_operands (hr : Running s t) (hw : i.wf = true) (hb : t.operandsOk ops = false ∨ lim = false)
    (hu : t.Traps) (eff : Thread → Res) : issue i ops lim eff s = .next (t.trapped 2 (word0 i) 0) := by
  have : t.run i ops lim eff = .trap t 0x02 (word0 i) 0 := by
    simp only [Thread.run, hr.2, hw]
    rcases hb with hb | hb <;> simp [hb]
  simp only [issue, hr.1, this]
  rw [finish_trap _ _ _ _ _ hu]
  rfl

/-- An instruction with a thread to act on always answers a state. -/
theorem issue_total (h : s.thread = some t) (i : Instr) (ops : List Opd) (lim : Bool) (eff : Thread → Res) :
    ∃ u, issue i ops lim eff s = .next u := ⟨_, by simp [issue, h]; rfl⟩

/-- Without one it stops. -/
theorem issue_none (h : s.thread = none) (i : Instr) (ops : List Opd) (lim : Bool) (eff : Thread → Res) :
    issue i ops lim eff s = .fault .noRunningWarp := by simp [issue, h]

/-! Events -/

@[simp] theorem event_on (f : State → State) (s : State) : event true f s = .next (f s) := rfl
@[simp] theorem event_off (f : State → State) (s : State) : event false f s = .next s := rfl
theorem event_if {ok : Bool} (h : ok = true) (f : State → State) (s : State) : event ok f s = .next (f s) := by
  rw [h]; rfl
/-- An event always answers a state. -/
theorem event_total (ok : Bool) (f : State → State) (s : State) : ∃ u, event ok f s = .next u := by
  cases ok
  · exact ⟨s, rfl⟩
  · exact ⟨f s, rfl⟩

/-! Sticky flags -/

/-- No enabled exception: the flags are raised and the result is written (R217, R241). -/
theorem arith_quiet (t : Thread) (fl : BitVec 5) (k : Thread → Res) (h : modeTraps t.w.mode fl = false) :
    t.arith fl k = k { t with w := t.w.raise fl } := by simp [Thread.arith, h]
/-- An enabled exception: the flags are raised, the trap taken, nothing written. -/
theorem arith_traps (t : Thread) (fl : BitVec 5) (k : Thread → Res) (h : modeTraps t.w.mode fl = true) :
    t.arith fl k = .trap { t with w := t.w.raise fl } 0x0C 0 (fl.setWidth 32) := by simp [Thread.arith, h]

/-! Reading a thread back -/

theorem advance_warp (t : Thread) (n : Nat) :
    mapFind (t.advance n).warps t.id = some { t.w with pc := t.w.pc + BitVec.ofNat 64 n, stall := none } :=
  mapFind_mapPut_same _ _ _
theorem advance_wg (t : Thread) (n : Nat) :
    mapFind (t.advance n).wgs t.w.wg = some { t.g with active := t.s.tick } := mapFind_mapPut_same _ _ _
theorem advance_other_warp (t : Thread) (n : Nat) {j : Nat} (h : j ≠ t.id) :
    mapFind (t.advance n).warps j = mapFind t.s.warps j := mapFind_mapPut_other _ _ h
theorem advance_other_wg (t : Thread) (n : Nat) {j : Nat} (h : j ≠ t.w.wg) :
    mapFind (t.advance n).wgs j = mapFind t.s.wgs j := mapFind_mapPut_other _ _ h
@[simp] theorem advance_mem (t : Thread) (n : Nat) : (t.advance n).mem = t.s.mem := rfl
@[simp] theorem advance_byte (t : Thread) (n a : Nat) : (t.advance n).byte a = t.s.byte a := rfl

end Sys2Proof.Machine
end

