-- ==== Sys2Proof/Laws/Memory.lean ====
section
/-! SUPPORT. Memory keeps its canonical form under every operation that writes it; bytes read back as they were written. -/

namespace Sys2Proof.Machine

/-! The canonical form -/

theorem memory_wf_storeSet (m : FMap Byte) (a : Nat) (b : Byte) (h : Memory.wf m = true) : Memory.wf (storeSet 0 m a b) = true :=
  storeWf_storeSet 0 m a b h

theorem memory_wf_filter (p : Nat × Byte → Bool) (m : FMap Byte) (h : Memory.wf m = true) : Memory.wf (m.filter p) = true :=
  storeWf_filter 0 p m h

theorem memory_wf_nil : Memory.wf [] = true := rfl

/-- A fold keeps what each of its steps keeps. -/
theorem foldl_keeps {α β : Type} (P : α → Prop) (f : α → β → α) (l : List β) (a : α) (h : ∀ a b, P a → P (f a b)) (ha : P a) :
    P (l.foldl f a) := by
  induction l generalizing a with
  | nil => exact ha
  | cons b r ih => exact ih _ (h a b ha)

theorem wf_putByte (s : State) (pa : Nat) (b : Byte) (h : Memory.wf s.mem = true) : Memory.wf (s.putByte pa b).mem = true :=
  memory_wf_storeSet _ _ _ h

theorem wf_atticPut (s : State) (d x w e : Nat) (h : Memory.wf s.mem = true) : Memory.wf (s.atticPut d x w e).mem = true :=
  memory_wf_putLine _ _ _ h

theorem wf_dirPut (s : State) (x w e : Nat) (h : Memory.wf s.mem = true) : Memory.wf (s.dirPut x w e).mem = true :=
  memory_wf_putLine _ _ _ h

theorem dropDie_mem (s : State) (d x : Nat) :
    (s.dropDie d x).mem = s.mem ∨ ∃ t w, (s.dropDie d x).mem = (State.atticPut t d x w 0).mem ∧ t.mem = s.mem := by
  unfold State.dropDie
  dsimp only
  split
  · left; split <;> simp [State.setDie]
  · split
    · next w _ _ => right; refine ⟨_, w, rfl, ?_⟩; split <;> rfl
    · left; split <;> rfl

theorem wf_dropDie (s : State) (d x : Nat) (h : Memory.wf s.mem = true) : Memory.wf (s.dropDie d x).mem = true := by
  rcases dropDie_mem s d x with e | ⟨t, w, e, ht⟩
  · rw [e]; exact h
  · rw [e]; exact wf_atticPut t d x w 0 (by rw [ht]; exact h)

/-! Errors change no byte of memory but where a line of an Attic reverts to memory's value -/

theorem foldl_mem {β : Type} (f : State → β → State) (l : List β) (s : State) (h : ∀ s b, (f s b).mem = s.mem) :
    (l.foldl f s).mem = s.mem := by
  induction l generalizing s with
  | nil => rfl
  | cons b r ih => rw [List.foldl_cons, ih, h]

theorem putError_mem (s : State) (d : Nat) (bs : List Byte) : (s.putError d bs).mem = s.mem := by
  unfold State.putError; dsimp only; split <;> rfl

theorem logError_mem (s : State) (e : ErrorEntry) : (s.logError e).mem = s.mem := by
  unfold State.logError; dsimp only
  repeat' split
  all_goals simp [putError_mem, State.interrupt, State.msi]

theorem badCorrect_mem (s : State) (a : BadAt) (x : Nat) : (s.badCorrect a x).mem = s.mem := by
  unfold State.badCorrect
  split
  · rfl
  · exact foldl_mem _ _ _ fun s b => logError_mem _ _

theorem badLog_mem (s : State) (a : BadAt) (x : Nat) (m d : Byte) : (s.badLog a x m d).mem = s.mem :=
  foldl_mem _ _ _ fun s i => by split; exacts [logError_mem _ _, rfl]

theorem badClear_mem (s : State) (a : BadAt) (x : Nat) : (s.badClear a x).mem = s.mem := by
  unfold State.badClear; split <;> rfl

theorem l1Lose_mem (s : State) (c k1 k2 : Nat) : (s.l1Lose c k1 k2).mem = s.mem := by
  unfold State.l1Lose
  dsimp only
  repeat' split
  all_goals simp only [setDie_mem, setCore_mem, badClear_mem, badLog_mem, badCorrect_mem]

theorem l2Heal_mem (s : State) (d k : Nat) : (s.l2Heal d k).mem = s.mem := by
  unfold State.l2Heal
  dsimp only
  repeat' split
  all_goals simp only [setDie_mem, badClear_mem, badLog_mem, badCorrect_mem]

/-! Requests to the Cellar change no byte of memory -/

theorem addField_mem (s : State) (d o l n k : Nat) : (s.addField d o l n k).mem = s.mem := by
  unfold State.addField; simp only [setReg_mem]

theorem countBin_mem (s : State) (d o i : Nat) : (s.countBin d o i).mem = s.mem := addField_mem _ _ _ _ _ _

theorem measure_mem (s : State) (d c l n : Nat) : (s.measure d c l n).mem = s.mem := by
  unfold State.measure
  cases s.counting d
  · rfl
  · rw [if_pos rfl, countBin_mem, addField_mem, addField_mem, setReg_mem]

theorem cellarReqAt_mem (s : State) (t x c : Nat) (w : Bool) : (s.cellarReqAt t x c w).mem = s.mem := by
  unfold State.cellarReqAt
  dsimp only
  repeat' split
  all_goals simp [measure_mem, State.setGroup]

theorem cellarReq_mem (s : State) (x c : Nat) (w : Bool) : (s.cellarReq x c w).mem = s.mem := cellarReqAt_mem _ _ _ _ _

theorem tagTouch_mem (s : State) (x : Nat) (w : Bool) : (s.tagTouch x w).mem = s.mem := cellarReq_mem _ _ _ _

theorem machineCheck_mem (s : State) (c d w : Nat) : (s.machineCheck c d w).mem = s.mem := by
  unfold State.machineCheck
  dsimp only
  split <;> simp [State.interrupt, State.msi, logError_mem]

theorem tagRead_mem (s : State) (d t c : Nat) : (s.tagRead d t c).mem = s.mem := by
  unfold State.tagRead
  dsimp only
  split <;> simp [machineCheck_mem, badCorrect_mem, tagTouch_mem]

theorem dirRead_mem (s : State) (x : Nat) : (s.dirRead x).mem = s.mem := tagRead_mem _ _ _ _

theorem memReadAt_mem (s : State) (t x c : Nat) : (s.memReadAt t x c).mem = s.mem := by
  unfold State.memReadAt; simp only [badCorrect_mem, cellarReqAt_mem]

theorem copyRead_mem (s : State) (d x : Nat) : (s.copyRead d x).mem = s.mem := by
  unfold State.copyRead
  dsimp only
  repeat' split
  all_goals simp only [badCorrect_mem, cellarReq_mem, tagRead_mem]

theorem ownRead_mem (s : State) (x c : Nat) : (s.ownRead x c).mem = s.mem := by
  unfold State.ownRead
  split
  exacts [copyRead_mem _ _ _, memReadAt_mem _ _ _ _]

theorem ownerRead_mem (s : State) (x c : Nat) : (s.ownerRead x c).mem = s.mem := by
  unfold State.ownerRead
  dsimp only
  split
  · split
    exacts [copyRead_mem _ _ _, (ownRead_mem _ _ _).trans (copyRead_mem _ _ _)]
  · exact ownRead_mem _ _ _

theorem homeRead_mem (s : State) (x c : Nat) : (s.homeRead x c).mem = s.mem := (ownerRead_mem _ _ _).trans (dirRead_mem s x)

theorem copiesTouch_mem (s : State) (x : Nat) : (s.copiesTouch x).mem = s.mem := by
  unfold State.copiesTouch
  dsimp only
  rw [foldl_mem]
  · split <;> simp only [tagTouch_mem]
  · intro s b; split <;> simp only [tagTouch_mem, tagRead_mem]

theorem wf_dirSet (s : State) (x : Nat) (e : Option (DirSt × Nat × BitVec 9)) (h : Memory.wf s.mem = true) :
    Memory.wf (s.dirSet x e).mem = true := by
  have ht (w : Nat) (n : Nat) : Memory.wf ((s.tagTouch (dirLine s.attic x) true).dirPut x w n).mem = true :=
    wf_dirPut _ _ _ _ (by rw [tagTouch_mem]; exact h)
  unfold State.dirSet
  dsimp only
  split
  · exact h
  · exact ht _ _
  · exact ht _ _
  · exact memory_wf_putLine _ _ _ h

theorem wf_dropHeld (s : State) (d x : Nat) (h : Memory.wf s.mem = true) : Memory.wf (s.dropHeld d x).mem = true := by
  unfold State.dropHeld
  dsimp only
  apply wf_dropDie
  split
  · rw [tagTouch_mem]; exact h
  · exact h

theorem wf_atticHeal (s : State) (d x : Nat) (h : Memory.wf s.mem = true) : Memory.wf (s.atticHeal d x).mem = true := by
  unfold State.atticHeal
  split
  · exact h
  · dsimp only
    split
    · rw [badCorrect_mem]; exact h
    · apply wf_atticPut
      apply memory_wf_mergeMem
      rw [cellarReq_mem, tagTouch_mem, badClear_mem, badLog_mem, badCorrect_mem]; exact h

theorem wf_healDie (s : State) (d x : Nat) (h : Memory.wf s.mem = true) : Memory.wf (s.healDie d x).mem = true := by
  unfold State.healDie
  split
  · exact h
  · dsimp only
    have hl : ∀ t : State, t.mem = s.mem → Memory.wf (if homeOf x = d then t else t.atticHeal d x).mem = true := by
      intro t ht
      split
      · rw [ht]; exact h
      · exact wf_atticHeal t d x (by rw [ht]; exact h)
    apply hl
    split
    · rw [l2Heal_mem]
      exact foldl_mem _ _ _ fun s c => by split; exacts [l1Lose_mem _ _ _ _, rfl]
    · rfl

theorem wf_memWrite (s : State) (x : Nat) (d : Line) (m : NibMask) (h : Memory.wf s.mem = true) :
    Memory.wf (s.memWrite x d m).mem = true := by
  unfold State.memWrite
  dsimp only
  split <;> exact memory_wf_mergeMem _ _ _ _ h

theorem wf_homeWrite (s : State) (x : Nat) (new : Line) (mask : NibMask) (h : Memory.wf s.mem = true) :
    Memory.wf (s.homeWrite x new mask).mem = true := by
  unfold State.homeWrite
  apply memory_wf_putLine
  have hh : Memory.wf (if s.bad.isEmpty = true then s else (List.range 9).foldl (fun s d => s.healDie d x) s).mem = true := by
    split
    · exact h
    · exact foldl_keeps (fun s : State => Memory.wf s.mem = true) _ _ _ (fun s d hs => wf_healDie s d x hs) h
  have hf := foldl_keeps (fun s : State => Memory.wf s.mem = true) (fun s d => s.dropDie d x) (List.range 9) _
    (fun s d hs => wf_dropDie s d x hs) hh
  split
  · exact wf_dirPut _ _ _ _ hf
  · exact hf

/-- A write of an agent that is no core. -/
theorem wf_sysWrite (s : State) (pa : Nat) (bs : List Byte) (h : Memory.wf s.mem = true) :
    Memory.wf (s.sysWrite pa bs).mem = true := by
  unfold State.sysWrite
  split
  · exact wf_homeWrite s _ _ _ h
  · exact memory_wf_putBytes _ _ _ h

/-! Reading back -/

theorem byte_of_mem {s t : State} (h : s.mem = t.mem) (a : Nat) : s.byte a = t.byte a := by unfold State.byte; rw [h]

end Sys2Proof.Machine
end

