-- ==== Sys2Proof/Laws/Ops.lean ====
section
/-! SUPPORT. What the operations that many instructions share answer: issuing an access, queueing a job, the checks of an engine
instruction, taking a message. -/

namespace Sys2Proof.Machine

/-! Issuing an access (R74, R75) -/

theorem startAcc_full {t : Thread} {c : Ctr} {a : Access} (h : t.ctrFull c = true ∨ t.s.accRoom a = false) :
    t.startAcc (some c) a = .again t := by
  unfold Thread.startAcc; rcases h with h | h <;> simp [h]

theorem startAcc_noRoom {t : Thread} {a : Access} (h : t.s.accRoom a = false) : t.startAcc none a = .again t := by
  unfold Thread.startAcc; simp [h]

theorem startAcc_plain {t : Thread} {a : Access} (h : t.s.accRoom a = true) (hp : a.parts ≠ []) :
    t.startAcc none a = .next { t with s := { t.s with
      nextUid := t.s.nextUid + 1, accs := mapPut t.s.accs t.s.nextUid (a.tagged (t.s.core t.core)) } } := by
  have : a.parts.isEmpty = false := by cases h' : a.parts <;> simp_all
  simp [Thread.startAcc, h, this, State.newUid]
  rfl

theorem startAcc_empty {t : Thread} {c : Ctr} {a : Access} (hc : t.ctrFull c = false) (h : t.s.accRoom a = true) (hp : a.parts = []) :
    t.startAcc (some c) a = .next (Thread.ctrPulse { t with s := { t.s with nextUid := t.s.nextUid + 1 } } c t.s.nextUid) := by
  simp [Thread.startAcc, h, hc, hp, State.newUid]

/-! Queueing a job (R311) -/

theorem enqueue_full {t : Thread} {j : Job} (h : (t.s.freeEntry t.core).isNone = true ∨ t.ctrFull .en = true) :
    t.enqueue j = .again t := by
  unfold Thread.enqueue; rw [if_pos (by simpa using h)]

/-- A path with an active lane whose core's array nobody else owns goes on (R302). -/
theorem matrix_free {t : Thread} (h : t.engineLanes ≠ 0) (ha : ∀ wg, (t.s.array t.core).owner = some wg → wg = t.w.wg) (k : Thread → Res) :
    t.matrix k = k t := by
  simp only [Thread.matrix, Thread.engine, if_neg h]
  cases hx : (t.s.array t.core).owner with
  | none => rfl
  | some wg => simp [ha wg hx]

/-- Lanes that agree on the format word (R304). -/
theorem vote_agrees {t : Thread} {r : BitVec 10} {w : Nat} (h : lanesOf t.w.width t.engineLanes ≠ [])
    (ha : ∀ l ∈ lanesOf t.w.width t.engineLanes, (t.vreg l r.toNat).toNat = w) (k : Nat → Res) : t.vote r k = k w := by
  simp only [Thread.vote]
  cases hv : lanesOf t.w.width t.engineLanes with
  | nil => exact absurd hv h
  | cons x y =>
    rw [hv] at ha
    simp only [List.map_cons]
    rw [if_pos]
    · rw [ha x (by simp)]
    · simp only [List.all_eq_true, List.mem_map, forall_exists_index, and_imp]
      rintro z l hl rfl
      simp only [beq_iff_eq]
      apply BitVec.eq_of_toNat_eq
      rw [ha x (by simp), ha l (by simp [hl])]

theorem checked_pass {t : Thread} {l : List (Option (Nat × Dword))} (h : ∀ x ∈ l, x = none) (k : Thread → Res) : t.checked l k = k t := by
  have : firstOf l = none := by
    simp only [firstOf, List.findSome?_eq_none_iff]
    exact h
  simp [Thread.checked, this]

theorem alignCheck_pass {v k : Nat} (h : v % k = 0) : alignCheck v k = none := by simp [alignCheck, h]

/-! Taking a message -/

@[simp] theorem listRemove_at {α : Type} (a b : List α) (m : α) : listRemove (a ++ m :: b) a.length = a ++ b := by
  induction a with
  | nil => rfl
  | cons x r ih => simp [listRemove, ih]

theorem listModify_at {α : Type} (f : α → α) (a b : List α) (m : α) : listModify f (a ++ m :: b) a.length = a ++ f m :: b := by
  induction a with
  | nil => rfl
  | cons x r ih => simp [listModify, ih]

/-- A message whose way is open is taken. -/
theorem takeCtl_at {s : State} {a b : List CtlMsg} {m : CtlMsg} (h : s.ctl = a ++ m :: b) (hr : s.routed m.src m.dst = true)
    (f : CtlMsg → State → Option State) : s.takeCtl a.length f = (f m { s with ctl := a ++ b }).getD s := by
  simp [State.takeCtl, h, hr]

theorem deliverAt_at {s : State} {a b : List CohMsg} {m : CohMsg} (h : s.net = a ++ m :: b) (hr : s.passes m = true) :
    s.deliverAt m.code a.length = (State.deliver { s with net := a ++ b } m).getD s := by
  simp [State.deliverAt, h, hr]

/-- One that a lost link holds stays where it is (R20). -/
theorem takeCtl_held {s : State} {a b : List CtlMsg} {m : CtlMsg} (h : s.ctl = a ++ m :: b) (hr : s.routed m.src m.dst = false)
    (f : CtlMsg → State → Option State) : s.takeCtl a.length f = s := by
  simp [State.takeCtl, h, hr]

theorem deliverAt_held {s : State} {a b : List CohMsg} {m : CohMsg} (h : s.net = a ++ m :: b) (hr : s.passes m = false) :
    s.deliverAt m.code a.length = s := by
  simp [State.deliverAt, h, hr]

/-! Reading scratch while no sector holds an error (R101) -/

theorem scratchOne_nil {s : State} (h : s.bad = []) (wg n o : Nat) : ∀ fuel, State.scratchOne fuel s wg n o = .clean s
  | 0 => rfl
  | fuel + 1 => by simp [State.scratchOne, State.badScratch, h]
theorem consumeScratch_nil {s : State} (h : s.bad = []) (wg n : Nat) : ∀ l : List Nat, s.consumeScratch wg n l = .clean s
  | [] => rfl
  | o :: r => by simp [State.consumeScratch, scratchOne_nil h, consumeScratch_nil h wg n r]
theorem scratchSound_nil {t : Thread} (h : t.s.bad = []) (n : Nat) (ps : List Place) : t.scratchSound n ps = .ok t := by
  simp [Thread.scratchSound, h]
theorem jobSound_nil {s : State} (h : s.bad = []) (uid : Nat) (j : Job) (k : State → State) :
    ∀ l : List (Nat × Nat), s.jobSound uid j l k = k s
  | [] => rfl
  | (o, n) :: r => by simp [State.jobSound, h]
/-- A job's read of scratch gives its bytes. -/
theorem jobRead_scratch {s : State} (h : s.bad = []) (uid : Nat) (j : Job) (va n : Nat) :
    s.jobRead uid j false va n = .ok s (getScratch (s.scratchOf j.wg) va n) := by
  simp [State.jobRead, consumeScratch_nil h]

/-! Operands -/

/-- Operand b reads nothing of the machine but, for a literal, code. -/
theorem operandB_vec (t : Thread) (vb : BitVec 10) (ty : Nat) (wide : Bool) : t.operandB 0 vb ty wide = .ok (t, .vec vb.toNat) := rfl
theorem operandB_scalar (t : Thread) (vb : BitVec 10) (ty : Nat) (wide : Bool) :
    t.operandB 1 vb ty wide = .ok (t, .val (if wide then t.w.spair vb.toNat else (t.w.sreg vb.toNat).setWidth 64)) := by
  cases wide <;> rfl

end Sys2Proof.Machine
end

