-- ==== Sys2Proof/Laws/PerInstr.lean ====
section
/-! SUPPORT. Lemmas made per instruction: the opcode in an instruction's word names the instruction (spec 08 R186 to R199). -/

namespace Sys2Proof.Laws.OpcodeBack

open Sys2Proof Sys2Proof.Machine

/-- What the decoder reads from the shape of a legal instruction is the instruction. An event has no shape. -/
def Statement (i : Instr) : Prop := ∀ sh, shapeOf i = some sh → legal i = true → sh.instr = some i

theorem bit_of_masked (x m : BitVec 8) (k : Nat) (h : x &&& ~~~m = 0) (hm : m.getLsbD k = false) : x.getLsbD k = false := by
  have e := congrArg (fun y : BitVec 8 => y.getLsbD k) h
  rw [Bool.eq_false_iff]
  intro hx
  have hk : k < 8 := by
    rcases Nat.lt_or_ge k 8 with h' | h'
    · exact h'
    · rw [BitVec.getLsbD_of_ge _ _ h'] at hx; cases hx
  simp only [BitVec.getLsbD_and, BitVec.getLsbD_not, hx, hm, hk] at e; simp at e

theorem wq_imm {va vb sA sB sD : Bool} {m : BitVec 8} {f : WqF} (h : wqLegal va vb sA sB sD m f = true) : f.imm &&& ~~~m = 0 := by
  simp only [wqLegal, Bool.and_eq_true, decide_eq_true_eq] at h; exact h.2

theorem v3_of_rule (n : Nat) (f : V3F) (h : v3Rule n ≠ none) : (v3Instr n f).isSome = true := by
  unfold v3Rule at h
  split at h <;> first | rfl | exact absurd rfl h

theorem vmov (f : V3F) : Statement (.vmov f) := by intro sh h _; cases h; rfl
theorem vadd (f : V3F) : Statement (.vadd f) := by intro sh h _; cases h; rfl
theorem vsub (f : V3F) : Statement (.vsub f) := by intro sh h _; cases h; rfl
theorem vmul (f : V3F) : Statement (.vmul f) := by intro sh h _; cases h; rfl
theorem vmulh (f : V3F) : Statement (.vmulh f) := by intro sh h _; cases h; rfl
theorem vmad (f : V3F) : Statement (.vmad f) := by intro sh h _; cases h; rfl
theorem vmin (f : V3F) : Statement (.vmin f) := by intro sh h _; cases h; rfl
theorem vmax (f : V3F) : Statement (.vmax f) := by intro sh h _; cases h; rfl
theorem vabs (f : V3F) : Statement (.vabs f) := by intro sh h _; cases h; rfl
theorem vneg (f : V3F) : Statement (.vneg f) := by intro sh h _; cases h; rfl
theorem vand (f : V3F) : Statement (.vand f) := by intro sh h _; cases h; rfl
theorem vor (f : V3F) : Statement (.vor f) := by intro sh h _; cases h; rfl
theorem vxor (f : V3F) : Statement (.vxor f) := by intro sh h _; cases h; rfl
theorem vnot (f : V3F) : Statement (.vnot f) := by intro sh h _; cases h; rfl
theorem vshl (f : V3F) : Statement (.vshl f) := by intro sh h _; cases h; rfl
theorem vshr (f : V3F) : Statement (.vshr f) := by intro sh h _; cases h; rfl
theorem vsar (f : V3F) : Statement (.vsar f) := by intro sh h _; cases h; rfl
theorem vrot (f : V3F) : Statement (.vrot f) := by intro sh h _; cases h; rfl
theorem vbfe (f : V3F) : Statement (.vbfe f) := by intro sh h _; cases h; rfl
theorem vbfi (f : V3F) : Statement (.vbfi f) := by intro sh h _; cases h; rfl
theorem vpopc (f : V3F) : Statement (.vpopc f) := by intro sh h _; cases h; rfl
theorem vclz (f : V3F) : Statement (.vclz f) := by intro sh h _; cases h; rfl
theorem vbrev (f : V3F) : Statement (.vbrev f) := by intro sh h _; cases h; rfl
theorem vadd64 (f : V3F) : Statement (.vadd64 f) := by intro sh h _; cases h; rfl
theorem vsub64 (f : V3F) : Statement (.vsub64 f) := by intro sh h _; cases h; rfl
theorem vmulw (f : V3F) : Statement (.vmulw f) := by intro sh h _; cases h; rfl
theorem vsel (f : V3F) : Statement (.vsel f) := by intro sh h _; cases h; rfl
theorem vcmpEq (f : V3F) : Statement (.vcmpEq f) := by intro sh h _; cases h; rfl
theorem vcmpNe (f : V3F) : Statement (.vcmpNe f) := by intro sh h _; cases h; rfl
theorem vcmpLt (f : V3F) : Statement (.vcmpLt f) := by intro sh h _; cases h; rfl
theorem vcmpLe (f : V3F) : Statement (.vcmpLe f) := by intro sh h _; cases h; rfl
theorem vcmpGt (f : V3F) : Statement (.vcmpGt f) := by intro sh h _; cases h; rfl
theorem vcmpGe (f : V3F) : Statement (.vcmpGe f) := by intro sh h _; cases h; rfl
theorem vcmpUo (f : V3F) : Statement (.vcmpUo f) := by intro sh h _; cases h; rfl
theorem vcmpOr (f : V3F) : Statement (.vcmpOr f) := by intro sh h _; cases h; rfl
theorem vclass (f : V3F) : Statement (.vclass f) := by intro sh h _; cases h; rfl
theorem vrcp (f : V3F) : Statement (.vrcp f) := by intro sh h _; cases h; rfl
theorem vrsq (f : V3F) : Statement (.vrsq f) := by intro sh h _; cases h; rfl
theorem vsqrt (f : V3F) : Statement (.vsqrt f) := by intro sh h _; cases h; rfl
theorem vexp2 (f : V3F) : Statement (.vexp2 f) := by intro sh h _; cases h; rfl
theorem vlog2 (f : V3F) : Statement (.vlog2 f) := by intro sh h _; cases h; rfl
theorem vsin (f : V3F) : Statement (.vsin f) := by intro sh h _; cases h; rfl
theorem vcos (f : V3F) : Statement (.vcos f) := by intro sh h _; cases h; rfl
theorem vdiv (f : V3F) : Statement (.vdiv f) := by intro sh h _; cases h; rfl
theorem vtanh (f : V3F) : Statement (.vtanh f) := by intro sh h _; cases h; rfl
theorem cvt (f : V3F) : Statement (.cvt f) := by intro sh h _; cases h; rfl
theorem pack8 (f : V3F) : Statement (.pack8 f) := by intro sh h _; cases h; rfl
theorem unpk8 (f : V3F) : Statement (.unpk8 f) := by intro sh h _; cases h; rfl
theorem pack4 (f : V3F) : Statement (.pack4 f) := by intro sh h _; cases h; rfl
theorem unpk4 (f : V3F) : Statement (.unpk4 f) := by intro sh h _; cases h; rfl
theorem vdot4 (f : V3F) : Statement (.vdot4 f) := by intro sh h _; cases h; rfl
theorem vdot2 (f : V3F) : Statement (.vdot2 f) := by intro sh h _; cases h; rfl
theorem vidx (f : V3F) : Statement (.vidx f) := by intro sh h _; cases h; rfl
theorem vmad4 (f : V3F) (csel : BitVec 2) (vc : BitVec 10) : Statement (.vmad4 f csel vc) := by intro sh h _; cases h; rfl
theorem longImmediateForm (op : BitVec 7) (f : V3F) (imm : Word) : Statement (.longImmediateForm op f imm) := by
  intro sh h hl; cases h; have h : v3Rule op.toNat ≠ none := fun e => by simp [legal, longImmLegal, e] at hl
  obtain ⟨x, hx⟩ := Option.isSome_iff_exists.1 (v3_of_rule op.toNat f h)
  simp [Shape.instr, hx]
theorem shfl (f : XlF) : Statement (.shfl f) := by intro sh h _; cases h; rfl
theorem shflx (f : XlF) : Statement (.shflx f) := by intro sh h _; cases h; rfl
theorem shflup (f : XlF) : Statement (.shflup f) := by intro sh h _; cases h; rfl
theorem shfldn (f : XlF) : Statement (.shfldn f) := by intro sh h _; cases h; rfl
theorem bcst (f : XlF) : Statement (.bcst f) := by intro sh h _; cases h; rfl
theorem redadd (f : XlF) : Statement (.redadd f) := by intro sh h _; cases h; rfl
theorem redmin (f : XlF) : Statement (.redmin f) := by intro sh h _; cases h; rfl
theorem redmax (f : XlF) : Statement (.redmax f) := by intro sh h _; cases h; rfl
theorem redand (f : XlF) : Statement (.redand f) := by intro sh h _; cases h; rfl
theorem redor (f : XlF) : Statement (.redor f) := by intro sh h _; cases h; rfl
theorem redxor (f : XlF) : Statement (.redxor f) := by intro sh h _; cases h; rfl
theorem scan (f : XlF) : Statement (.scan f) := by intro sh h _; cases h; rfl
theorem scanx (f : XlF) : Statement (.scanx f) := by intro sh h _; cases h; rfl
theorem scanmax (f : XlF) : Statement (.scanmax f) := by intro sh h _; cases h; rfl
theorem vote (f : XlF) : Statement (.vote f) := by intro sh h _; cases h; rfl
theorem matchLanes (f : XlF) : Statement (.matchLanes f) := by intro sh h _; cases h; rfl
theorem ddx (f : XlF) : Statement (.ddx f) := by intro sh h _; cases h; rfl
theorem ddy (f : XlF) : Statement (.ddy f) := by intro sh h _; cases h; rfl
theorem smov (f : S3F) : Statement (.smov f) := by intro sh h _; cases h; rfl
theorem sadd (f : S3F) : Statement (.sadd f) := by intro sh h _; cases h; rfl
theorem ssub (f : S3F) : Statement (.ssub f) := by intro sh h _; cases h; rfl
theorem smul (f : S3F) : Statement (.smul f) := by intro sh h _; cases h; rfl
theorem smulh (f : S3F) : Statement (.smulh f) := by intro sh h _; cases h; rfl
theorem sdiv (f : S3F) : Statement (.sdiv f) := by intro sh h _; cases h; rfl
theorem srem (f : S3F) : Statement (.srem f) := by intro sh h _; cases h; rfl
theorem smin (f : S3F) : Statement (.smin f) := by intro sh h _; cases h; rfl
theorem smax (f : S3F) : Statement (.smax f) := by intro sh h _; cases h; rfl
theorem sand (f : S3F) : Statement (.sand f) := by intro sh h _; cases h; rfl
theorem sor (f : S3F) : Statement (.sor f) := by intro sh h _; cases h; rfl
theorem sxor (f : S3F) : Statement (.sxor f) := by intro sh h _; cases h; rfl
theorem sshl (f : S3F) : Statement (.sshl f) := by intro sh h _; cases h; rfl
theorem sshr (f : S3F) : Statement (.sshr f) := by intro sh h _; cases h; rfl
theorem ssar (f : S3F) : Statement (.ssar f) := by intro sh h _; cases h; rfl
theorem srot (f : S3F) : Statement (.srot f) := by intro sh h _; cases h; rfl
theorem sbfe (f : S3F) : Statement (.sbfe f) := by intro sh h _; cases h; rfl
theorem sbfi (f : S3F) : Statement (.sbfi f) := by intro sh h _; cases h; rfl
theorem spopc (f : S3F) : Statement (.spopc f) := by intro sh h _; cases h; rfl
theorem sclz (f : S3F) : Statement (.sclz f) := by intro sh h _; cases h; rfl
theorem sffs (f : S3F) : Statement (.sffs f) := by intro sh h _; cases h; rfl
theorem slea (f : S3F) : Statement (.slea f) := by intro sh h _; cases h; rfl
theorem ssetEq (f : S3F) : Statement (.ssetEq f) := by intro sh h _; cases h; rfl
theorem ssetNe (f : S3F) : Statement (.ssetNe f) := by intro sh h _; cases h; rfl
theorem ssetLt (f : S3F) : Statement (.ssetLt f) := by intro sh h _; cases h; rfl
theorem ssetLe (f : S3F) : Statement (.ssetLe f) := by intro sh h _; cases h; rfl
theorem ssetGt (f : S3F) : Statement (.ssetGt f) := by intro sh h _; cases h; rfl
theorem ssetGe (f : S3F) : Statement (.ssetGe f) := by intro sh h _; cases h; rfl
theorem ssetUo (f : S3F) : Statement (.ssetUo f) := by intro sh h _; cases h; rfl
theorem ssetOr (f : S3F) : Statement (.ssetOr f) := by intro sh h _; cases h; rfl
theorem mand (f : S3F) : Statement (.mand f) := by intro sh h _; cases h; rfl
theorem mor (f : S3F) : Statement (.mor f) := by intro sh h _; cases h; rfl
theorem mxor (f : S3F) : Statement (.mxor f) := by intro sh h _; cases h; rfl
theorem mandn (f : S3F) : Statement (.mandn f) := by intro sh h _; cases h; rfl
theorem mnot (f : S3F) : Statement (.mnot f) := by intro sh h _; cases h; rfl
theorem mcnt (f : S3F) : Statement (.mcnt f) := by intro sh h _; cases h; rfl
theorem mfirst (f : S3F) : Statement (.mfirst f) := by intro sh h _; cases h; rfl
theorem mlive (f : S3F) : Statement (.mlive f) := by intro sh h _; cases h; rfl
theorem mexec (f : S3F) : Statement (.mexec f) := by intro sh h _; cases h; rfl
theorem msetx (f : S3F) : Statement (.msetx f) := by intro sh h _; cases h; rfl
theorem sgetr (f : S3F) : Statement (.sgetr f) := by intro sh h _; cases h; rfl
theorem ssetr (f : S3F) : Statement (.ssetr f) := by intro sh h _; cases h; rfl
theorem smode (f : S3F) : Statement (.smode f) := by intro sh h _; cases h; rfl
theorem bra (f : SbF) : Statement (.bra f) := by intro sh h _; cases h; rfl
theorem brd (f : SbF) : Statement (.brd f) := by intro sh h _; cases h; rfl
theorem brx (f : SbF) : Statement (.brx f) := by intro sh h _; cases h; rfl
theorem call (f : SbF) : Statement (.call f) := by intro sh h _; cases h; rfl
theorem ret (f : SbF) : Statement (.ret f) := by intro sh h _; cases h; rfl
theorem exitLanes (f : SbF) : Statement (.exitLanes f) := by intro sh h _; cases h; rfl
theorem trapInstr (f : SbF) : Statement (.trapInstr f) := by intro sh h _; cases h; rfl
theorem tret (f : SbF) : Statement (.tret f) := by intro sh h _; cases h; rfl
theorem brk (f : SbF) : Statement (.brk f) := by intro sh h _; cases h; rfl
theorem skip (f : SbF) : Statement (.skip f) := by intro sh h _; cases h; rfl
theorem joinInstr (f : SbF) : Statement (.joinInstr f) := by intro sh h _; cases h; rfl
theorem nop (f : SbF) : Statement (.nop f) := by intro sh h _; cases h; rfl
theorem sld (f : SmF) : Statement (.sld f) := by intro sh h _; cases h; rfl
theorem sst (f : SmF) : Statement (.sst f) := by intro sh h _; cases h; rfl
theorem sldl (f : SmF) : Statement (.sldl f) := by intro sh h _; cases h; rfl
theorem satom (f : SmF) : Statement (.satom f) := by intro sh h _; cases h; rfl
theorem spref (f : SmF) : Statement (.spref f) := by intro sh h _; cases h; rfl
theorem ld (f : VmF) : Statement (.ld f) := by intro sh h _; cases h; rfl
theorem st (f : VmF) : Statement (.st f) := by intro sh h _; cases h; rfl
theorem stn4 (f : VmF) : Statement (.stn4 f) := by intro sh h _; cases h; rfl
theorem ldw (f : VmF) : Statement (.ldw f) := by intro sh h _; cases h; rfl
theorem stw (f : VmF) : Statement (.stw f) := by intro sh h _; cases h; rfl
theorem atomAdd (f : VmF) : Statement (.atomAdd f) := by intro sh h _; cases h; rfl
theorem atomFadd (f : VmF) : Statement (.atomFadd f) := by intro sh h _; cases h; rfl
theorem atomMin (f : VmF) : Statement (.atomMin f) := by intro sh h _; cases h; rfl
theorem atomMax (f : VmF) : Statement (.atomMax f) := by intro sh h _; cases h; rfl
theorem atomAnd (f : VmF) : Statement (.atomAnd f) := by intro sh h _; cases h; rfl
theorem atomOr (f : VmF) : Statement (.atomOr f) := by intro sh h _; cases h; rfl
theorem atomXor (f : VmF) : Statement (.atomXor f) := by intro sh h _; cases h; rfl
theorem atomExch (f : VmF) : Statement (.atomExch f) := by intro sh h _; cases h; rfl
theorem atomCas (f : VmF) : Statement (.atomCas f) := by intro sh h _; cases h; rfl
theorem atomInc (f : VmF) : Statement (.atomInc f) := by intro sh h _; cases h; rfl
theorem atomDec (f : VmF) : Statement (.atomDec f) := by intro sh h _; cases h; rfl
theorem atomFaddbf (f : VmF) : Statement (.atomFaddbf f) := by intro sh h _; cases h; rfl
theorem pref (f : VmF) : Statement (.pref f) := by intro sh h _; cases h; rfl
theorem clean (f : VmF) : Statement (.clean f) := by intro sh h _; cases h; rfl
theorem drop (f : VmF) : Statement (.drop f) := by intro sh h _; cases h; rfl
theorem bar (f : SyF) : Statement (.bar f) := by intro sh h _; cases h; rfl
theorem barc (f : SyF) : Statement (.barc f) := by intro sh h _; cases h; rfl
theorem bard (f : SyF) : Statement (.bard f) := by intro sh h _; cases h; rfl
theorem waitc (f : SyF) : Statement (.waitc f) := by intro sh h _; cases h; rfl
theorem waitb (f : SyF) : Statement (.waitb f) := by intro sh h _; cases h; rfl
theorem acq (f : SyF) : Statement (.acq f) := by intro sh h _; cases h; rfl
theorem rel (f : SyF) : Statement (.rel f) := by intro sh h _; cases h; rfl
theorem bindRegion (f : SyF) : Statement (.bindRegion f) := by intro sh h _; cases h; rfl
theorem unbindRegion (f : SyF) : Statement (.unbindRegion f) := by intro sh h _; cases h; rfl
theorem fence (f : SyF) : Statement (.fence f) := by intro sh h _; cases h; rfl
theorem nap (f : SyF) : Statement (.nap f) := by intro sh h _; cases h; rfl
theorem yield (f : SyF) : Statement (.yield f) := by intro sh h _; cases h; rfl
theorem arrb (f : SyF) : Statement (.arrb f) := by intro sh h _; cases h; rfl
theorem mloadw (f : EnF) : Statement (.mloadw f) := by intro sh h _; cases h; rfl
theorem mflip (f : EnF) : Statement (.mflip f) := by intro sh h _; cases h; rfl
theorem mstream (f : EnF) : Statement (.mstream f) := by intro sh h _; cases h; rfl
theorem mnest (f : EnF) : Statement (.mnest f) := by intro sh h _; cases h; rfl
theorem mdrain (f : EnF) : Statement (.mdrain f) := by intro sh h _; cases h; rfl
theorem mzero (f : EnF) : Statement (.mzero f) := by intro sh h _; cases h; rfl
theorem cpy (f : EnF) : Statement (.cpy f) := by intro sh h _; cases h; rfl
theorem gath (f : EnF) : Statement (.gath f) := by intro sh h _; cases h; rfl
theorem coll (f : EnF) : Statement (.coll f) := by intro sh h _; cases h; rfl
theorem splitWarp (f : WqF) : Statement (.splitWarp f) := by intro sh h _; cases h; rfl
theorem fuseWarp (f : WqF) : Statement (.fuseWarp f) := by intro sh h _; cases h; rfl
theorem penq (f : WqF) : Statement (.penq f) := by
  intro sh h hl; cases h; simp only [Shape.instr, wqInstr, bit_of_masked _ _ 5 (wq_imm hl) rfl]; rfl
theorem penqW (f : WqF) : Statement (.penqW f) := by
  intro sh h hl; cases h; simp only [legal, Bool.and_eq_true] at hl; simp only [Shape.instr, wqInstr, hl.1.2]; rfl
theorem plift (f : WqF) : Statement (.plift f) := by intro sh h _; cases h; rfl
theorem launchInstr (f : WqF) : Statement (.launchInstr f) := by intro sh h _; cases h; rfl
theorem nextIter (f : WqF) : Statement (.nextIter f) := by intro sh h _; cases h; rfl
theorem dqpush (f : WqF) : Statement (.dqpush f) := by intro sh h _; cases h; rfl
theorem dqpop (f : WqF) : Statement (.dqpop f) := by intro sh h _; cases h; rfl
theorem dqsteal (f : WqF) : Statement (.dqsteal f) := by intro sh h _; cases h; rfl
theorem qpush (f : WqF) : Statement (.qpush f) := by intro sh h _; cases h; rfl
theorem qpop (f : WqF) : Statement (.qpop f) := by intro sh h _; cases h; rfl
theorem gsigReplay (f : WqF) : Statement (.gsigReplay f) := by
  intro sh h hl; cases h; simp only [Shape.instr, wqInstr, bit_of_masked _ _ 0 (wq_imm hl) rfl]; rfl
theorem gsigDone (f : WqF) : Statement (.gsigDone f) := by
  intro sh h hl; cases h; simp only [legal, Bool.and_eq_true] at hl; simp only [Shape.instr, wqInstr, hl.2]; rfl
theorem tex (f : GxF) : Statement (.tex f) := by intro sh h _; cases h; rfl
theorem texf (f : GxF) : Statement (.texf f) := by intro sh h _; cases h; rfl
theorem trav (f : GxF) : Statement (.trav f) := by intro sh h _; cases h; rfl
theorem emit (f : GxF) : Statement (.emit f) := by intro sh h _; cases h; rfl
theorem kill (f : GxF) : Statement (.kill f) := by intro sh h _; cases h; rfl
theorem visr (f : GxF) : Statement (.visr f) := by intro sh h _; cases h; rfl
theorem memoryAccessCompletion (uid : Nat) (parts : List Nat) : Statement (.memoryAccessCompletion uid parts) := by intro sh h; cases h
theorem pageWalkComplete (die k : Nat) : Statement (.pageWalkComplete die k) := by intro sh h; cases h
theorem shootdownComplete : Statement (.shootdownComplete) := by intro sh h; cases h
theorem readshared (k : Nat) : Statement (.readshared k) := by intro sh h; cases h
theorem readown (k : Nat) : Statement (.readown k) := by intro sh h; cases h
theorem upgrade (k : Nat) : Statement (.upgrade k) := by intro sh h; cases h
theorem writeback (k : Nat) : Statement (.writeback k) := by intro sh h; cases h
theorem atomicMsg (k : Nat) : Statement (.atomicMsg k) := by intro sh h; cases h
theorem readnc (k : Nat) : Statement (.readnc k) := by intro sh h; cases h
theorem writenc (k : Nat) : Statement (.writenc k) := by intro sh h; cases h
theorem snpshared (k : Nat) : Statement (.snpshared k) := by intro sh h; cases h
theorem snpinv (k : Nat) : Statement (.snpinv k) := by intro sh h; cases h
theorem backinv (k : Nat) : Statement (.backinv k) := by intro sh h; cases h
theorem dataMsg (k : Nat) : Statement (.dataMsg k) := by intro sh h; cases h
theorem datafwd (k : Nat) : Statement (.datafwd k) := by intro sh h; cases h
theorem ackMsg (k : Nat) : Statement (.ackMsg k) := by intro sh h; cases h
theorem homeoffline (k : Nat) : Statement (.homeoffline k) := by intro sh h; cases h
theorem launchfwd (k : Nat) : Statement (.launchfwd k) := by intro sh h; cases h
theorem batchreq (k : Nat) : Statement (.batchreq k) := by intro sh h; cases h
theorem batchgrant (k : Nat) : Statement (.batchgrant k) := by intro sh h; cases h
theorem batchmirror (k : Nat) : Statement (.batchmirror k) := by intro sh h; cases h
theorem batchdone (k : Nat) : Statement (.batchdone k) := by intro sh h; cases h
theorem pantryenq (k : Nat) : Statement (.pantryenq k) := by intro sh h; cases h
theorem pantrycode (k : Nat) : Statement (.pantrycode k) := by intro sh h; cases h
theorem graphdone (k : Nat) : Statement (.graphdone k) := by intro sh h; cases h
theorem latchwake (k : Nat) : Statement (.latchwake k) := by intro sh h; cases h
theorem acqRereadTimeout (warp : Nat) (pc : Dword) : Statement (.acqRereadTimeout warp pc) := by intro sh h; cases h
theorem workgroupPlacement (die : Nat) : Statement (.workgroupPlacement die) := by intro sh h; cases h
theorem carveoutGrow (core : Nat) : Statement (.carveoutGrow core) := by intro sh h; cases h
theorem carveoutShrink (core : Nat) : Statement (.carveoutShrink core) := by intro sh h; cases h
theorem preemption (die : Nat) : Statement (.preemption die) := by intro sh h; cases h
theorem workgroupRestore (die : Nat) : Statement (.workgroupRestore die) := by intro sh h; cases h
theorem launchCompletion (uid : Nat) : Statement (.launchCompletion uid) := by intro sh h; cases h
theorem napExpiry (warp : Nat) : Statement (.napExpiry warp) := by intro sh h; cases h
theorem splitChildReady (warp : Nat) : Statement (.splitChildReady warp) := by intro sh h; cases h
theorem fuseRendezvous (warp : Nat) : Statement (.fuseRendezvous warp) := by intro sh h; cases h
theorem heldTrapDelivery (warp : Nat) : Statement (.heldTrapDelivery warp) := by intro sh h; cases h
theorem engineJobStart (job : Nat) : Statement (.engineJobStart job) := by intro sh h; cases h
theorem engineChunk (job : Nat) : Statement (.engineChunk job) := by intro sh h; cases h
theorem engineJobComplete (job : Nat) : Statement (.engineJobComplete job) := by intro sh h; cases h
theorem mnestStep (job : Nat) : Statement (.mnestStep job) := by intro sh h; cases h
theorem recordSealAge (die k : Nat) : Statement (.recordSealAge die k) := by intro sh h; cases h
theorem recordDispatch (die : Nat) : Statement (.recordDispatch die) := by intro sh h; cases h
theorem skimJob (die : Nat) : Statement (.skimJob die) := by intro sh h; cases h
theorem depthRasterJob (die : Nat) : Statement (.depthRasterJob die) := by intro sh h; cases h
theorem rasterRecord (die : Nat) : Statement (.rasterRecord die) := by intro sh h; cases h
theorem visibilityWaveJob (die : Nat) : Statement (.visibilityWaveJob die) := by intro sh h; cases h
theorem forwardRasterJob (die : Nat) : Statement (.forwardRasterJob die) := by intro sh h; cases h
theorem frameJobCompletion (die : Nat) : Statement (.frameJobCompletion die) := by intro sh h; cases h
theorem blendWrite (die q : Nat) : Statement (.blendWrite die q) := by intro sh h; cases h
theorem graphRunStart (k : Nat) : Statement (.graphRunStart k) := by intro sh h; cases h
theorem graphNodeRelease (k node : Nat) : Statement (.graphNodeRelease k node) := by intro sh h; cases h
theorem faultQueueMsiRepeat (die slot : Nat) : Statement (.faultQueueMsiRepeat die slot) := by intro sh h; cases h
theorem fqheadWrite (die slot : Nat) (v : Dword) : Statement (.fqheadWrite die slot v) := by intro sh h; cases h
theorem fqcmdReplayOne (die : Nat) (v : BitVec 62) : Statement (.fqcmdReplayOne die v) := by intro sh h; cases h
theorem fqcmdRejectOne (die : Nat) (v : BitVec 62) : Statement (.fqcmdRejectOne die v) := by intro sh h; cases h
theorem fqcmdReplayAsid (die : Nat) (v : BitVec 62) : Statement (.fqcmdReplayAsid die v) := by intro sh h; cases h
theorem fqcmdRejectAsid (die : Nat) (v : BitVec 62) : Statement (.fqcmdRejectAsid die v) := by intro sh h; cases h
theorem invcmdAll (die : Nat) (v : BitVec 62) : Statement (.invcmdAll die v) := by intro sh h; cases h
theorem invcmdAsid (die : Nat) (v : BitVec 62) : Statement (.invcmdAsid die v) := by intro sh h; cases h
theorem invcmdPageAsid (die : Nat) (v : BitVec 62) : Statement (.invcmdPageAsid die v) := by intro sh h; cases h
theorem invcmdPageAll (die : Nat) (v : BitVec 62) : Statement (.invcmdPageAll die v) := by intro sh h; cases h
theorem homeOfflineTimeout (r : Requester) : Statement (.homeOfflineTimeout r) := by intro sh h; cases h
theorem cellarMissSchedule (die grp : Nat) : Statement (.cellarMissSchedule die grp) := by intro sh h; cases h
theorem machineCheck (cause : Byte) (die : Nat) (pa : BitVec 48) : Statement (.machineCheck cause die pa) := by intro sh h; cases h
theorem frameedge (e : EdgeMsg) : Statement (.frameedge e) := by intro sh h; cases h
theorem powerstep (die : Nat) : Statement (.powerstep die) := by intro sh h; cases h
theorem errornote (k : Nat) : Statement (.errornote k) := by intro sh h; cases h
theorem urgencyChange (k : Nat) : Statement (.urgencyChange k) := by intro sh h; cases h
theorem urgencyRaise (die : Nat) : Statement (.urgencyRaise die) := by intro sh h; cases h
theorem urgencyLower (die : Nat) : Statement (.urgencyLower die) := by intro sh h; cases h
theorem fifoFillSample (die : Nat) : Statement (.fifoFillSample die) := by intro sh h; cases h
theorem launchSubmission (die : Nat) (off : Nat) (data : List Byte) : Statement (.launchSubmission die off data) := by intro sh h; cases h
theorem placementBlockTimeout (die : Nat) : Statement (.placementBlockTimeout die) := by intro sh h; cases h
theorem pathTimesliceExpiry (warp : Nat) : Statement (.pathTimesliceExpiry warp) := by intro sh h; cases h
theorem workgroupWatchdog (wg : Nat) : Statement (.workgroupWatchdog wg) := by intro sh h; cases h
theorem collPortTimeout (port : Nat) : Statement (.collPortTimeout port) := by intro sh h; cases h
theorem pantryClassDescriptorWrite (die c word : Nat) (v : Dword) : Statement (.pantryClassDescriptorWrite die c word v) := by intro sh h; cases h
theorem frameJobSubmission (die : Nat) (off : Nat) (data : List Byte) : Statement (.frameJobSubmission die off data) := by intro sh h; cases h
theorem graphReplayPort (die slot : Nat) (v : Dword) : Statement (.graphReplayPort die slot v) := by intro sh h; cases h
theorem graphDeadlineSlip (k node : Nat) : Statement (.graphDeadlineSlip k node) := by intro sh h; cases h
theorem frameEdgeGenerate : Statement (.frameEdgeGenerate) := by intro sh h; cases h
theorem frameEdgeFire (die : Nat) : Statement (.frameEdgeFire die) := by intro sh h; cases h
theorem frameEdgeTimer : Statement (.frameEdgeTimer) := by intro sh h; cases h
theorem frameEdgeMissed : Statement (.frameEdgeMissed) := by intro sh h; cases h
theorem flcfgWrite (die : Nat) (v : Dword) : Statement (.flcfgWrite die v) := by intro sh h; cases h
theorem fladmitWrite (die : Nat) (v : Dword) : Statement (.fladmitWrite die v) := by intro sh h; cases h
theorem displayHeadCheck (die : Nat) : Statement (.displayHeadCheck die) := by intro sh h; cases h
theorem vblankPresent (die : Nat) : Statement (.vblankPresent die) := by intro sh h; cases h
theorem headEnable (die : Nat) (v : Dword) : Statement (.headEnable die v) := by intro sh h; cases h
theorem powerStepDown (watts10 : Nat) : Statement (.powerStepDown watts10) := by intro sh h; cases h
theorem powerStepUp (watts100 : Nat) : Statement (.powerStepUp watts100) := by intro sh h; cases h
theorem linkLost (a b : Nat) : Statement (.linkLost a b) := by intro sh h; cases h
theorem warmReset (die : Nat) (v : WarmCmd) : Statement (.warmReset die v) := by intro sh h; cases h
theorem warmResetKill (die : Nat) (v : WarmCmd) : Statement (.warmResetKill die v) := by intro sh h; cases h
theorem warmResetWipe (die : Nat) (v : WarmCmd) : Statement (.warmResetWipe die v) := by intro sh h; cases h
theorem wdogWrite (die : Nat) (v : Dword) : Statement (.wdogWrite die v) := by intro sh h; cases h
theorem clscfgWrite (die c : Nat) (v : Dword) : Statement (.clscfgWrite die c v) := by intro sh h; cases h
theorem monctlSnap (die : Nat) (v : Dword) : Statement (.monctlSnap die v) := by intro sh h; cases h
theorem monctlClear (die : Nat) (v : Dword) : Statement (.monctlClear die v) := by intro sh h; cases h
theorem steerWrite (die w : Nat) (v : Dword) : Statement (.steerWrite die w v) := by intro sh h; cases h
theorem attreqWrite (die : Nat) (v : Dword) : Statement (.attreqWrite die v) := by intro sh h; cases h
theorem lifeCycleTransition (cmd : List Byte) : Statement (.lifeCycleTransition cmd) := by intro sh h; cases h
theorem firmwareImageWrite (die : Nat) (image : List Byte) : Statement (.firmwareImageWrite die image) := by intro sh h; cases h
theorem powerOnBoot (b : BootSetup) (image : List Byte) : Statement (.powerOnBoot b image) := by intro sh h; cases h
theorem registerWrite (die off : Nat) (v : Dword) : Statement (.registerWrite die off v) := by intro sh h; cases h
theorem moduleReset (b : BootSetup) : Statement (.moduleReset b) := by intro sh h; cases h
theorem hostCoreAccess (a : HostAccess) : Statement (.hostCoreAccess a) := by intro sh h; cases h
theorem activeScanOut (die : Nat) : Statement (.activeScanOut die) := by intro sh h; cases h

end Sys2Proof.Laws.OpcodeBack
end

