-- ==== Sys2Proof/Tests/Slice0.lean ====
section
/-! SUPPORT. The model's own tests: words of the spec's encoding tables, terms that WellFormed refuses, single steps whose result the
spec gives, and for the statements concrete states and operands that meet their hypotheses. -/

namespace Sys2Proof.Tests

open Sys2Proof Sys2Proof.Machine

set_option Elab.async false

/-! Words: the encoding examples of spec 08 to 15 and 18 to 22. -/

def dec (w : Nat) : Option Instr := decodeTableWord 64 w

theorem test_words_v3 :
    dec 0x008A1C0400C05020 = some (.vadd { noV3 with gs := 8, gen := true, ty := 2, rnd := 1, bsel := 3, vb := 4, va := 3, vd := 5 }) ∧
    dec 0x000210060100A060 = some (.vmad { noV3 with ty := 2, rnd := 1, vb := 6, va := 4, vd := 10 }) ∧
    dec 0x0000800300C0C400 = some (.cvt { noV3 with sat := true, vb := 3, va := 3, vd := 12 }) ∧
    dec 0x0000080500000500 = some (.vidx { noV3 with bsel := 2, vb := 5 }) ∧
    dec 0x0000080001410240 = some (.vcmpGt { noV3 with bsel := 2, va := 5, vd := 16 }) ∧
    dec 0x0001041400018220 = some (.vcmpLt { noV3 with ty := 1, bsel := 1, vb := 20, vd := 24 }) ∧
    dec 0x0000000300818220 = some (.vcmpLt { noV3 with vb := 3, va := 2, vd := 24 }) := by decide +kernel

theorem test_words_long :
    decodeTableWord 128 (0x000200020040801F + 2 ^ 64 * 0x405) = some (.vmad4 { noV3 with ty := 2, vb := 2, va := 1, vd := 8 } 1 5) ∧
    decodeTableWord 128 (0x0000000001C0782F + 2 ^ 64 * 0x186A0) = some (.longImmediateForm 0x02 { noV3 with va := 7, vd := 7 } 100000) ∧
    decodeTableWord 128 (0x000000000000181F + 2 ^ 64 * 0x866) = some (.longImmediateForm 0x01 { noV3 with vd := 1 } 0x866) := by
  decide +kernel

theorem test_words_xl :
    dec 0x0002300300014081 = some (.redadd { noXl with ty := 2, g := 3, vb := 3, vd := 20 }) ∧
    dec 0x2000700500008181 = some (.vote { noXl with tos := true, g := 7, vb := 5, vd := 8 }) ∧
    dec 0x2001700A00014091 = some (.redmin { noXl with tos := true, ty := 1, g := 7, vb := 10, vd := 20 }) ∧
    dec 0x000270030000A201 = some (.ddx { noXl with ty := 2, g := 7, vb := 3, vd := 10 }) ∧
    dec 0x0000700600007111 = some (.scanx { noXl with g := 7, vb := 6, vd := 7 }) ∧
    dec 0x0000741000803051 = some (.bcst { noXl with g := 7, bsel := 1, vb := 16, va := 2, vd := 3 }) := by decide +kernel

theorem test_words_s3 :
    dec 0x1FFFFFFF90305022 = some (.sadd { noS3 with imm := 0xFFFFFFFC, isimm := true, sa := 3, sd := 5 }) ∧
    dec 0x6000006101414162 = some (.slea { noS3 with ty := 3, imm := 0x308, sa := 20, sd := 20 }) ∧
    dec 0x00000000F000C382 = some (.sgetr { noS3 with imm := 7, isimm := true, sd := 12 }) ∧
    dec 0x00000000800092D2 = some (.mcnt { noS3 with imm := 4, sd := 9 }) ∧
    dec 0x2000010111314112 = some (.sbfe { noS3 with ty := 1, imm := 0x808, isimm := true, sa := 19, sd := 20 }) ∧
    dec 0x0000000440000312 = some (.msetx { noS3 with imm := 34 }) ∧
    dec 0x0000000301C202B2 = some (.mandn { noS3 with imm := 24, sa := 28, sd := 32 }) := by decide +kernel

theorem test_words_sb :
    dec 0xFFFFFFC030702013 = some (.bra { noSb with off := 0xFFFFFFC0, cond := 3, sb := 7, sa := 2 }) ∧
    dec 0x00000000000060B3 = some (.joinInstr { noSb with sa := 6 }) ∧
    dec 0x0000000090004063 = some (.exitLanes { noSb with cond := 9, sa := 4 }) ∧
    dec 0x00000010000000A3 = some (.skip { noSb with off := 0x10 }) ∧
    dec 0x00000000000003F3 = some (.nop noSb) ∧
    dec 0x000000A8B0010013 = some (.bra { noSb with off := 0xA8, cond := 11, sa := 16 }) := by decide +kernel

theorem test_words_sm :
    dec 0x0000010220208014 = some (.sld { noSm with off := 0x40, scope := 4, size := 2, sbase := 2, sd := 8 }) ∧
    dec 0x000004001000A034 = some (.sldl { noSm with off := 0x100, size := 1, sd := 10 }) ∧
    dec 0x0000040200209044 = some (.satom { noSm with off := 0x100, scope := 4, sbase := 2, sd := 9 }) ∧
    dec 0x0000004201813024 = some (.sst { noSm with off := 16, scope := 4, sbase := 24, sd := 19 }) := by decide +kernel

theorem test_words_vm :
    dec 0x0000020400808015 = some (.ld { noVm with size := 2, sbase := 4, voff := 2, vdata := 8 }) ∧
    dec 0x0028830600C0A025 =
      some (.st { noVm with gs := 2, gen := true, scope := 4, size := 3, sbase := 6, voff := 3, vdata := 10 }) ∧
    dec 0x00000D080100C035 = some (.stn4 { noVm with space := 1, size := 5, sbase := 8, voff := 4, vdata := 12 }) ∧
    dec 0x0003020400810045 = some (.ldw { noVm with cnt := 3, size := 2, sbase := 4, voff := 2, vdata := 16 }) ∧
    dec 0x0000820400806105 = some (.atomAdd { noVm with scope := 4, size := 2, sbase := 4, voff := 2, vdata := 6 }) ∧
    dec 0x0000820400806185 = some (.atomCas { noVm with scope := 4, size := 2, sbase := 4, voff := 2, vdata := 6 }) := by decide +kernel

theorem test_words_sy :
    dec 0x0000000000000016 = some (.bar noSy) ∧ dec 0x0000000000000026 = some (.barc noSy) ∧
    dec 0x0000000000000036 = some (.bard noSy) ∧ dec 0x0000000000000046 = some (.waitc noSy) ∧
    dec 0x0000105000000046 = some (.waitc { noSy with imm := 2, kind := 5 }) ∧
    dec 0x00000C400000A066 = some (.acq { noSy with imm := 1, scope := 4, kind := 4, sa := 10 }) ∧
    dec 0x00000C400000A076 = some (.rel { noSy with imm := 1, scope := 4, kind := 4, sa := 10 }) ∧
    dec 0x00000410000000A6 = some (.fence { noSy with scope := 4, kind := 1 }) ∧
    dec 0x0001440181614086 = some (.bindRegion { noSy with imm := 40, scope := 4, sc := 24, sb := 22, sa := 20 }) ∧
    dec 0x000008400000C0D6 = some (.arrb { noSy with imm := 1, kind := 4, sa := 12 }) ∧
    dec 0x000000400000C056 = some (.waitb { noSy with kind := 4, sa := 12 }) := by decide +kernel

theorem test_words_en :
    dec 0x00007FFF80208017 = some (.mloadw { noEn with vf := 2, sc := 8 }) ∧ dec 0x00007FFF80000027 = some (.mflip noEn) ∧
    dec 0x00007FFF8020C037 = some (.mstream { noEn with vf := 2, sc := 12 }) ∧
    dec 0x0000888900210047 = some (.mnest { noEn with imm := 1, sx := 17, sl := 18, vf := 2, sc := 16 }) ∧
    dec 0x80007FFFC0218057 = some (.mdrain { noEn with imm := 0x10000, cs := true, vf := 2, sc := 24 }) ∧
    dec 0x00007FFF8001E067 = some (.mzero { noEn with sc := 30 }) ∧
    dec 0x0000FF8B40014087 = some (.cpy { noEn with imm := 1, sl := 22, cs := true, sc := 20 }) := by decide +kernel

theorem test_words_wq :
    dec 0x0809000000000018 = some (.splitWarp { noWq with imm := 8, sD := 9 }) ∧
    dec 0x0109000000060028 = some (.fuseWarp { noWq with imm := 1, sD := 9, va := 0x60 }) ∧
    dec 0x0000000A01804048 = some (.penq { noWq with sA := 10, vb := 6, va := 4 }) ∧
    dec 0x1300000A01804048 = some (.penq { noWq with imm := 0x13, sA := 10, vb := 6, va := 4 }) ∧
    dec 0x0002400A00000068 = some (.plift { noWq with sD := 2, sB := 64, sA := 10 }) ∧
    dec 0x0109100000000078 = some (.launchInstr { noWq with imm := 1, sD := 9, sB := 16 }) ∧
    dec 0x0005000000000088 = some (.nextIter { noWq with sD := 5 }) ∧
    dec 0x00032000000000A8 = some (.dqpop { noWq with sD := 3, sB := 32 }) ∧
    dec 0x0004000C050080C8 = some (.qpush { noWq with sD := 4, sA := 12, vb := 20, va := 8 }) ∧
    dec 0x0007000C000000E8 = some (.gsigReplay { noWq with sD := 7, sA := 12 }) ∧
    dec 0x0128211C000000E8 = some (.gsigDone { noWq with imm := 1, sD := 40, sB := 33, sA := 28 }) := by decide +kernel

theorem test_words_gx :
    dec 0x0000001000808019 = some (.tex { noGx with sdesc := 16, va := 2, vd := 8 }) ∧
    dec 0x200000140400C039 = some (.trav { noGx with flags := 1, sdesc := 20, va := 16, vd := 12 }) ∧
    dec 0x0001001801000049 = some (.emit { noGx with mode := 1, sdesc := 24, va := 4 }) ∧
    dec 0x0068000000000059 = some (.kill { noGx with gs := 6, gen := true }) ∧
    dec 0x0001001000002079 = some (.visr { noGx with mode := 1, sdesc := 16, vd := 2 }) := by decide +kernel

/-- The words that spec 08 and 15 name as refused. -/
theorem test_words_refused :
    dec 0 = none ∧ dec 0x008F1C0400C05020 = none ∧ dec 0x186A0 = none ∧ dec 0x0003001000808019 = none ∧
    dec 0x0001001000808029 = none ∧ dec 0x0001001801000049 ≠ none ∧ dec 0x0001001801008049 = none ∧
    dec 0x0068000200000059 = none ∧ dec 0x00022003 = none ∧ dec 0x0002200300000A201 = none ∧ dec 0x0000000000000069 = none ∧
    dec 0xA = none ∧ dec 0x2F = none := by decide +kernel

/-! WellFormed: a term that each check refuses. -/

theorem test_wf_types : (Instr.vadd { noV3 with ty := 7 }).wf = false ∧ (Instr.vmulh { noV3 with ty := 2 }).wf = false ∧
    (Instr.sadd { noS3 with ty := 5 }).wf = false ∧ (Instr.ssetUo noS3).wf = false := by decide
theorem test_wf_guard : (Instr.vadd { noV3 with gs := 1 }).wf = false ∧ (Instr.vadd { noV3 with ginv := true }).wf = false ∧
    (Instr.vsel noV3).wf = false ∧ (Instr.tex { noGx with gs := 3 }).wf = false := by decide
theorem test_wf_rounding : (Instr.vadd { noV3 with rnd := 1 }).wf = false ∧ (Instr.vadd { noV3 with ty := 2, rnd := 7 }).wf = false ∧
    (Instr.vmov { noV3 with sat := true }).wf = false ∧ (Instr.vmov { noV3 with na := true }).wf = false := by decide
theorem test_wf_unread : (Instr.vmov { noV3 with va := 1 }).wf = false ∧ (Instr.smov { noS3 with sa := 1 }).wf = false ∧
    (Instr.nop { noSb with sa := 1 }).wf = false ∧ (Instr.bra { noSb with sa := 1 }).wf = false ∧
    (Instr.bra { noSb with cond := 13 }).wf = false ∧ (Instr.fence { noSy with scope := 4, kind := 3 }).wf = false ∧
    (Instr.fence { noSy with kind := 1 }).wf = false ∧ (Instr.dqpop { noWq with imm := 1 }).wf = false ∧
    (Instr.mflip { noEn with sc := 1 }).wf = false ∧ (Instr.emit { noGx with mode := 3 }).wf = false := by decide
theorem test_wf_bsel : (Instr.vadd { noV3 with bsel := 1, vb := 256 }).wf = false ∧
    (Instr.vmad4 noV3 2 0).wf = false ∧ (Instr.vmad4 noV3 1 256).wf = false ∧
    (Instr.longImmediateForm 0x6A noV3 0).wf = false ∧ (Instr.longImmediateForm 0x02 { noV3 with bsel := 1 } 0).wf = false := by decide
theorem test_wf_tos : (Instr.shfl { noXl with g := 7, tos := true }).wf = false ∧ (Instr.ddx { noXl with ty := 2, g := 2 }).wf = false ∧
    (Instr.redand { noXl with ty := 2 }).wf = false := by decide
theorem test_wf_memory : (Instr.ld { noVm with size := 6 }).wf = false ∧ (Instr.atomInc { noVm with size := 3 }).wf = false ∧
    (Instr.atomAdd { noVm with size := 2, hint := 1 }).wf = false ∧ (Instr.sld { noSm with off := 2 ^ 29, scope := 6 }).wf = false ∧
    (Instr.stn4 { noVm with size := 2 }).wf = false ∧ (Instr.fuseWarp { noWq with va := 1 }).wf = false := by decide
theorem test_wf_events : (Instr.skimJob 9).wf = false ∧ (Instr.carveoutGrow 864).wf = false ∧ (Instr.linkLost 0 9).wf = false ∧
    (Instr.registerWrite 9 0 0).wf = false := by decide


theorem witness_DecodeOfEncode : (Instr.sadd { noS3 with imm := 0xFFFFFFFC, isimm := true, sa := 3, sd := 5 }).wf = true ∧
    HasWord (.sadd { noS3 with imm := 0xFFFFFFFC, isimm := true, sa := 3, sd := 5 }) ∧ (Instr.vmad4 { noV3 with ty := 2, vb := 2, va := 1, vd := 8 } 1 5).wf = true :=
  ⟨by decide, by unfold HasWord; decide, by decide⟩
theorem witness_DecodeIsExact : decode (leBytes 8 0x1FFFFFFF90305022) = .ok (.sadd { noS3 with imm := 0xFFFFFFFC, isimm := true, sa := 3, sd := 5 }, []) := by
  rfl
/-! A small machine: one warp of width 8, number 3, of workgroup 2 of launch 1, at 0x10000 on core 0. Its image has a trap vector. -/

def w0 : Warp := Warp.create 2 8 0 0 0 0 0 [0] 0x10000 0 1 0
def g0 : Workgroup := { fetchWg 1 with alloc := 4096 }
def mk (w : Warp) (g : Workgroup) : State :=
  { State.reset with
    cur := some 3, nextUid := 10, warps := [(3, w)], wgs := [(2, g)], launches := [(1, fetchLaunch)]
    mdl := { State.reset.mdl with root := true } }
def th (w : Warp) (g : Workgroup) : Thread := ⟨mk w g, 3, w, g⟩
def h0 : Warp := { w0 with handler := true, trapExec := 0xFF }

/-- The small machine meets what an instruction needs to run, for the operands that its registers hold. -/
theorem ready {w : Warp} {g : Workgroup} {i : Instr} {ops : List Opd} (h1 : w.wg = 2) (h0 : w.running = true) (h2 : w.block = none) (h3 : i.wf = true)
    (h4 : (th w g).operandsOk ops = true) : Ready (mk w g) (th w g) i ops true := by
  refine ⟨⟨?_, h2⟩, h3, h4, rfl, sound_of_nil _ rfl⟩
  cases w; cases h1; cases h0; rfl

theorem ready0 {i : Instr} {ops : List Opd} (h3 : i.wf = true) (h4 : (th w0 g0).operandsOk ops = true) :
    Ready (mk w0 g0) (th w0 g0) i ops true := ready rfl rfl rfl h3 h4

/-- The same of any state, its parts checked by evaluation. -/
theorem readyAt {s : State} {t : Thread} {i : Instr} {ops : List Opd} (h1 : s.thread = some t ∧ t.w.block = none) (h3 : i.wf = true)
    (h4 : t.operandsOk ops = true) (h5 : t.s.bad.isEmpty = true := by decide +kernel) : Ready s t i ops true :=
  ⟨h1, h3, h4, rfl, sound_of_nil _ (List.isEmpty_iff.1 h5)⟩

/-- A trap of the small machine has a handler. -/
theorem traps0 : (th w0 g0).Traps := ⟨rfl, by decide⟩

/-- An operation that answers, with an answer that meets `p`; one that gives something. -/
theorem ok_with {ε α : Type} {x : Except ε α} (p : α → Bool) (h : (match x with | .ok a => p a | .error _ => false) = true) :
    ∃ a, x = .ok a ∧ p a = true := by
  cases x with
  | ok a => exact ⟨a, rfl, h⟩
  | error e => cases h
theorem some_with {α : Type} {x : Option α} (p : α → Bool) (h : (match x with | some a => p a | none => false) = true) :
    ∃ a, x = some a ∧ p a = true := by
  cases x with
  | some a => exact ⟨a, rfl, h⟩
  | none => cases h

/-- What a step leaves, read by `f`. -/
def got {α : Type} (o : Host.Outcome State Fault Refusal) (f : State → α) : Option α :=
  match o with
  | .next s => some (f s)
  | _ => none
def sregOf (r : Nat) (s : State) : Word := ((mapFind s.warps 3).map fun w => w.sreg r).getD 0
def spairOf (r : Nat) (s : State) : Dword := ((mapFind s.warps 3).map fun w => w.spair r).getD 0
def warpOf (s : State) : Warp := (mapFind s.warps 3).getD w0
def vregOf (l r : Nat) (s : State) : Word := ((mapFind s.wgs 2).map fun g => (⟨s, 3, w0, g⟩ : Thread).vreg l r).getD 0

/-! Scalar instructions: the table after R219. -/

/-- An S3 instruction with A in s2, B in s4 and its result in s6; a pair when `wide`. -/
def s3f (ty : Nat) : S3F := { noS3 with ty := BitVec.ofNat 3 ty, imm := 4, sa := 2, sd := 6 }
def s3run (i : S3F → Instr) (ty : Nat) (a b : Word) : Option Word :=
  got (exec (i (s3f ty)) (mk ((w0.setSreg 2 a).setSreg 4 b) g0)) (sregOf 6)

theorem test_div : s3run .sdiv 0 0x80000000 0xFFFFFFFF = some 0x80000000 ∧ s3run .srem 0 0x80000000 0xFFFFFFFF = some 0 ∧
    s3run .sdiv 1 7 0 = some 0xFFFFFFFF ∧ s3run .srem 0 0xFFFFFFF9 2 = some 0xFFFFFFFF := by decide +kernel
theorem test_shift : s3run .sshl 0 1 33 = some 2 ∧ s3run .ssar 1 0x80000000 4 = some 0xF8000000 := by decide +kernel
theorem test_field : s3run .sbfe 0 0xF00 0x408 = some 0xFFFFFFFF ∧ s3run .sbfe 1 0xFFFFFFFF 0x101C = some 0xF ∧
    s3run .sbfe 1 0xFFFFFFFF 0x820 = some 0 := by decide +kernel
theorem test_scalar_f32 : s3run .smin 4 0x80000000 0 = some 0x80000000 ∧ s3run .smax 4 0x7FC00000 0x3F800000 = some 0x3F800000 := by
  decide +kernel
theorem test_sclz : got (exec (.sclz { s3f 1 with sa := 0 }) (mk w0 g0)) (sregOf 6) = some 32 := by decide +kernel
theorem test_sffs : got (exec (.sffs { s3f 3 with sa := 0 }) (mk w0 g0)) (spairOf 6) = some 0xFFFFFFFFFFFFFFFF := by decide +kernel

theorem witness_ScalarArithmetic : ∃ f : S3F, f.ty ≠ 4 ∧ Ready (mk w0 g0) (th w0 g0) (.sadd f) (s3Opds f true ++ s3Old (.sadd f) f) true ∧
    Ready (mk w0 g0) (th w0 g0) (.smov { f with sa := 0 }) (s3Opds { f with sa := 0 } false ++ s3Old (.smov f) f) true :=
  ⟨s3f 3, by decide, ready0 (by decide) (by decide), ready0 (by decide) (by decide)⟩
theorem witness_ScalarDivision : ∃ f : S3F, f.ty ≠ 4 ∧ Ready (mk w0 g0) (th w0 g0) (.sdiv f) (s3Opds f true ++ s3Old (.sdiv f) f) true :=
  ⟨s3f 0, by decide, ready0 (by decide) (by decide)⟩
theorem witness_ScalarFieldsAndConditions : ∃ f : S3F, f.ty ≠ 4 ∧ Ready (mk w0 g0) (th w0 g0) (.sbfi f) (s3Opds f true ++ s3Old (.sbfi f) f) true ∧
    Ready (mk w0 g0) (th w0 g0) (.ssetGe f) (s3Opds f true ++ s3Old (.ssetGe f) f) true :=
  ⟨s3f 2, by decide, ready0 (by decide) (by decide), ready0 (by decide) (by decide)⟩
/-- A quiet sum; a sum of two signalling NaNs with the invalid exception enabled, which has a handler. -/
theorem witness_ScalarFloat : Ready (mk w0 g0) (th w0 g0) (.sadd (s3f 4)) (s3Opds (s3f 4) true ++ s3Old (.sadd (s3f 4)) (s3f 4)) true ∧
    (fadd fmtF32 ((fpEnvNoSto w0.mode).ctx false 0) 0 0).2 &&& modeEnables w0.mode = 0 ∧
    (∃ m : Word, (fadd fmtF32 ((fpEnvNoSto m).ctx false 0) 0x7F800001 0).2 &&& modeEnables m ≠ 0) ∧ (th w0 g0).Traps :=
  ⟨ready0 (by decide) (by decide), by decide +kernel, ⟨0xFFFFFFFF, by decide +kernel⟩, traps0⟩
theorem witness_MaskInstructions : Ready (mk w0 g0) (th w0 g0) (.mand (s3f 0)) [.m 2, .m 4, .dm 6] true ∧
    Ready (mk w0 g0) (th w0 g0) (.mcnt { s3f 0 with sa := 0 }) [.m 4, .ds 6 1 1] true ∧
    Ready (mk w0 g0) (th w0 g0) (.mlive { s3f 0 with sa := 0, imm := 0 }) [.dm 6] true ∧ w0.width ∈ [8, 16, 32, 64, 128] :=
  ⟨ready0 (by decide) (by decide), ready0 (by decide) (by decide), ready0 (by decide) (by decide), by decide⟩

/-- The example of R221: s2 = 0x0F; an empty group; bits above the width. -/
def setx (x : Word) : Option (LaneMask × Word) :=
  got (exec (.msetx { noS3 with imm := 2 }) (mk (w0.setSreg 2 x) g0)) fun s => ((warpOf s).exec, (warpOf s).cause)
theorem test_msetx : setx 0x0F = some (0x0F, 0) ∧ setx 0x1FF = some (0xFF, 0) ∧ setx 0 = some (0xFF, 2) := by decide +kernel
theorem witness_SetExec : Ready (mk w0 g0) (th w0 g0) (.msetx { noS3 with imm := 2 }) [.m 2] true ∧ w0.handler = false ∧
    fetchLaunch.image.trapvec ≠ 0 := ⟨ready0 (by decide) (by decide), rfl, by decide⟩

theorem test_sgetr : got (exec (.sgetr { noS3 with imm := 7, isimm := true, sd := 12 }) (mk w0 { g0 with core := 200 })) (sregOf 12) =
    some 200 ∧ got (exec (.sgetr { noS3 with imm := 0x30, isimm := true, sd := 12 }) (mk w0 g0)) (fun s => (warpOf s).cause) = some 2 := by decide +kernel
/-- R151: a launch with D 2, C 3 and T 4, 5 beside a level that is not used; workgroup 5 of w, thread 13 of t. -/
theorem test_index_space : (List.range 6).map (levelValue [(1, 2), (2, 3), (3, 4), (3, 5)] { g0 with d := 1, w := 2, t := 13 }) = [1, 2, 2, 3, 0, 0] := by
  decide +kernel
theorem witness_SpecialRegisters : (∃ f : S3F, s3Sb f = 7 ∧ sregWords 7 = some 1 ∧ Ready (mk w0 g0) (th w0 g0) (.sgetr f) [.ds 12 1 1] true) ∧
    (∃ f : S3F, sregWords (s3Sb f) = none ∧ (Instr.sgetr f).wf = true ∧ Running (mk w0 g0) (th w0 g0)) ∧ (th w0 g0).Traps ∧
    w0.tickLatch = none ∧ ({ w0 with tickLatch := some 5 } : Warp).tickLatch = some 5 ∧
    (∃ f : S3F, s3Sb f = 0x19 ∧ Ready (mk w0 g0) (th w0 g0) (.ssetr f) [.s 2 1 1] true) ∧
    (∃ f : S3F, s3Sb f = 0x1B ∧ Ready (mk w0 g0) (th w0 g0) (.ssetr f) [.s 2 2 2] true) ∧
    (∃ f : S3F, s3Sb f = 0x18 ∧ Ready (mk w0 g0) (th w0 g0) (.ssetr f) [.s 2 1 1] true) ∧
    modeRmLegal modeReset = true ∧ modeRmLegal 0 = false :=
  ⟨⟨{ noS3 with imm := 7, isimm := true, sd := 12 }, by decide, by decide, ready0 (by decide) (by decide)⟩,
   ⟨{ noS3 with imm := 0x30, isimm := true, sd := 12 }, by decide, by decide, ⟨rfl, rfl⟩⟩, traps0, rfl, rfl,
   ⟨{ noS3 with imm := 0x19, isimm := true, sa := 2 }, by decide, ready0 (by decide) (by decide)⟩,
   ⟨{ noS3 with imm := 0x1B, isimm := true, sa := 2 }, by decide, ready0 (by decide) (by decide)⟩,
   ⟨{ noS3 with imm := 0x18, isimm := true, sa := 2 }, by decide, ready0 (by decide) (by decide)⟩, by decide, by decide⟩
theorem witness_ModeChange : Ready (mk w0 g0) (th w0 g0) (.smode (s3f 0)) (s3Opds (s3f 0) true) true ∧ (1 ≤ modeRM modeReset ∧ modeRM modeReset ≤ 6) ∧
    modeRM 0 = 0 ∧ w0.width ≤ 128 := ⟨ready0 (by decide) (by decide), by decide, by decide, by decide⟩

/-! Vector instructions -/

def v3 : V3F := { noV3 with va := 2, vb := 4, vd := 6 }
/-- `mk` with vector registers 2 and 4 of lane 5 set. -/
def gv (a b : Word) : Workgroup := (Thread.setVregs (Thread.setVregs (th w0 g0) 5 2 [a]) 5 4 [b]).g
def v3run (i : V3F → Instr) (f : V3F) (a b : Word) : Option Word := got (exec (i f) (mk w0 (gv a b))) (vregOf 5 6)

theorem test_vector_int : v3run .vadd v3 0xFFFFFFFF 2 = some 1 ∧ v3run .vadd { v3 with sat := true } 0x7FFFFFFF 1 = some 0x7FFFFFFF ∧
    v3run .vsub { v3 with ty := 6 } 0x00000001 0x00010002 = some 0xFFFFFFFF ∧ v3run .vmulh v3 0x80000000 2 = some 0xFFFFFFFF := by
  decide +kernel
theorem test_vector_f32 : v3run .vadd { v3 with ty := 2, rnd := 1 } 0x3F800000 0x3F800000 = some 0x40000000 ∧
    v3run .vmul { v3 with ty := 2 } 0x40000000 0x3F000000 = some 0x3F800000 := by decide +kernel
theorem test_vclass : v3run .vclass { v3 with va := 0, ty := 2 } 0 0xFF800000 = some 1 ∧ v3run .vclass { v3 with va := 0, ty := 2 } 0 0x7F800001 = some 0x100 := by
  decide +kernel
theorem test_vcmp : got (exec (.vcmpGt { noV3 with bsel := 2, va := 2, vb := 0, vd := 16 }) (mk w0 (gv 7 0))) (sregOf 16) = some 0x20 := by
  decide +kernel

/-- The small machine with 1.0 in code at 0x10000, and a page there. -/
def tc : Thread := ⟨(mk w0 g0).placeFetch (leBytes 8 0x3F800000), 3, w0, g0⟩
theorem witness_OperandB : ∃ r, tc.code (tc.w.pc + BitVec.ofInt 64 (4 * (0 : BitVec 10).toInt)) 4 = .ok r ∧ decide (r.2 = 0x3F800000) = true :=
  ok_with _ (by decide +kernel)
theorem witness_VectorLanes : (∃ r ∈ laneRows1, ∃ (t' : Thread) (b : OpB), Ready (mk w0 g0) (th w0 g0) (v3Form r.op r.short v3 none)
      (guardOpd v3.gen v3.gs ++ ([.v 2 1 1] ++ opdB v3.bsel v3.vb r.wide ++ [v3Dest r.op v3 r.dN])) true ∧
      v3B (th w0 g0) v3 r.wide none = .ok (t', b)) ∧
    Ready (mk w0 g0) (th w0 g0) (.longImmediateForm 2 { v3 with vb := 0 } 5) ([.v 2 1 1, .dv 6 1 1]) true ∧
    Ready (mk w0 g0) (th w0 g0) (.cvt { v3 with va := 3 }) [.v 4 1 1, .dv 6 1 1] true ∧
    Ready (mk w0 g0) (th w0 g0) (.pack8 { v3 with bsel := 2, vb := 6, va := 4 }) [.v 4 4 4, .dv 6 1 1] true ∧
    Ready (mk w0 g0) (th w0 g0) (.vmad4 v3 0 8) [.v 2 1 1, .v 4 1 1, .dv 6 1 1, .v 8 1 1] true :=
  ⟨⟨⟨0x02, .vadd, laneAdd, 1, false, 1⟩, by simp [laneRows1], _, _, ready0 (by decide) (by decide), rfl⟩, ready0 (by decide) (by decide),
   ready0 (by decide) (by decide), ready0 (by decide) (by decide), ready0 (by decide) (by decide)⟩
theorem witness_VectorSelectCompareIndex :
    Ready (mk w0 g0) (th w0 g0) (.vsel { v3 with gen := true, gs := 3 }) [.m 3, .v 2 1 1, .v 4 1 1, .dv 6 1 1] true ∧
    Ready (mk w0 g0) (th w0 g0) (.vcmpLt v3) [.v 2 1 1, .v 4 1 1, .dm 6] true ∧
    Ready (mk w0 g0) (th w0 g0) (.vidx { noV3 with bsel := 2, vb := 5, vd := 6 }) [.dv 6 1 1] true :=
  ⟨ready0 (by decide) (by decide), ready0 (by decide) (by decide), ready0 (by decide) (by decide)⟩
theorem witness_VectorFrame : ∃ os : List (Nat × LaneOut), (os.map Prod.fst).Nodup ∧ 1023 + 1 ≤ 1024 ∧ ∀ o ∈ os, o.2.ws.length = 1 :=
  ⟨[(0, ⟨[1], 0, 0⟩), (7, ⟨[2], 0, 0⟩)], by decide, by decide, by decide⟩
/-- R247: the f16 in bits [31:16] as an f32; 2.5 rounds to the even 2; and four examples of R248. -/
theorem test_cvt : v3run .cvt { v3 with va := 0x110 } 0 0x3C00FFFF = some 0x3F800000 ∧ v3run .cvt { v3 with va := 0x008, rnd := 1 } 0 0x40200000 = some 2 ∧ v3run .cvt { v3 with va := 0x008, ty := 1, rnd := 2 } 0 0xBFC00000 = some 0 ∧
    v3run .cvt { v3 with va := 0x003 } 0 0x43FA0000 = some 0x7F ∧ v3run .cvt { v3 with va := 0x003, sat := true } 0 0x43FA0000 = some 0x7E ∧
    v3run .cvt { v3 with va := 0x230 } 0 0x00117F00 = some 0x3D100000 := by
  decide +kernel
/-- Two finite operands and an addend, 1.5, -0.25 and 2; NaNs; infinities; and elements of the three formats. -/
theorem witness_LaneResults :
    (∀ a ∈ [0x3FC00000, 0xBE800000], (fread fmtF32 false a).isFin = true) ∧ (fread fmtF32 false 0x40000000).isFin = true ∧
    (fread fmtF32 false 0xBE800000).isZero = false ∧ (fread fmtF32 true 1).isZero = true ∧ (fread fmtF32 false 0x7F800000).isInf = true ∧
    (fread fmtF32 false 0x7FC00000).isNaN = true ∧ (fread fmtF32 false 0x3FC00000).isNaN = false ∧ (fread fmtF16 false 0x7C00).isInf = true ∧
    (0xFFFF < 2 ^ (1 + fmtF16.eb + fmtF16.mb) ∧ 0x3F80 < 2 ^ (1 + fmtBf16.eb + fmtBf16.mb)) ∧
    valLe (.inf true) (fread fmtF32 false 0) ∧ (cvtFmt 0 = some fmtF32 ∧ cvtFmt 3 ≠ none ∧ (6 : Nat) ∈ [6, 7, 8]) ∧
    (∃ x : LaneIn, x.ty ∈ [2, 3, 4]) :=
  ⟨by decide +kernel, by decide +kernel, by decide +kernel, by decide +kernel, by decide +kernel, by decide +kernel, by decide +kernel,
   by decide +kernel, by decide, Or.inl rfl, by decide, ⟨(th w0 g0).laneArgs { v3 with ty := 3 } (.vec 4) 1 false 0 0, by decide⟩⟩
theorem witness_IntegerElements : ∃ x y : LaneIn, x.ty ∈ [0, 1, 5, 6] ∧ x.ty ≤ 1 ∧ y.ty = 2 :=
  ⟨(th w0 g0).laneArgs v3 (.vec 4) 1 false 0 0, (th w0 g0).laneArgs { v3 with ty := 2 } (.vec 4) 1 false 0 0, by decide, by decide, by decide⟩

/-! Cross-lane instructions: the example after R258. -/

def gl (l : List Word) : Workgroup := (l.zipIdx.foldl (fun (t : Thread) e => t.setVregs e.2 3 [e.1]) (th w0 g0)).g
def wEF : Warp := { w0 with exec := 0xEF, mode := 0x1000000 }
theorem test_redadd : got (exec (.redadd { noXl with ty := 2, g := 2, vb := 3, vd := 20 })
      (mk { w0 with exec := 0xEF } (gl [0x3F800000, 0x4B800000, 0x3F800000, 0x3F800000, 0x40A00000, 0xCB800000, 0x3F800000, 0x3F800000])))
    (fun s => (vregOf 0 20 s, vregOf 7 20 s, vregOf 4 20 s)) = some (0x40800000, 0x40800000, 0) := by decide +kernel
/-- SHFLUP.g4 by 1: lanes 0 and 4 keep their own value, lane 5 gets that of lane 4, which is not active. -/
theorem test_shflup : got (exec (.shflup { noXl with g := 1, bsel := 2, vb := 1, va := 3, vd := 20 })
      (mk { w0 with exec := 0xEF } (gl [10, 11, 12, 13, 14, 15, 16, 17])))
    (fun s => (vregOf 0 20 s, vregOf 1 20 s, vregOf 5 20 s)) = some (10, 10, 14) := by decide +kernel
def xl : XlF := { noXl with g := 7, va := 2, vb := 4, vd := 6 }
theorem witness_CrossLane : (∃ t' b, XlReady (.shfl xl) xl true false false (mk w0 g0) (th w0 g0) t' 8 b) ∧
    (∃ t' b, XlReady (.vote { xl with va := 0 }) { xl with va := 0 } false true true (mk w0 g0) (th w0 g0) t' 8 b) ∧
    (let f : XlF := { xl with g := 3 }
     Ready (mk w0 g0) (th w0 g0) (.shfl f) [.v 2 1 1, .v 4 1 1, .dv 6 1 1] true ∧ (th w0 g0).w.width < 2 ^ (f.g.toNat + 1)) ∧
    (Running (mk w0 g0) (th w0 g0) ∧ (Instr.redadd { xl with va := 0, g := 1, tos := true }).wf = true ∧ 2 ^ (1 + 1) < w0.width) ∧
    (let w := { w0 with width := 64 }; Running (mk w g0) (th w g0) ∧ (Instr.vote { xl with va := 0 }).wf = true ∧ 32 < w.width) ∧ (th w0 g0).Traps :=
  ⟨⟨_, _, rfl, by decide, by decide, by decide, ready0 (by decide) (by decide), _, rfl, fun _ => rfl⟩,
   ⟨_, _, rfl, by decide, by decide, by decide, ready0 (by decide) (by decide), _, rfl, fun _ => rfl⟩,
   ⟨ready0 (by decide) (by decide), by decide⟩, ⟨⟨rfl, rfl⟩, by decide, by decide⟩, ⟨⟨rfl, rfl⟩, by decide, by decide⟩, traps0⟩
theorem witness_ReductionsAndScans : ∃ t' b, XlReady (.redadd { xl with va := 0 }) { xl with va := 0 } false false false (mk w0 g0) (th w0 g0) t' 8 b :=
  ⟨_, _, rfl, by decide, by decide, by decide, ready0 (by decide) (by decide), _, rfl, fun _ => rfl⟩
theorem witness_Derivatives : ∃ t' b, XlReady (.ddx { xl with va := 0, ty := 2 }) { xl with va := 0, ty := 2 } false false false
    (mk w0 g0) (th w0 g0) t' 8 b :=
  ⟨_, _, rfl, by decide, by decide, by decide, ready0 (by decide) (by decide), _, rfl, fun _ => rfl⟩

/-! Control flow -/

def far (w : Warp) (pc : Dword) : Warp := { w with pc := pc }
theorem test_bra : got (exec (.bra { noSb with off := 0xFFFFFFC0, cond := 3, sb := 7, sa := 2 }) (mk ((w0.setSreg 2 0xFFFFFFFF).setSreg 7 0) g0))
      (fun s => (warpOf s).pc) = some 0xFFC0 ∧
    got (exec (.bra { noSb with off := 0xFFFFFFC0, cond := 5, sb := 7, sa := 2 }) (mk ((w0.setSreg 2 0xFFFFFFFF).setSreg 7 0) g0))
      (fun s => (warpOf s).pc) = some 0x10008 := by decide +kernel
theorem test_call : got (exec (.call { noSb with off := 0x100, sb := 8 }) (mk w0 g0)) (fun s => ((warpOf s).pc, spairOf 8 s)) =
    some (0x10100, 0x10008) := by decide +kernel
theorem test_ret : got (exec (.ret { noSb with sa := 8 }) (mk (w0.setSpair 8 0x20004) g0)) (fun s => ((warpOf s).cause, (warpOf s).trapaddr)) =
    some (3, 0x20004) := by decide +kernel

/-- Targets in and outside the canonical addresses; a misaligned indirect one. -/
theorem witness_BranchesAndCalls :
    Ready (mk w0 g0) (th w0 g0) (.nop noSb) [] true ∧
    (let f : SbF := { noSb with off := 8, cond := 7, sa := 2 }
     Ready (mk w0 g0) (th w0 g0) (.bra f) (braOpds f) true ∧ braHolds w0 f = true ∧ (th w0 g0).canonical (w0.pc + f.off.signExtend 64) = true) ∧
    braHolds w0 { noSb with cond := 8, sa := 2 } = false ∧
    (let w := far w0 0x7FFFFFFFFFF8
     Ready (mk w g0) (th w g0) (.skip { noSb with off := 8 }) [] true ∧ (th w g0).canonical (w.pc + (8 : BitVec 32).signExtend 64) = false ∧
     (th w g0).Traps) ∧
    Ready (mk w0 g0) (th w0 g0) (.call { noSb with sb := 254 }) [.ds 254 2 2] true ∧
    Ready (mk w0 g0) (th w0 g0) (.brx { noSb with sa := 2, sb := 8 }) [.s 2 2 2, .ds 8 2 2] true ∧
    Ready (mk w0 g0) (th w0 g0) (.brx { noSb with sa := 2, sb := 0xFF }) [.s 2 2 2] true ∧
    Ready (mk w0 g0) (th w0 g0) (.ret { noSb with sa := 2 }) [.s 2 2 2] true ∧
    (w0.spair 2).extractLsb' 0 3 = 0 ∧ ((w0.setSpair 2 4).spair 2).extractLsb' 0 3 ≠ 0 :=
  ⟨ready0 (by decide) (by decide), ⟨ready0 (by decide) (by decide), by decide, by decide⟩, by decide,
   ⟨ready rfl rfl rfl (by decide) (by decide), by decide, rfl, by decide⟩, ready0 (by decide) (by decide), ready0 (by decide) (by decide),
   ready0 (by decide) (by decide), ready0 (by decide) (by decide), by decide, by decide⟩

/-- Sixteen entries that take no other path. -/
def full16 : List Machine.Path := (List.range 16).map fun i => ⟨BitVec.ofNat 64 (0x40000 + 8 * i), 0x80, .bar .bar, 0, none, false⟩
/-- BRD with lanes 0 to 3 taken: they are parked at the target, the others go on. -/
theorem test_brd : got (exec (.brd { noSb with off := 0x80, sa := 2 }) (mk (w0.setSreg 2 0x0F) g0))
      (fun s => ((warpOf s).pc, (warpOf s).exec, (warpOf s).paths.map fun p => (p.pc, p.mask))) =
    some (0x10008, 0xF0, [(0x10080, 0x0F)]) := by decide +kernel
/-- The example of R221: a JOIN whose lanes 4 to 7 are set aside raises barrier divergence (0x0A). -/
theorem test_join : got (exec (.joinInstr { noSb with sa := 3 }) (mk { (w0.setSreg 3 0xFF) with exec := 0x0F, pc := 0x200 } g0))
      (fun s => ((warpOf s).cause, (warpOf s).trappc)) = some (0x0A, 0x200) ∧
    got (exec (.joinInstr { noSb with sa := 3 }) (mk { (w0.setSreg 3 0xFF) with pc := 0x200 } g0))
      (fun s => ((warpOf s).cause, (warpOf s).pc)) = some (0, 0x208) := by decide +kernel
theorem witness_DivergenceAndJoins :
    Ready (mk w0 g0) (th w0 g0) (.brd { noSb with off := 8, sa := 2 }) [.m 2] true ∧ w0.handler = false ∧
    (w0.exec &&& w0.group 2 = 0) ∧
    (let w := w0.setSreg 2 0xFF; w.exec &&& w.group 2 ≠ 0 ∧ w.exec &&& ~~~w.group 2 = 0) ∧
    (let w := w0.setSreg 2 1
     w.exec &&& w.group 2 ≠ 0 ∧ w.exec &&& ~~~w.group 2 ≠ 0 ∧ canPark w.paths ⟨0x10008, 1, .ready, 0, none, false⟩ = true ∧
     canPark full16 ⟨0x10008, 1, .ready, 0, none, false⟩ = false) ∧
    Ready (mk w0 g0) (th w0 g0) (.joinInstr { noSb with sa := 2 }) [.m 2] true ∧
    (let w := { (w0.setSreg 2 0xFF) with exec := 0x0F }
     Ready (mk w g0) (th w g0) (.joinInstr { noSb with sa := 2 }) [.m 2] true ∧ w.group 2 &&& w.live &&& ~~~(w.exec ||| lanesAt (joinsAt w.pc w.paths)) ≠ 0 ∧
     canPark full16 ⟨w.pc, 0x0F, .join 0xFF, 0, none, false⟩ = false) :=
  ⟨ready0 (by decide) (by decide), rfl, by decide, by decide, by decide, ready0 (by decide) (by decide),
   ready rfl rfl rfl (by decide) (by decide), by decide, by decide⟩
theorem witness_PathTable : (∃ (l : List Machine.Path) (p : Machine.Path), l.length ≤ 16 ∧ canPark l p = true ∧ ∀ e ∈ l, e.takes p = false) ∧
    (∃ (a b : List Machine.Path) (e p : Machine.Path), (∀ x ∈ a, x.takes p = false) ∧ e.takes p = true ∧ (a ++ e :: b).length = 16) ∧
    (∃ w : Warp, ∀ p ∈ w.paths, p.runnable w.offMask = false) ∧
    (∃ (w : Warp) (p : Machine.Path) (b : List Machine.Path), w.paths = p :: b ∧ p.runnable w.offMask = true ∧ b ≠ [] ∧
      ∀ q ∈ b, q.runnable w.offMask = true → p.pc.toNat ≤ q.pc.toNat) :=
  ⟨⟨[], ⟨8, 1, .ready, 0, none, false⟩, by decide, by decide, by decide⟩,
   ⟨full16.take 15, [], ⟨8, 1, .ready, 0, none, false⟩, ⟨8, 2, .ready, 0, none, false⟩, by decide, by decide, by decide⟩,
   ⟨{ w0 with paths := full16 }, by decide⟩,
   ⟨{ w0 with paths := [⟨8, 1, .ready, 0, none, false⟩, ⟨16, 2, .ready, 0, none, false⟩] }, _, _, rfl, by decide, by decide, by decide⟩⟩

theorem test_exit : got (exec (.exitLanes { noSb with cond := 9, sa := 4 }) (mk (w0.setSreg 4 0x0F) g0))
      (fun s => ((warpOf s).live, (warpOf s).exec, (warpOf s).pc)) = some (0xF0, 0xF0, 0x10008) := by decide +kernel
/-- A fragment wave of two quads whose lanes 3 and 7 are helpers; its first quad leaves: its helper leaves with it (R367). -/
def gF : Workgroup := { g0 with frags := (List.range 8).map fun l => (l, ⟨l, 0, 0, some (l / 4 * 4), 0, l, l % 4 == 3, 0, false, false⟩) }
def wF : Warp := { w0 with live := 0x77, helper := 0x88, exec := 0xFF }
theorem test_exit_fragments : got (exec (.exitLanes { noSb with cond := 9, sa := 4 }) (mk (wF.setSreg 4 0x0F) gF))
      (fun s => ((warpOf s).live, (warpOf s).helper, (warpOf s).exec, ((mapFind s.wgs 2).map fun g => g.frags.map fun e => e.2.retired))) =
    some (0x70, 0x80, 0xF0, some [true, true, true, false, false, false, false, false]) := by decide +kernel
theorem witness_ExitLanes : Ready (mk (wF.setSreg 4 0x0F) gF) (th (wF.setSreg 4 0x0F) gF) (.exitLanes { noSb with cond := 9, sa := 4 }) [.m 4] true ∧
    (th wF gF).g.frags ≠ [] ∧ (th w0 g0).g.frags = [] ∧ Ready (mk w0 g0) (th w0 g0) (.exitLanes noSb) [] true ∧
    Ready (mk w0 g0) (th w0 g0) (.exitLanes { noSb with cond := 9, sa := 4 }) [.m 4] true ∧
    Ready (mk h0 g0) (th h0 g0) (.exitLanes noSb) [] true ∧ w0.running = true ∧ h0.running = true ∧ w0.exec &&& w0.group 4 = 0 ∧
    (let w := { w0 with exec := 0x0F }; (w.live &&& ~~~w.exec) ≠ 0 ∧ (w.live &&& ~~~w.exec) &&& w.exec = 0) ∧ (w0.live &&& ~~~w0.exec) = 0 :=
  ⟨ready rfl rfl rfl (by decide) (by decide), by decide, rfl, ready0 (by decide) (by decide), ready0 (by decide) (by decide),
   ready rfl rfl rfl (by decide) (by decide), rfl, rfl, by decide, by decide, by decide⟩

theorem test_trap : got (exec (.trapInstr { noSb with sb := 1, sa := 2 }) (mk w0 g0))
      (fun s => ((warpOf s).cause, (warpOf s).trapimm, (warpOf s).trappc, (warpOf s).pc, (warpOf s).handler)) =
    some (0x12, 0x102, 0x10000, 0x11000, true) := by decide +kernel
theorem test_trap_in_handler : got (exec (.brk noSb) (mk h0 g0)) (fun s => ((mapFind s.wgs 2).map fun g => g.killed)) = some (some (some 0x13)) := by
  decide +kernel
def held1 : HeldTrap := ⟨0x0D, 0x20000, 0x30000, 7⟩
theorem witness_TrapsAndReturns : Ready (mk w0 g0) (th w0 g0) (.trapInstr noSb) [] true ∧ (th w0 g0).Traps ∧
    Ready (mk h0 g0) (th h0 g0) (.brk noSb) [] true ∧ ¬ (th h0 g0).Traps ∧
    mapFind (mk w0 g0).wgs 2 = some g0 ∧ mapFind (mk w0 g0).launches g0.launch = some fetchLaunch ∧
    Ready (mk h0 g0) (th h0 g0) (.tret noSb) [] true ∧ Ready (mk h0 g0) (th h0 g0) (.tret { noSb with sa := 1 }) [] true ∧
    h0.handler = true ∧ h0.boundary = false ∧ (1 : BitVec 8).getLsbD 0 = true ∧
    (∃ r, tc.code tc.w.pc 1 = .ok r ∧ decide (r.2 % 16 ≠ 15) = true) ∧
    (let w := { w0 with held := [held1] }; mapFind (mk w g0).warps 3 = some w ∧ w.held = held1 :: [] ∧ w.running = true ∧ w.block = none ∧
      w.stall = none ∧ g0.phase = .placed ∧ w.handler = false ∧ ((mk w g0).launch g0.launch).image.trapvec ≠ 0) :=
  ⟨ready0 (by decide) (by decide), traps0, ready rfl rfl rfl (by decide) (by decide), (by intro h; exact absurd h.1 (by decide)), rfl, rfl,
   ready rfl rfl rfl (by decide) (by decide), ready rfl rfl rfl (by decide) (by decide), rfl, rfl, by decide, ok_with _ (by decide +kernel),
   rfl, rfl, rfl, rfl, rfl, rfl, rfl, by decide⟩

/-- A BAR of the only warp of its workgroup completes at once. -/
theorem test_bar : got (exec (.bar noSy) (mk w0 g0)) (fun s => ((warpOf s).pc, (warpOf s).running, (warpOf s).paths.length)) =
    some (0x10008, true, 0) := by decide +kernel
theorem witness_Barriers : Ready (mk w0 g0) (th w0 g0) (.bar noSy) [] true ∧ Ready (mk w0 g0) (th w0 g0) (.nextIter { noWq with sD := 5 }) [.ds 5 1 1] true ∧
    Ready (mk w0 g0) (th w0 g0) (.bard noSy) [] true ∧ (th w0 g0).launch.coop = false ∧ (th w0 g0).Traps ∧
    canPark w0.paths ⟨w0.pc, w0.exec, .bar .bar, 0, none, false⟩ = true ∧ canPark full16 ⟨w0.pc, w0.exec, .bar .bar, 0, none, false⟩ = false ∧
    Ready (mk h0 g0) (th h0 g0) (.bar noSy) [] true ∧
    (let s : State := { mk w0 g0 with launches := [(1, { fetchLaunch with coop := true })] }
     (⟨s, 3, w0, g0⟩ : Thread).launch.coop = true ∧ Ready s ⟨s, 3, w0, g0⟩ (.bard noSy) [] true) ∧
    (∃ w : Warp, w.paths = [⟨0x10000, 0xFF, .bar .bar, 0, none, false⟩] ∧ w.handler = false ∧ w.running = false ∧ 0xFF &&& w.offMask = 0 ∧
      0xFF &&& ({ w with offl := [⟨7, 9, none, 0, some ⟨0, 0, 0, 0, 0, 0, 0, 0, 6, none, 0⟩⟩] } : Warp).offMask ≠ 0) :=
  ⟨ready0 (by decide) (by decide), ready0 (by decide) (by decide), ready0 (by decide) (by decide), rfl, traps0, by decide, by decide,
   ready rfl rfl rfl (by decide) (by decide), ⟨rfl, ⟨⟨rfl, rfl⟩, by decide, by decide, rfl, sound_of_nil _ rfl⟩⟩,
   ⟨{ w0 with paths := [⟨0x10000, 0xFF, .bar .bar, 0, none, false⟩], running := false }, rfl, rfl, rfl, by decide, by decide⟩⟩

/-- R277: a count of 1 that an arrival of 1 reaches; the phase flips. -/
theorem test_arrb : got (exec (.arrb { noSy with imm := 1, kind := 4, sa := 12 }) (mk w0 { g0 with scratch := [(0, 1)] }))
      (fun s => (mapFind s.wgs 2).map fun g => (leNat (getScratch g.scratch 0 4), leNat (getScratch g.scratch 4 4))) = some (some (0, 1)) := by decide +kernel
theorem witness_Waits : Ready (mk w0 g0) (th w0 g0) (.waitc { noSy with kind := 8 }) [] true ∧
    (∀ c ∈ ([.lg, .sg, .lx, .at, .gx, .en, .wq, .sl] : List Ctr), ctrVal w0.pend c ≤ 0) ∧
    (∃ c ∈ ([.lg] : List Ctr), 0 < ctrVal [⟨.lg, 9, false⟩] c) ∧
    (let f : SyF := { noSy with kind := 4, sa := 12 }
     Ready (mk w0 g0) (th w0 g0) (.waitb f) (.s f.sa.toNat 1 1 :: valueOpd f) true ∧
     (∃ p, (th w0 g0).barObject f = .ok p ∧ decide (p = .scratch 2 0) = true) ∧ (th w0 g0).accPending (.scratch 2 0) 16 = false ∧
     ({ mk w0 g0 with wgs := mapPut (mk w0 g0).wgs w0.wg g0 } : State).scratchNat (.scratch 2 0) 8 = some 0 ∧
     Ready (mk w0 g0) (th w0 g0) (.arrb { f with imm := 1 }) (.s f.sa.toNat 1 1 :: valueOpd { f with imm := 1 }) true) ∧
    Ready (mk w0 g0) (th w0 g0) (.fence { noSy with scope := 4, kind := 2 }) [] true ∧ w0.stall = none ∧ (th w0 g0).loadWaits = [] ∧
    (th w0 g0).storeWaits 4 = [] ∧ Ready (mk w0 g0) (th w0 g0) (.nap { noSy with imm := 100 }) [] true ∧
    Ready (mk w0 g0) (th w0 g0) (.yield noSy) [] true :=
  ⟨ready0 (by decide) (by decide), by decide, by decide,
   ⟨ready0 (by decide) (by decide), ok_with _ (by decide +kernel), by decide, by decide +kernel, ready0 (by decide) (by decide)⟩,
   ready0 (by decide) (by decide), rfl, by decide, by decide, ready0 (by decide) (by decide), ready0 (by decide) (by decide)⟩


/-! Fetching, and memory -/

/-- The machine with a word where its next step fetches, and the thread that fetches it. -/
def sw (w : Nat) : State := State.reset.withFetchWord 128 w
def tw (w : Nat) : Thread := ⟨{ sw w with schedule := [] }.pass 0 0, 3, Warp.create 2 8 0 0 0 0 0 [0] 0x10000 0 1 0, fetchWg 1⟩
def fetches (t : Thread) : Option Instr :=
  match t.fetch with
  | .instr _ i => some i
  | .stop _ => none

/-- A reserved format traps with cause 1 and word 0; SADD s5, s3, #-4 from reset leaves -4. -/
theorem test_fetch : got (step (sw 0xA)) (fun s => ((warpOf s).cause, (warpOf s).trapaddr, (warpOf s).pc)) = some (1, 0xA, 0x11000) ∧
    got (step (sw 0x1FFFFFFF90305022)) (fun s => (sregOf 5 s, (warpOf s).pc)) = some (0xFFFFFFFC, 0x10008) := by decide +kernel

/-- What StepRunsFetched and FetchTraps ask of a turn, met by the machine from reset with a word placed: one of one word, one of two, a
reserved one, and a PC that is no multiple of 8. -/
theorem witness_StepRunsFetched : (sw 0x1FFFFFFF90305022).schedule = ⟨0, 0, .warp 3⟩ :: [] ∧
    (∀ w ∈ [0x1FFFFFFF90305022, 0xA], mapFind (sw w).warps 3 = some (tw w).w ∧ mapFind (sw w).wgs (tw w).w.wg = some (tw w).g ∧
      (tw w).w.held = [] ∧ (tw w).w.block = none) ∧
    ({ sw 0x1FFFFFFF90305022 with schedule := [] }.pass 0 0).mayIssue (tw 0).w (tw 0).g = true ∧
    fetches (tw 0x1FFFFFFF90305022) = some (.sadd { noS3 with imm := 0xFFFFFFFC, isimm := true, sa := 3, sd := 5 }) ∧
    fetches (tw (0x000000000000181F + 2 ^ 64 * 0x866)) = some (.longImmediateForm 0x01 { noV3 with vd := 1 } 0x866) :=
  ⟨by decide +kernel, by decide +kernel, by decide +kernel, by decide +kernel, by decide +kernel⟩
theorem witness_ReservedWordsTrap : (tw 0xA).Traps ∧ (∃ r, (tw 0xA).fetchWord (tw 0xA).w.pc = .ok r ∧
      decide (r.2 = 0xA ∧ r.1.w.handler = false ∧ r.1.launch.image.trapvec ≠ 0) = true) ∧
    decode (leBytes 8 0xA) = .error .reservedFormat ∧
    ((0xA : Dword).extractLsb' 0 4).toNat = 10 ∧ ((0x1F : Dword).extractLsb' 4 8).toNat = 1 ∧ (far w0 0x10004).pc.toNat % 8 ≠ 0 :=
  ⟨⟨by decide +kernel, by decide +kernel⟩, ok_with _ (by decide +kernel), rfl, by decide, by decide, by decide⟩
theorem witness_MemoryStaysCanonical : Memory.wf (sw 0x1FFFFFFF90305022).mem = true ∧ (got (step (sw 0x1FFFFFFF90305022)) fun _ => ()) = some () :=
  ⟨by decide +kernel, by decide +kernel⟩

/-! Memory instructions: an address in scratch, a lane that fails a check, a global address that is translated. -/

def vm (space : Nat) : VmF := { noVm with size := 2, space := BitVec.ofNat 2 space, sbase := 2, voff := 2, vdata := 10 }
/-- A machine whose lane 5 has the offset `a`, in scratch of 4 096 bytes. -/
def tm (a : Word) : Thread := th w0 (gv a 0)
/-- Lane 5 of a load in scratch: misaligned by one, beyond the end, and in cluster space a member that the launch has not. -/
theorem test_checks : got (exec (.ld (vm 1)) (tm 1).s) (fun s => ((warpOf s).cause, (warpOf s).trapaddr)) = some (3, 1) ∧
    got (exec (.ld (vm 1)) (tm 4096).s) (fun s => ((warpOf s).cause, (warpOf s).trapaddr)) = some (6, 4096) ∧
    got (exec (.ld (vm 2)) (tm 0x1000000).s) (fun s => ((warpOf s).cause, (warpOf s).trapaddr)) = some (7, 0x1000000) ∧
    got (exec (.ld (vm 1)) (tm 4092).s) (fun s => ((warpOf s).cause, (warpOf s).pc)) = some (0, 0x10008) := by decide +kernel
def firstFails (t : Thread) (f : VmF) (r : VmRow) (c : Nat) : Prop :=
  ∃ before l ea after, vmAddresses t f r.m = before ++ (l, ea) :: after ∧
    (∀ e ∈ before, checkOf t f.space.toNat r.o.extent r.o.align e.2 = none) ∧
    checkOf t f.space.toNat r.o.extent r.o.align ea = some c
theorem witness_AddressChecks : (∃ r ∈ vmRows (tm 1) (vm 1), Ready (tm 1).s (tm 1) r.i (vmOperands (vm 1) r) (decide ((vm 1).space ≠ 3)) ∧
      firstFails (tm 1) (vm 1) r 3) ∧
    (∃ r ∈ atomRows (tm 4096) (vm 1), Ready (tm 4096).s (tm 4096) r.i (vmOperands (vm 1) r) (decide ((vm 1).space ≠ 3)) ∧
      firstFails (tm 4096) (vm 1) r 6) ∧
    (let t := th (w0.setSpair 2 0x800000000000) g0
     ∃ r ∈ vmRows t (vm 0), Ready t.s t r.i (vmOperands (vm 0) r) (decide ((vm 0).space ≠ 3)) ∧ firstFails t (vm 0) r 4) ∧
    checkOf (tm 0) 1 4 4 4092 = none ∧ checkOf (tm 0) 2 4 4 0x1000000 = some 7 ∧ checkOf (tm 0) 0 4 4 0x7FFFFFFFFFFC = none ∧ (tm 1).Traps :=
  ⟨⟨_, List.mem_cons_self, ready rfl rfl rfl (by decide) (by decide),
      [(0, 0), (1, 0), (2, 0), (3, 0), (4, 0)], 5, 1, [(6, 0), (7, 0)], by decide +kernel, by decide +kernel, by decide +kernel⟩,
   ⟨_, List.mem_cons_self, ready rfl rfl rfl (by decide) (by decide),
      [(0, 0), (1, 0), (2, 0), (3, 0), (4, 0)], 5, 4096, [(6, 0), (7, 0)], by decide +kernel, by decide +kernel, by decide +kernel⟩,
   ⟨_, List.mem_cons_self, ready rfl rfl rfl (by decide) (by decide), [], 0, 0x800000000000, _, rfl, by decide, by decide +kernel⟩,
   by decide +kernel, by decide +kernel, by decide +kernel, ⟨rfl, by decide⟩⟩

/-- A scratch load of 8 lanes; a scalar load in the page that is mapped, one that is misaligned, one that is not canonical; prefetches. -/
def tcw : Thread := { tc with w := tc.w.setSpair 2 0x10000, s := { tc.s with warps := [(3, tc.w.setSpair 2 0x10000)] } }
theorem witness_MemoryIssues :
    (∃ r ∈ vmRows (tm 4) (vm 1), Ready (tm 4).s (tm 4) r.i (vmOperands (vm 1) r) (decide ((vm 1).space ≠ 3)) ∧
      ∃ q, (tm 4).places 0 r.o.acc 1 r.o.extent r.o.align (vmAddresses (tm 4) (vm 1) r.m) = .ok q ∧
        decide (q.2.length = 8 ∧ ctrVal q.1.w.pend .lx = 0) = true) ∧
    (let f : SmF := { noSm with scope := 2, sbase := 2, size := 2, sd := 8 }
     Ready tcw.s tcw (.sld f) [.s 2 2 2, .ds 8 4 4] true ∧ (∃ q, tcw.address 0 0 16 0x10000 = .ok q ∧ decide (q.2.1 = 0x10000) = true) ∧
     Ready tcw.s tcw (.sst f) [.s 2 2 2, .s 8 4 4] true ∧ Ready tcw.s tcw (.satom { f with size := 0 }) [.s 2 2 2, .s 8 1 1] true ∧
     tcw.ctx.canonical 0x800000000000 = false ∧ (0x10008 : Dword).toNat % 16 ≠ 0 ∧
     Ready tcw.s tcw (.spref { f with sd := 0, scope := 0 }) [.s 2 2 2] true) ∧
    Ready tcw.s tcw (.pref { vm 0 with size := 0, vdata := 0 }) ([.s 2 2 2, .v 2 1 1] ++ guardOpd false 0) true ∧
    (∃ q, tcw.reachable [0x10000] = .ok q ∧ decide (q.2.length = 1) = true) ∧
    (∀ e ∈ ([(0, 0), (1, 4092)] : List (Nat × Dword)), checkOf (tm 0) 1 4 4 e.2 = none) ∧
    (∀ e ∈ ([(0, 4)] : List (Nat × Dword)), checkOf (tm 0) 2 4 4 e.2 = none ∧
      ((tm 0).s.clusterOf (tm 0).g).find? (fun x => x.2.clmember == e.2.toNat / 2 ^ 24) = some (2, (tm 0).g)) :=
  ⟨⟨_, List.mem_cons_self, ready rfl rfl rfl (by decide) (by decide), ok_with _ (by decide +kernel)⟩,
   ⟨readyAt (by decide +kernel) (by decide) (by decide +kernel), ok_with _ (by decide +kernel), readyAt (by decide +kernel) (by decide) (by decide +kernel),
    readyAt (by decide +kernel) (by decide) (by decide +kernel), by decide +kernel, by decide, readyAt (by decide +kernel) (by decide) (by decide +kernel)⟩,
   readyAt (by decide +kernel) (by decide) (by decide +kernel), ok_with _ (by decide +kernel), by decide +kernel, by decide +kernel⟩

/-- An access of one part in flight. -/
def acc1 (k : AccKind) (at_ : Place) (data : List Byte) : Access :=
  { owners := [3], lanes := 0xFF, wg := 2, core := 0, ctx := 0, asid := 0, kind := k, size := 4, scope := 2, hint := 0, block := false, cls := 0, code := k.code, side := 0
    dest := .vec 10 1, tags := [], wild := false, pc := 0x10000
    parts := [{ lane := 5, off := 0, va := 0, at_ := at_, nc := false, data := data, high := false, done := false, txn := none }] }
def sa1 (a : Access) : State := { mk w0 (gv 0 7) with accs := [(9, a)], wgs := [(2, { gv 0 7 with scratch := [(64, 5)] })] }
/-- A store and a load in the external window, and ATOM.ADD of 3 to 5 in scratch, which returns 5. -/
theorem test_performs :
    got (exec (.memoryAccessCompletion 9 [0]) (sa1 (acc1 .store (.pa 0x100000000000) [1, 2, 0, 4])))
      (fun s => (s.mem, s.accs.length)) = some ([(0x100000000000, 1), (0x100000000001, 2), (0x100000000003, 4)], 0) ∧
    got (exec (.memoryAccessCompletion 9 [0]) (sa1 (acc1 (.atomic 0) (.scratch 2 64) [3, 0, 0, 0])))
      (fun s => ((mapFind s.wgs 2).map fun g => g.scratch, vregOf 5 10 s)) = some (some [(64, 8)], 5) := by decide +kernel
def ln1 : L1Line := ⟨0x200, .m, 0xFF, 0, 0, 0, none⟩
def sl1 (k : AccKind) : State :=
  { sa1 (acc1 k (.pa 0x10000) [1, 2, 3, 4]) with cores := [(0, { Core.reset with l1 := [(l1Set 0x200 * 16, ln1)] })] }
theorem witness_AccessesPerform :
    (∀ k ∈ ([.store, .nibble, .load, .atomic 2] : List AccKind), ∀ at_ ∈ ([.pa 0x100000000000, .scratch 2 64] : List Place),
      let a := acc1 k at_ [1, 2, 3, 4]
      mapFind (sa1 a).accs 9 = some a ∧ (sa1 a).parkedAcc 9 = false ∧
        ∀ p ∈ a.parts, p.done = false ∧ (sa1 a).mustWait 9 a p = false ∧ (sa1 a).partReads a p = .clean (sa1 a)) ∧
    paHomed 0x100000000000 = false ∧ paHomed 0x8FFFFFFFFFF = true ∧ ((gv 0 7).phase ≠ .saved) ∧
    (∀ k ∈ ([.store, .load] : List AccKind),
      let s := sl1 k
      ∃ a, mapFind s.accs 9 = some a ∧ a.kind = k ∧ s.older 9 a = [] ∧ a.hint ≠ 3 ∧ s.parkedAcc 9 = false ∧
        (∀ p ∈ a.parts, p.nc = false ∧ p.txn = none ∧ s.partOffline a p = false ∧ s.partReads a p = .clean s) ∧ (s.core a.core).l1Find 0x200 = some (l1Set 0x200 * 16, ln1)) ∧ ln1.st = .m ∧ sectorMask 0 4 &&& ~~~ln1.valid = 0 ∧ paHomed 0x10000 = true ∧
    (let l := { ln1 with cold := some 9 }; ((sl1 .load).l1Put 0 (l1Set 0x200 * 16) l).core 0 |>.l1Find 0x200 |>.map fun x => x.2.cold) = some (some 9) := by
  refine ⟨?_, by decide, by decide, by decide, ?_, rfl, by decide, by decide, by decide +kernel⟩
  · decide +kernel
  · intro k hk
    exact ⟨acc1 k (.pa 0x10000) [1, 2, 3, 4], rfl, rfl, by revert k; decide +kernel, by show (0 : Nat) ≠ 3; decide,
      by revert k; decide +kernel, by revert k; decide +kernel, by revert k; decide +kernel⟩

/-- 1 + 1 in binary32, 1 + 2 and 1 + 1 in the halves of bf16; an infinity less itself is the NaN. -/
theorem test_atomic_sums : atomicOp 1 32 0x3F800000 0x3F800000 0 = 0x40000000 ∧ atomicOp 11 32 0x3F803F80 0x3F804000 0 = 0x40004040 ∧
    atomicOp 1 32 0x7F800000 0xFF800000 0 = 0x7FC00000 ∧ atomicOp 1 32 1 1 0 = 2 := by decide +kernel
/-- ATOM.INC with the limit 2 takes 2 to 0 and 0 to 1; ATOM.DEC with it takes 0 and 3 to 2. -/
theorem test_atomics : atomicOp 9 32 2 2 0 = 0 ∧ atomicOp 9 32 0 2 0 = 1 ∧ atomicOp 10 32 0 2 0 = 2 ∧ atomicOp 10 32 3 2 0 = 2 ∧
    atomicOp 2 32 0xFFFFFFFF 1 0 = 0xFFFFFFFF := by decide +kernel
theorem witness_AtomicResults : (fread fmtF32 false 0x3F800000).isFin = true ∧ (fread fmtBf16 false 0x7F80).isInf = true ∧
    (fread fmtBf16 false 0x7FC0).isNaN = true ∧ ∀ n ∈ [32, 64], atomicOp 8 n 7 9 7 = 9 ∧ atomicOp 8 n 7 9 8 = 7 := by decide +kernel

/-! Translation: tables at 0, 0x1000, 0x2000 and 0x3000 that map 0x10000 to 0x20000; one miss. -/

def tables (leaf : Nat) : List (Nat × Nat) := [(0, 0x401), (0x1000, 0x801), (0x2000, 0xC01), (0x3080, leaf)]
def ms1 : Miss := ⟨fetchCtx, 16, [⟨3, 0x10000, 1⟩], none⟩
def walkSt (leaf : Nat) : State :=
  let s := (tables leaf).foldl (fun (s : State) e => s.sysWrite e.1 (leBytes 8 e.2)) (mk w0 g0)
  s.setDie 0 { s.die 0 with miss := [ms1] }
/-- A store's walk sets A and D; a leaf without W is TYPE 2. -/
theorem test_walk :
    got (exec (.pageWalkComplete 0 0) (walkSt 0x801F)) (fun s => ((s.die 0).miss, (s.die 0).tlb.map fun e => (e.vpn, e.ppn), s.viewNat 0x3080 8)) =
      some ([], [(16, 0x20)], 0x80DF) ∧
    got (exec (.pageWalkComplete 0 0) (walkSt 0x801B)) (fun s => ((s.die 0).miss.map fun m => m.res, s.viewNat 0x3080 8)) =
      some ([some ⟨2, 0, 0⟩], 0x801B) := by decide +kernel
def isLeaf (p : TlbEntry → Nat → Nat → Bool) (r : WalkRes) : Bool :=
  match r with
  | .leaf e a x => p e a x
  | .fault _ => false
def marks : Marked → Bool
  | .done _ => true
  | _ => false
theorem witness_PageWalks :
    (∀ leaf ∈ [0x801F, 0x801B, 0], mapFind (walkSt leaf).warps 3 = some w0 ∧ ((walkSt leaf).die 0).miss[0]? = some ms1) ∧ ms1.res = none ∧
    ((walkSt 0).walk 0 ms1.ctx 16).busy (walkSt 0) = false ∧
    (let s : State := { walkSt 0 with net := [msgOf .readShared 1 0 1 0 3 7 97] }
     ((walkSt 0).walk 0 ms1.ctx 16).busy s = true) ∧
    ((walkSt 0).walk 0 ms1.ctx 16).res = .fault ⟨0, 0, 0⟩ ∧
    (({ walkSt 0 with offline := [0] } : State).walk 0 ms1.ctx 16).res = .fault ⟨6, 3, 0⟩ ∧
    isLeaf (fun e _ _ => leafLacks 1 e.r e.w e.x) ((walkSt 0x801B).walk 0 ms1.ctx 16).res = true ∧
    isLeaf (fun e a x => !leafLacks 1 e.r e.w e.x && !e.io && marks (((walkSt 0x801F).homeTouch none a 8 false).markLeaf a x true))
      ((walkSt 0x801F).walk 0 ms1.ctx 16).res = true ∧
    (let s : State := { walkSt 0x801F with offline := [0] }
     paHomed 0x3080 = true ∧ s.isOffline 0 = true ∧ s.markLeaf 0x3080 0x801F true = .offline 0 ∧ s.markLeaf 0x3080 0x80DF true = .done s) ∧
    paOpen (mk w0 g0).attic true 0 = true ∧ paOpen (mk w0 g0).attic true (0xFFFFFFFFFFF * 4096) = false := by decide +kernel
/-- R38 and R42, entry by entry: what a PTE at the root of level `l` gives. -/
def lvl (l pte : Nat) : Option WalkFault :=
  match (walkFrom ((mk w0 g0).sysWrite 0 (leBytes 8 pte)) 0 fetchCtx 16 1 l (if l = 0 then 0xFFFFFFFFFFFFFF else 0) [] []).res with
  | .fault f => some f
  | .leaf .. => none
def lvl1 (pte : Nat) : Option WalkFault :=
  match (walkFrom ((mk w0 g0).sysWrite 0 (leBytes 8 pte)) 0 fetchCtx 16 1 1 0 [] []).res with
  | .fault f => some f
  | .leaf .. => none
theorem test_walk_levels : lvl1 0 = some ⟨0, 1, 0⟩ ∧ lvl1 0x15 = some ⟨1, 1, 0⟩ ∧ lvl1 (2 ^ 54 + 0x1F) = some ⟨1, 1, 0⟩ ∧ lvl1 (2 ^ 63 + 0x201F) = some ⟨1, 1, 0⟩ ∧
    lvl1 (3 * 2 ^ 61 + 0x1F) = some ⟨1, 1, 0⟩ ∧ lvl1 0x401F = some ⟨4, 1, 0⟩ ∧ lvl1 0x0F = some ⟨3, 1, 0⟩ ∧ lvl1 0x1F = none ∧
    lvl1 (2 ^ 61 + 1) = some ⟨1, 1, 0⟩ ∧ lvl 0 0 = some ⟨5, 0, 0⟩ := by decide +kernel

/-! Faults -/

/-- A context with a fault queue of 16 records at 0x40000. -/
def ctxQ : Ctx := { fetchCtx with nofq := false, fqsize := 4, fqbase := 0x40, fqvec := 9 }
def mkL (w : Warp) (g : Workgroup) (l : Launch) : Thread := ⟨{ mk w g with launches := [(1, l)] }, 3, w, g⟩
def tq : Thread := mkL w0 g0 { fetchLaunch with ctx := ctxQ }
def heldQ : State := tq.s.setDie 0 { Die.reset with fheld := List.replicate 512 ⟨0, 0, 0, 0, 0, 0, 0, 0, 0, 0, 0, 0⟩ }
/-- The requester of spec 02's example: ASID 0x42, core 200 (die 2), slot 19, SEQ 7; it is parked until the driver answers. -/
def parkQ : Park := ⟨0, 0x42, 7, 0x3A0000042A40, 1, 0, 0, 0, 0, none, 0⟩
def wQ : Warp := { w0 with slots := [19], pc := 0x200000001C48, paths := [⟨0x200000001C48, 0xFF, .ready, 0, some parkQ, false⟩], exec := 0, running := false }
def sQ : State := mk wQ { g0 with core := 200, die := 2 }
/-- FQCMD 0x0000_108C_84C1_C000: the path runs again. Rejected, it traps. A second one is stale, which is counted. -/
theorem test_fqcmd : got (exec (.fqcmdReplayOne 2 0x108C84C1C000) sQ) (fun s => ((warpOf s).running, (warpOf s).exec, (warpOf s).pc)) =
      some (true, 0xFF, 0x200000001C48) ∧
    got (exec (.fqcmdReplayOne 2 0x108C84C1C000) (mk w0 g0)) (fun s => (s.die 2).stale) = some 1 := by decide +kernel
def jobQ : Job := { (tq.job .flip 0 [] [] 0 none none) with park := some { parkQ with ftype := 6 } }
theorem witness_FaultsAndShootdowns :
    ((th w0 g0).ctx.nofq = true ∧ Thread.Traps { th w0 g0 with s := (th w0 g0).s.forgetMiss 0 3 0x10000 }) ∧
    (512 ≤ (heldQ.die 0).fheld.length ∧ tq.ctx.nofq = false ∧ (tq.s.die tq.die).fheld.length < 512) ∧
    (tq.w.handler = false ∧ canPark tq.w.paths ⟨0x10000, 0xFF, .ready, 0, some parkQ, false⟩ = true ∧
      canPark full16 ⟨0x10000, 0xFF, .ready, 0, some parkQ, false⟩ = false) ∧
    (let q : FaultQueue := { head := 0, tail := 1, phase := false, lastMsi := some 0 }
     let s : State := { tq.s.setDie 0 ((tq.s.die 0).setFq 0 q) with tick := 10000 }
     (s.die 0).fq 0 = q ∧ (s.die 0).fq 0 ≠ { q with lastMsi := none } ∧ q.tail ≠ q.head % (s.ctxFor 0).fqLen ∧ 0 + 10000 ≤ s.tick) ∧
    ((0x108C84C1C000 : BitVec 62).extractLsb' 54 8 = 0 ∧ (0x108C84C1C000 : BitVec 62).extractLsb' 0 14 = 0 ∧ sQ.isOffline 2 = false ∧
      FqSel.any ⟨2, 0x42, some (200, 19, 7)⟩ sQ = true ∧ FqSel.any ⟨2, 0x42, some (200, 19, 8)⟩ sQ = false) ∧
    (0 + 200000000 ≤ ({ sQ with tick := 200000000 } : State).tick ∧ jobQ.park.map (fun p => (p.ftype, p.answer)) = some (6, none)) ∧
    (let p : Park := { parkQ with ftype := 6 }
     let w : Warp := { w0 with block := some p }
     w.running = true ∧ w.paths = [] ∧ w.block = some p ∧ p.answer = none ∧ (mk w g0).accs = []) ∧
    ((mk w0 g0).mdl.mgmt < 9 ∧ (mk w0 g0).mdl.inv.length < 16 ∧ 16 ≤ (List.replicate 16 (⟨0, 0, 0, 0⟩ : InvCmd)).length) := by
  refine ⟨⟨rfl, rfl, by decide⟩, ?_, ?_, ?_, ?_, ?_, ?_, ?_⟩ <;> decide +kernel

/-! Latches and regions: 0x10000 holds a latch of VALUE 5 with a waiter on die 2, and a region table. -/

/-- A thread with s2:s3 = 0x10000, s4 = `b`, in a context whose region table is there too; its page is mapped. -/
def tl (b : Word) (regtab : Dword) : Thread :=
  let w := (w0.setSpair 2 0x10000).setSreg 4 b
  ⟨{ tc.s.sysWrite 0x10000 (leBytes 16 (5 + 2 ^ 34)) with
     warps := [(3, w)], launches := [(1, { fetchLaunch with ctx := { fetchCtx with regtab := regtab } })] }, 3, w, g0⟩
/-- s4 is the value. -/
def fl : SyF := { noSy with sa := 2, sb := 4, scope := 4 }
/-- An immediate value. -/
def fi (n : Nat) : SyF := { noSy with sa := 2, imm := BitVec.ofNat 21 n, kind := 4, scope := 4 }
def wakeMsgs (s : State) : List CtlMsg := s.ctl
theorem test_acq : got (exec (.acq (fi 5)) (tl 0 0).s) (fun s => ((warpOf s).pc, s.acqs.length)) = some (0x10008, 0) ∧
    got (exec (.acq (fi 6)) (tl 0 0).s) (fun s => (s.acqs.length, s.accs.map fun a => a.2.parts.map fun p => p.data)) =
      some (1, [[[1, 0, 0, 0]]]) := by decide +kernel
def relStall (b : Word) : State :=
  let t := tl b 0
  let w := { t.w with stall := some ⟨0x10000, [99, 0x10000], 1, leBytes 8 (5 + 2 ^ 34)⟩ }
  { t.s with warps := [(3, w)] }
/-- A REL that has been performed wakes die 2. -/
theorem test_rel : got (exec (.rel (fi 9)) (relStall 0)) (fun s => (s.ctl, (warpOf s).pc)) =
    some ([⟨0, 2, .latchWake 0x10000⟩], 0x10008) := by decide +kernel
/-- BIND of 0x20000, length 0x100, with the latch at 0x10000, to an empty table: entry 0. -/
def tb (len : Nat) (regtab : Dword) : Thread :=
  let w := ((w0.setSpair 2 0x20000).setSpair 4 (BitVec.ofNat 64 len)).setSpair 6 0x10000
  ⟨{ tc.s with warps := [(3, w)], launches := [(1, { fetchLaunch with ctx := { fetchCtx with regtab := regtab } })] }, 3, w, g0⟩
def fb : SyF := { noSy with sa := 2, sb := 4, sc := 6, imm := 40, scope := 4 }
theorem test_bind : got (exec (.bindRegion fb) (tb 0x100 0x10000).s) (fun s => (sregOf 40 s, s.viewNat 0x10018 8 % 16)) = some (0, 12) ∧
    got (exec (.bindRegion fb) (tb 0x100 0).s) (sregOf 40) = some 0xFFFFFFFF ∧
    got (exec (.bindRegion fb) (tb 0 0x10000).s) (fun s => (warpOf s).cause) = some 2 := by decide +kernel
theorem witness_LatchesAndRegions :
    ((tl 5 0).w.stall = none ∧ (tl 5 0).s.acqAt 3 0x10000 = none) ∧
    Ready (tl 5 0).s (tl 5 0) (.rel fl) (.s 2 2 2 :: valueOpd fl) true ∧ Ready (tl 5 0).s (tl 5 0) (.acq fl) (.s 2 2 2 :: valueOpd fl) true ∧
    (∃ q, (tl 5 0).latch 0x10000 = .ok q ∧ decide (q.2.1 = 0x10000 ∧ q.1.relWaits 0x10000 4 = [] ∧ q.1.w.stall = none ∧
      q.1.valueOf fl = 5) = true) ∧
    (let w := { (tl 5 0).w with stall := some ⟨0x10000, [99, 0x10000], 1, leBytes 8 5⟩ }
     let s : State := { (tl 5 0).s with warps := [(3, w)] }
     s.thread = some ⟨s, 3, w, g0⟩ ∧ s.busyUid 99 = false) ∧
    (let s : State := { (tl 5 0).s with acqs := [⟨3, 0x10000, 0, 0x10000, 0, false⟩], tick := 2000 }
     s.acqAt 3 0x10000 = some ⟨3, 0x10000, 0, 0x10000, 0, false⟩ ∧ s.thread = some ⟨s, 3, (tl 5 0).w, g0⟩) ∧
    ({ w0 with slice := 0 } : Warp).slice + 4096 ≤ ({ mk w0 g0 with clock := 4096 } : State).clock ∧
    Ready (tb 0x100 0x10000).s (tb 0x100 0x10000) (.bindRegion fb) [.s 2 2 2, .s 4 2 2, .s 6 2 2, .ds 40 1 1] true ∧
    (Running (tb 0x100 0).s (tb 0x100 0) ∧ (Instr.bindRegion { fb with scope := 1 }).wf = true ∧ (tb 0x100 0).w.handler = false ∧
      (tb 0x100 0).launch.image.trapvec ≠ 0) ∧
    Ready (tb 0 0x10000).s (tb 0 0x10000) (.bindRegion fb) [.s 2 2 2, .s 4 2 2, .s 6 2 2, .ds 40 1 1] true ∧
    (regionOf fetchCtx 0 (0x20000 + 0x100 * 2 ^ 64 + 0x10000 * 2 ^ 128 + 12 * 2 ^ 192)).isSome = true ∧
    (regionOf fetchCtx 0 (0x20000 + 0x10000 * 2 ^ 128 + 12 * 2 ^ 192)).isSome = false ∧
    (∃ q, (tb 0x100 0x10000).freeEntry 32 0 = .ok q ∧ decide (q.2 = some (0, 0x10000)) = true) ∧
    (∃ q, (tb 0x100 0x10000).address 0 1 0 0x10000 = .ok q ∧ decide (q.2.1 = 0x10000 ∧ q.1.s.paBusy 0x10000 = false) = true) ∧
    (tb 0x100 0x10000).ctx.regtab = 0x10000 ∧ (tb 0 0).ctx.regtab = 0 ∧
    Ready (tb 0 0x10000).s (tb 0 0x10000) (.unbindRegion { noSy with sa := 8 }) [.s 8 1 1] true := by
  refine ⟨?_, readyAt ?_ ?_ ?_, readyAt ?_ ?_ ?_, ok_with _ ?_, ?_, ?_, ?_, readyAt ?_ ?_ ?_, ⟨⟨?_, ?_⟩, ?_⟩, readyAt ?_ ?_ ?_, ?_, ?_, ok_with _ ?_, ok_with _ ?_,
    ?_, ?_, readyAt ?_ ?_ ?_⟩
  all_goals decide +kernel

/-- An access that waits for an offline home; a shootdown with nothing to wait for, and one that waits for an access, a blend write. -/
theorem witness_FaultsAndShootdowns_more :
    (let w : Warp := { w0 with offl := [⟨9, 0xFF, some .sg, 0, some { parkQ with ftype := 6 }⟩] }
     let s := { sa1 (acc1 .store (.pa 0x10000) [1, 2, 0, 4]) with warps := [(3, w)], tick := 200000000 }
     mapFind s.warps 3 = some w ∧ w.running = true ∧ w.block = none ∧ w.paths = [] ∧ (mapFind s.accs 9).map (fun a => a.pc) = some 0x10000 ∧
      (w.offl.map fun o => (o.uid, o.park.map fun p => (p.ftype, p.answer, p.tick))) = [(9, some (6, none, 0))]) ∧
    (mk w0 g0).shootWaits ⟨1, 0, 0, 0⟩ = false ∧ (sa1 (acc1 .store (.pa 0x10000) [1, 2, 0, 4])).shootWaits ⟨1, 0, 0, 0⟩ = true ∧
    (sa1 (acc1 .store (.pa 0x10000) [1, 2, 0, 4])).shootWaits ⟨1, 5, 0, 0⟩ = false := by decide +kernel
/-- The access ends with cause 0x0E at a boundary, which its warp's path then takes; the store is not performed. -/
theorem test_offline_timeout :
    (let w : Warp := { w0 with offl := [⟨9, 0xFF, some .sg, 0, some { parkQ with ftype := 6 }⟩] }
     got (exec (.homeOfflineTimeout (.path 3 0x10000)) { sa1 (acc1 .store (.pa 0x10000) [1, 2, 0, 4]) with warps := [(3, w)], tick := 200000000 })
      fun s => (s.accs.length, s.mem, (warpOf s).offl.length, (warpOf s).cause)) = some (0, [], 0, 0x0E) := by decide +kernel

/-- A store of 0x10000 whose home answered that it was offline, with the address it once had; it is replayed. -/
def offS : State :=
  let a := acc1 .store (.pa 0x90000) [1, 2, 0, 4]
  { tcw.s with
    accs := [(9, { a with parts := a.parts.map fun p => { p with va := 0x10000 } })]
    warps := [(3, { tcw.w with offl := [⟨9, 0xFF, some .sg, 0, none⟩] })] }
/-- The part has the address of the present translation, and the counter is up again. -/
theorem test_replay : got (exec (.memoryAccessCompletion 9 [0]) offS) (fun s => (s.accs.map fun e => e.2.parts.map fun p => (p.at_, p.done),
    ctrVal (warpOf s).pend .sg, (warpOf s).offl.length)) = some ([[(.pa 0x10000, false)]], 1, 0) := by decide +kernel
theorem witness_FaultsAndShootdowns_replay :
    (match Thread.lookup ⟨offS, 3, warpOf offS, g0⟩ (acc1 .store (.pa 0) []).code 0x10000 false with
      | (t, .ok pa nc) => decide (pa = 0x10000 ∧ nc = false ∧ t.s.warps = offS.warps ∧
          State.accRoom { t.s with accs := mapDel t.s.accs 9 } (acc1 .store (.pa 0x10000) [1, 2, 0, 4]) = true)
      | _ => false) = true ∧
    offS.away 2 = false ∧ (warpOf offS).running = true ∧ (warpOf offS).pc = 0x10000 ∧ ctrVal (warpOf offS).pend .sg < 255 ∧
    offS.parkedAcc 9 = true ∧ offS.shootWaits ⟨0, 0, 0, 0⟩ = false := by decide +kernel


/-! Engines: the matrix product of spec 13's example, a copy card, and jobs -/

def nestBytes : List Byte :=
  leBytes 4 0 ++ leBytes 4 0 ++ leBytes 4 0x20000 ++ leBytes 4 128 ++ leBytes 4 0 ++ leBytes 8 0x400000000000 ++ leBytes 4 512 ++ leBytes 4 0 ++
  leBytes 2 16 ++ leBytes 2 0 ++ leBytes 2 256 ++ leBytes 2 256 ++ [2, 1, 8, 0] ++ leBytes 16 0 ++
  (leBytes 4 2 ++ leBytes 4 0x10000 ++ leBytes 4 0 ++ leBytes 8 0x20000 ++ leBytes 2 0 ++ leBytes 10 0x0A) ++
  (leBytes 4 2 ++ leBytes 4 128 ++ leBytes 4 0x4000 ++ leBytes 8 0 ++ leBytes 2 0 ++ leBytes 10 0x05) ++ leBytes 128 0
/-- The footprint that the example derives. -/
theorem test_nest : nestValid nestBytes true = true ∧ nestValid nestBytes false = false ∧
    ((nestOf nestBytes).reads 6 6).map Reach.extent = [⟨false, 0, 0x20000⟩, ⟨false, 0x20000, 0x28000⟩] ∧
    (nestOf nestBytes).writes.map Reach.extent = [⟨true, 0x400000000000, 0x400000040000⟩] := by decide +kernel
theorem test_words_of_formats : wordOk 0x133 = true ∧ wordOk 0x866 = true ∧ wordOk 0x193 = false := by decide
/-- The example of R307: 2^17, -2^17 and 2^-43 in bf16 leave +0. -/
theorem test_pass : arrPass (arrClass 2)
    0 (decodeRun 2 128 (leBytes 2 0x4800 ++ leBytes 2 0xC800 ++ leBytes 2 0x2A00 ++ leBytes 250 0) []) (decodeRun 2 128
      (leBytes 2 0x3F80 ++ leBytes 2 0x3F80 ++ leBytes 2 0x3F80 ++ leBytes 250 0) []) = 0 := by decide +kernel

/-- A card that copies 4 f32 elements from scratch 256 to scratch 512; a GATH of one row; an all-gather of dies 0 and 1. -/
def cardBytes (type kind set ssy ssz : Nat) : List Byte :=
  [BitVec.ofNat 8 type, 0, 0, 0] ++ leBytes 2 0 ++ leBytes 2 kind ++ leBytes 8 256 ++ leBytes 8 512 ++ leBytes 4 4 ++ leBytes 2 1 ++ leBytes 2 1 ++
  leBytes 4 ssy ++ leBytes 4 ssz ++ leBytes 16 0 ++ leBytes 4 0xFFFFFFFF ++ leBytes 4 set
/-- A thread whose s8, s9 … hold `ss`, whose v2 holds `w` in every lane, with `bs` at scratch 0x30000. -/
def te (ss : List Word) (w : Word) (bs : List Byte) : Thread :=
  let g := ((List.range 8).foldl (fun (t : Thread) l => t.setVregs l 2 [w]) (th w0 g0)).g
  th (w0.setSregs 8 ss) { g with alloc := 0x40000, scratch := putScratch [] 0x30000 bs }
def fen : EnF := { noEn with vf := 2, sc := 8 }
def fcp : EnF := { noEn with sc := 8 }
theorem test_engine : got (exec (.cpy fcp) (te [0x30000] 0 (cardBytes 1 0 0 0 0)).s) (fun s => (s.jobs.length, (warpOf s).cause)) = some (1, 0) ∧
    got (exec (.gath fcp) (te [0x30000] 0 (cardBytes 1 0 0 0 0)).s) (fun s => ((warpOf s).cause, (warpOf s).trapaddr)) = some (0x10, 0x30000) ∧
    got (exec (.mstream fen) (te [0, 16, 0, 4] 0x193 []).s) (fun s => (warpOf s).cause) = some 2 := by decide +kernel
/-- No other workgroup owns the array of the small machine. -/
theorem arrayFree {t : Thread} (h : t.w.exec &&& t.w.live ≠ 0 ∧ (t.s.array t.core).owner = none) : ArrayFree t :=
  ⟨h.1, fun _ e => by rw [h.2] at e; cases e⟩
def readsCard (t : Thread) (f : EnF) (n : Nat) (bs : List Byte) : Bool :=
  (t.syncChecks f ++ [alignCheck 0x30000 64, t.reachCheck ⟨false, 0x30000, 0x30000 + 64 * n⟩]).all Option.isNone &&
    (match t.cardBytes false 0x30000 n with
     | .ok r => decide (r.2 = bs)
     | .error _ => false)
theorem witness_EngineInstructions :
    (Ready (te [] 0 []).s (te [] 0 []) (.mflip noEn) [] true ∧ Ready (te [4] 0 []).s (te [4] 0 []) (.mzero fcp) (enOpds fcp false 8 1) true ∧
     (te [4] 0 []).grp fcp 0 = 4 + 0 * 65536) ∧
    (let t := te [0, 128, 0, 4] 0x866 []
     Ready t.s t (.mloadw fen) (enOpds fen true 8 4) true ∧ Ready t.s t (.mstream fen) (enOpds fen true 8 4) true ∧ ArrayFree t ∧
     (voters t ≠ [] ∧ ∀ l ∈ voters t, (t.vreg l 2).toNat = 0x866) ∧ wordOk 0x866 = true ∧ t.grp fen 3 = 4 + 0 * 65536 ∧
     ∀ x ∈ (vecReads 6 0 128 0 128).map t.reachCheck, x = none) ∧
    (let t := te [0x1000, 0, 512, 4, 0, 0, 0, 0] 0x808 []
     Ready t.s t (.mdrain fen) (enOpds fen true 8 8) true ∧ drainWordOk 0x808 = true ∧ (t.drainOf fen 0x808).isSome = true) ∧
    (let t := te [0x30000] 0x866 nestBytes
     Ready t.s t (.mnest fen) (enOpds fen true 8 1) true ∧ ArrayFree t ∧ readsCard t fen 4 nestBytes = true ∧
     ∀ x ∈ (((nestOf nestBytes).reads 6 6) ++ (nestOf nestBytes).writes).map t.reachCheck, x = none) ∧
    (let t := te [0x30000] 0 (cardBytes 1 0 0 0 0)
     Ready t.s t (.cpy fcp) (enOpds fcp false 8 1) true ∧ t.w.exec &&& t.w.live ≠ 0 ∧ readsCard t fcp 1 (cardBytes 1 0 0 0 0) = true ∧
     (cardOf (cardBytes 1 0 0 0 0)).cpyOk (cardBytes 1 0 0 0 0) = true) ∧
    (let bs := cardBytes 2 0 0 16 1
     let t := te [0x30000] 0 bs
     Ready t.s t (.gath fcp) (enOpds fcp false 8 1) true ∧ (cardOf bs).gathOk bs = true ∧
     ∀ x ∈ ((cardOf bs).gathReads ++ (cardOf bs).cpyWrites).map t.reachCheck, x = none) ∧
    (let bs := cardBytes 3 1 3 0 0
     let t := te [0x30000] 0 bs
     Ready t.s t (.coll fcp) (enOpds fcp false 8 1) true ∧ t.s.collPlace t.die (cardOf bs) = some (0, 2) ∧ (cardOf bs).collOk bs 2 = true ∧
     (t.s.freeEntry t.core).isNone = false ∧ ctrVal t.w.pend .en < 255) := by
  refine ⟨⟨readyAt ?_ ?_ ?_, readyAt ?_ ?_ ?_, ?_⟩, ⟨readyAt ?_ ?_ ?_, readyAt ?_ ?_ ?_, arrayFree ?_, ?_, ?_, ?_, ?_⟩,
    ⟨readyAt ?_ ?_ ?_, ?_, ?_⟩, ⟨readyAt ?_ ?_ ?_, arrayFree ?_, ?_, ?_⟩, ⟨readyAt ?_ ?_ ?_, ?_, ?_, ?_⟩, ⟨readyAt ?_ ?_ ?_, ?_, ?_⟩,
    ⟨readyAt ?_ ?_ ?_, ?_, ?_, ?_, ?_⟩⟩ <;> decide +kernel
/-- No active lane; another owner; a lane that disagrees; a word that R305 refuses. -/
theorem witness_MatrixInstructionsWait : (te [] 0 []).w.exec &&& (far { w0 with exec := 0 } 0).live ≠ 0 ∧ ({ w0 with exec := 0 } : Warp).exec &&& w0.live = 0 ∧
    (((te [] 0 []).s.setArray 0 { MatArray.zero with owner := some 5 }).array 0).owner = some 5 ∧
    (let t := th w0 (gv 7 0); voters t = 0 :: [1, 2, 3, 4, 5, 6, 7] ∧ t.vreg 5 2 ≠ t.vreg 0 2) ∧ wordOk 0x193 = false ∧ drainWordOk 0x1000 = false ∧
    ctrVal (List.replicate 255 (⟨.en, 9, false⟩ : Pend)) .en = 255 := by decide +kernel

/-- Jobs in the queue of core 0. -/
def jobSt (j : Job) : State := { (te [] 0 (leBytes 16 1)).s with jobs := [(9, j)] }
def jOf (k : JobKind) : Job := (te [] 0 []).job k 0 [] [] 0 none none
def row5 : State := (jobSt (jOf (.zero 1 5))).setArray 0 { MatArray.zero with owner := some 2, acc := [(5 * 128, 7), (6 * 128, 9)] }
/-- MZERO of row 5 leaves row 6; a chunk of a drain goes to scratch, and the barrier object counts its bytes. -/
theorem test_job_zero : got (exec (.engineJobStart 9) row5) (fun s => ((s.array 0).word 5 0, (s.array 0).word 6 0)) = some (0, 9) := by decide +kernel
def drainD : Drain := ⟨false, 64, 16, 1, 0, 0, false, 0, 0, 0, false, false, 0, 8, true⟩
def jDrain : Job := { jOf (.drain drainD) with started := true, imgs := [[(64, 1), (65, 2), (96, 3)]], bar := some 0x1000 }
def chunkSt : State :=
  { jobSt jDrain with wgs := [(2, { g0 with alloc := 0x40000, scratch := putScratch [] 0x1000 (leBytes 8 (2 + 2 * 2 ^ 32)) })] }
theorem test_job_chunk : got (exec (.engineChunk 9) chunkSt) (fun s => ((mapFind s.wgs 2).map fun g => getScratch g.scratch 64 3)) =
      some (some [1, 2, 0]) ∧
    got (exec (.engineChunk 9) chunkSt) (fun s => ((mapFind s.jobs 9).map fun j => j.imgs)) = some (some [[(96, 3)]]) := by decide +kernel
theorem witness_EngineJobs :
    (∀ k ∈ ([.loadw 6 0 128 0, .flip, .zero 1 5, .drain drainD, .nest (nestOf nestBytes) 6 6 0 true, .copy (cardOf (cardBytes 1 0 0 0 0))] : List JobKind),
      mapFind (jobSt (jOf k)).jobs 9 = some (jOf k) ∧ (jobSt (jOf k)).jobReady 9 (jOf k) = true) ∧
    (jobSt { jOf .flip with saved := true }).jobReady 9 { jOf .flip with saved := true } = false ∧
    (let a : MatArray := { MatArray.zero with active := ⟨some 6, []⟩ }; a.active.fmt = some 6 ∧ a.active.fmt ≠ some 2) ∧
    (mapFind (jobSt jDrain).jobs 9 = some jDrain ∧ jDrain.started = true ∧ jDrain.saved = false ∧ jDrain.park = none ∧
      mapFind (jobSt jDrain).wgs jDrain.wg = some { (te [] 0 (leBytes 16 1)).g with active := 0 }) ∧
    (let n := nestOf nestBytes
     (n.iteration [0, 0])[0]?.isSome = true ∧ (n.iteration [0, 0])[99]? = none ∧ (MatArray.zero.suits 6) = true) ∧
    (let j := { jOf .flip with started := true }
     j.pos = none ∧ j.imgs = [] ∧ j.idx = none ∧ j.latch = none ∧ mapFind (jobSt j).jobs 9 = some j) ∧ (17 < 18) := by
  refine ⟨?_, ?_, ?_, ?_, ?_, ?_, ?_⟩ <;> decide +kernel
theorem witness_ArrayWords : ∃ col : Nat, col < 128 ∧ ∃ r : Nat, r ≠ 5 := ⟨127, by decide, 6, by decide⟩

/-! Split and fuse: a warp of 16 lanes and its halves -/

def w16 : Warp := { Warp.create 2 16 0 0 0 0 0 [0] 0x10000 0 1 0 with exec := 0xF0F3, live := 0xFFF3 }
def half (i : Nat) : Warp := w16.child i 8 [if i = 0 then 0 else 1] i 0
def fz : FuseWait := ⟨9, 0x20000, false⟩
/-- The halves as warps 3 and 4, each with its own wait in FUSE. -/
def sf (a b : Option FuseWait) : State :=
  let full (w : Warp) : Warp := { w with exec := 0xFF, live := 0xFF, wake := 0 }
  { mk w16 g0 with warps := [(3, { full (half 0) with fuse := a }), (4, { full (half 1) with fuse := b })] }
def tf (a b : Option FuseWait) : Thread := ⟨sf a b, 3, (mapFind (sf a b).warps 3).getD w0, g0⟩
theorem test_split : got (exec (.splitWarp { noWq with imm := 8, sD := 9 }) (mk w16 g0))
      (fun s => s.warps.map fun e => (e.2.width, e.2.exec, e.2.live, e.2.famOff, e.2.splitIdx)) =
      some [(8, 0xF3, 0xF3, 0, 0), (8, 0xF0, 0xFF, 8, 1)] ∧
    got (exec (.splitWarp { noWq with imm := 16, sD := 9 }) (mk w16 g0)) (fun s => (warpOf s).cause) = some 2 ∧
    got (exec (.splitWarp { noWq with imm := 8, sD := 9 }) (mk { w16 with handler := true } g0))
      (fun s => ((mapFind s.wgs 2).map fun g => g.killed)) = some (some (some 1)) ∧
    got (exec (.splitWarp { noWq with imm := 16, sD := 9 }) (mk { w16 with handler := true } g0))
      (fun s => ((mapFind s.wgs 2).map fun g => g.killed)) = some (some (some 2)) := by decide +kernel
theorem test_fuse : got (exec (.fuseRendezvous 3) (sf (some fz) (some fz))) (fun s => s.warps.map fun e => (e.2.width, e.2.exec, e.2.pc)) =
      some [(16, 0xFFFF, 0x20000)] ∧
    got (exec (.fuseWarp { noWq with sD := 9 }) (sf none none)) (fun s => (warpOf s).fuse.isSome) = some true := by decide +kernel
theorem witness_SplitAndFuse :
    (let f : WqF := { noWq with imm := 8, sD := 9 }
     Ready (mk w16 g0) (th w16 g0) (.splitWarp f) [.ds 9 1 1] true ∧
     (Running (mk w16 g0) (th w16 g0) ∧ (Instr.splitWarp { f with imm := 16 }).wf = true ∧ w16.width ≤ 16 ∧ (th w16 g0).Traps) ∧
     (let w := { w16 with handler := true }; Ready (mk w g0) (th w g0) (.splitWarp f) [.ds 9 1 1] true ∧ w.handler = true ∧ ¬ (th w g0).Traps) ∧
     w16.handler = false ∧ f.imm.toNat < w16.width ∧
     (childSlots [0] ((th w16 g0).put.slotsUsed 0) 0 0 8 2 0).isSome = true ∧ childSlots [0] (List.range 64) 0 0 8 2 0 = none) ∧
    (let f : WqF := { noWq with sD := 9 }
     Ready (sf none none) (tf none none) (.fuseWarp f) [.ds 9 1 1] true ∧ (tf none none).w.convergent = true ∧
     (sf none none).siblingLive 3 (tf none none).w = true ∧ w16.convergent = false ∧
     Ready (sf none (some fz)) (tf none (some fz)) (.fuseWarp f) [.ds 9 1 1] true ∧
     ((sf none (some fz)).sibling 3 (tf none (some fz)).w).map (fun m => (m.1, m.2.fuse)) = some (4, some fz)) ∧
    (let s := sf (some fz) (some fz)
     ∃ m, s.sibling 3 (tf (some fz) (some fz)).w = some m ∧ decide (m.2.fuse = some fz ∧ m.2.pend = [] ∧
       (tf (some fz) (some fz)).w.famOff < m.2.famOff ∧ s.fuseCheck 0 g0.k (3, (tf (some fz) (some fz)).w) m fz fz = none ∧
       fuseSlot (s.slotsUsed 0) (tf (some fz) (some fz)).w m.2 = some [0]) = true) ∧
    (8 ∈ [8, 16, 32, 64] ∧ w16.width = 2 * 8 ∧ w16.exec &&& w16.all = w16.exec ∧ w16.live &&& w16.all = w16.live ∧
      w16.helper &&& w16.all = w16.helper) := by
  refine ⟨⟨readyAt ?_ ?_ ?_, ⟨⟨?_, ?_⟩, ?_, ?_, ?_, ?_⟩, ⟨readyAt ?_ ?_ ?_, ?_, fun h => absurd h.1 ?_⟩, ?_, ?_, ?_, ?_⟩,
    ⟨readyAt ?_ ?_ ?_, ?_, ?_, ?_, readyAt ?_ ?_ ?_, ?_⟩, some_with _ ?_, ?_⟩ <;> decide +kernel

/-! Queues -/

def items (n : Nat) : Deque := ⟨0, (List.range n).map fun i => List.replicate 16 (BitVec.ofNat 32 i)⟩
def dqSt (q : Deque) : State := (mk (w0.setSreg 5 7) g0).setDeque 0 q
def tdq (q : Deque) : Thread := ⟨dqSt q, 3, w0.setSreg 5 7, g0⟩
/-- A pop takes the newest of three, a steal from core 0 the oldest. -/
theorem test_deques : got (exec (.dqpop { noWq with sD := 3, sB := 32 }) (dqSt (items 3))) (fun s => (sregOf 3 s, sregOf 32 s)) = some (0, 2) ∧
    got (exec (.dqsteal { noWq with sD := 3, sB := 32, sA := 6 }) (dqSt (items 3))) (fun s => (sregOf 3 s, sregOf 47 s)) = some (0, 0) ∧
    got (exec (.dqsteal { noWq with sD := 3, sB := 32, sA := 6 }) (dqSt (items 3))) (fun s => (s.deque 0).items.length) = some 2 ∧
    got (exec (.dqpop { noWq with sD := 3, sB := 32 }) (dqSt (items 0))) (sregOf 3) = some 1 := by decide +kernel
theorem test_dqpush : got (exec (.dqpush { noWq with sD := 3, sB := 32 }) (dqSt { items 1 with ctx := 9 })) (sregOf 3) = some 3 ∧
    got (exec (.dqpush { noWq with sD := 3, sB := 32 }) (dqSt (items 2))) (fun s => (sregOf 3 s, (s.deque 0).items.length)) = some (0, 3) := by
  decide +kernel
/-- The second of three items holds an error that cannot be corrected: a pop of it takes memory error, with no address. -/
def dqBad : State := { dqSt (items 2) with bad := [⟨.deque 0, 1, 2, false⟩] }
theorem test_deque_error : got (exec (.dqpop { noWq with sD := 3, sB := 32 }) dqBad) (fun s => ((warpOf s).cause, (warpOf s).trapaddr, (s.deque 0).items.length)) =
    some (0x0D, 0, 2) := by decide +kernel
/-- An element of one word; a queue at 0x100 of two slots, empty or full, with its slots at 0x200. -/
def qSt (head tail : Nat) : Workgroup :=
  { gv 0 0 with scratch := putScratch [] 0x100 (leBytes 4 0x200 ++ leBytes 4 2 ++ leBytes 4 head ++ leBytes 4 tail) }
def wq0 : Warp := (w0.setSreg 12 0x100)
def fq : WqF := { noWq with sD := 4, sA := 12, vb := 20, va := 8 }
theorem test_qpush : got (exec (.qpush fq) (mk wq0 (qSt 0 1))) (fun s => (sregOf 4 s, vregOf 0 20 s, vregOf 1 20 s)) = some (1, 0, 2) := by
  decide +kernel
theorem test_qpop : got (exec (.qpop fq) (mk wq0 (qSt 0 1))) (fun s => (sregOf 4 s, vregOf 0 20 s, vregOf 1 20 s)) = some (1, 0, 1) := by
  decide +kernel
theorem witness_Queues :
    ((tdq (items 3)).storeWaits 4 = [] ∧ (tdq (items 3)).w.stall = none ∧ ctrVal (tdq (items 3)).w.pend .wq < 255 ∧
      Ready (dqSt (items 3)) (tdq (items 3)) (.dqpush { noWq with sB := 32, sD := 3 }) [.s 32 16 16, .ds 3 1 1] true ∧
      Ready (dqSt (items 3)) (tdq (items 3)) (.dqpop { noWq with sB := 32, sD := 3 }) [.ds 32 16 16, .ds 3 1 1] true ∧
      Ready (dqSt (items 3)) (tdq (items 3)) (.dqsteal { noWq with sB := 32, sD := 3, sA := 5 }) [.ds 32 16 16, .ds 3 1 1, .s 5 1 1] true ∧
      Ready (dqSt (items 3)) (tdq (items 3)) (.dqsteal { noWq with imm := 1, sB := 32, sD := 3 }) [.ds 32 16 16, .ds 3 1 1] true) ∧
    ((dqBad.sramRead (.deque 0) 1 0x0F true).2 ≠ 0 ∧ (tdq (items 2)).w.handler = false ∧ (tdq (items 2)).launch.image.trapvec ≠ 0) ∧
    (256 ≤ (items 256).items.length ∧ (items 255).items.length < 256 ∧ (items 0).items = [] ∧ ((w0.setSreg 5 96).sreg 5).toNat = 96) ∧
    Ready (mk wq0 (qSt 0 1)) (th wq0 (qSt 0 1)) (.qpush fq) [.v 8 1 1, .dv 20 1 1, .s 12 1 1, .ds 4 1 1] true ∧
    Ready (mk wq0 (qSt 0 1)) (th wq0 (qSt 0 1)) (.qpop fq) [.dv 8 1 1, .dv 20 1 1, .s 12 1 1, .ds 4 1 1] true ∧
    (let t := th wq0 (qSt 0 1)
     t.spaceCheck 1 16 16 0x100 = none ∧ t.spaceCheck 1 16 16 0x108 = some 3 ∧ t.scratchPlace 1 0x100 = .scratch 2 0x100 ∧
     t.accPending (.scratch 2 0x100) 16 = false ∧ (queueWordOf 2 0x100 (leNat (getScratch t.g.scratch 0x100 16))).depth = 2 ∧
     (queueWordOf 2 0x100 (leNat (getScratch t.g.scratch 0x100 16))).esize < 5) := by
  refine ⟨⟨?_, ?_, ?_, readyAt ?_ ?_ ?_, readyAt ?_ ?_ ?_, readyAt ?_ ?_ ?_, readyAt ?_ ?_ ?_⟩, ?_, ?_, readyAt ?_ ?_ ?_, readyAt ?_ ?_ ?_, ?_⟩ <;>
    decide +kernel

/-! The Pantry: class 20 of spec 14's example (ADDI, die-local, pull, SEALVAL 0) -/

/-- Word 0 of a descriptor with an operator, QUOTA 8; its ring of two slots is at 0x10000. -/
def pdesc (op : Nat) : List (Nat × Dword) :=
  [(160, BitVec.ofNat 64 (2 ^ 63 + 2 * 2 ^ 61 + op * 2 ^ 57 + 8 * 2 ^ 32)), (161, 0x10000), (163, 0x10000), (164, 0x10000)]
/-- A thread with v2:v3 = 0x77 and v4 = 5 in its only active lane, s10 = `c`, and the Pantry of its die. -/
def tp (c : Word) (recs : List PantryRec) : Thread :=
  let g := (Thread.setVregs (Thread.setVregs (th w0 g0) 0 2 [0x77]) 0 4 [5]).g
  let w := { (w0.setSreg 10 c) with exec := 1 }
  let s : State := { tc.s with warps := [(3, w)], wgs := [(2, g)] }
  ⟨s.setUnit 0 { s.unit 0 with pantry := ⟨recs, 1, [], pdesc 0⟩ }, 3, w, g⟩
def rec20 (sealNo : Option Nat) : PantryRec := ⟨20, 0x77, 12 :: List.replicate 15 0, 2, 16, 0, 0, sealNo, 0, 0, false, .plain, false⟩
def fpq : WqF := { noWq with sA := 10, vb := 6, va := 2 }
/-- An enqueue that reaches its home, this die, and its code that comes back. -/
def penqHome (c : Word) (recs : List PantryRec) : Host.Outcome State Fault Refusal :=
  match exec (.penq { fpq with vb := 4 }) (tp c recs).s with
  | .next s =>
    match exec (.pantryenq 0) s with
    | .next s => exec (.pantrycode 0) s
    | o => o
  | o => o
/-- The first enqueue is NEW (0), with 5 in field 0; the second is FOLDED (1): 12 + 5. -/
theorem test_penq :
    got (penqHome 20 []) (fun s => ((s.unit 0).pantry.recs.map fun r => r.fields.headD 0, vregOf 0 4 s)) =
      some ([5], 0) ∧
    got (penqHome 20 [rec20 none]) (fun s => ((s.unit 0).pantry.recs.map fun r => r.fields.headD 0, vregOf 0 4 s)) =
      some ([17], 1) ∧
    got (exec (.penq { fpq with vb := 4 }) (tp 21 []).s) (fun s => ((warpOf s).cause, (warpOf s).trapimm)) = some (0x0F, 21) := by decide +kernel
def fpl : WqF := { noWq with sD := 2, sB := 64, sA := 10 }
/-- PLIFT finds nothing sealed; PLIFT.f lifts the open record: KEY, then FOLDS and its fields. -/
theorem test_plift : got (exec (.plift fpl) (tp 20 [rec20 none]).s) (sregOf 2) = some 1 ∧
    got (exec (.plift { fpl with imm := 1 }) (tp 20 [rec20 none]).s) (fun s => (sregOf 2 s, spairOf 64 s, (s.unit 0).pantry.recs.length)) =
      some (0, 0x77, 0) := by decide +kernel
theorem witness_PantryEnqueues :
    (Ready (tp 20 []).s (tp 20 []) (.penq fpq) [.v 2 2 2, .v 6 1 1, .s 10 1 1] true ∧
     Ready (tp 20 []).s (tp 20 []) (.penqW { noWq with imm := 0x20, sA := 10, va := 4, sB := 16, sD := 12 }) [.s 4 2 2, .s 10 1 1, .s 16 16 16, .ds 12 1 1] true ∧
     ((tp 20 []).s.unit 0).pantry.usable 20 0 = true ∧ ((tp 20 []).s.unit 0).pantry.usable 21 0 = false ∧
     ((tp 20 []).s.unit 0).pantry.usable 0 0 = false) ∧
    (lanesOf 8 1 ≠ [] ∧ lanesOf 8 0 = [] ∧ (tp 20 []).w.exec &&& (tp 20 []).w.live ≠ 0) ∧
    (let d : PDesc := pdescOf fun i => if i = 0 then 2 ^ 63 + 2 ^ 62 + 2 ^ 55 + 8 * 2 ^ 32 + 100 else 0
     d.v = true ∧ d.sealAge = true ∧ d.sealVal = 100 ∧ 0 + d.sealVal ≤ 100) ∧
    (let e : Enq := ⟨3, 2, 0, 20, 0, false, false, [⟨1, 0x77, [(0, [5])], [], false⟩], .lanes 4, [1]⟩
     let s : State := { (tp 20 []).s with enqs := [(9, e)], ctl := [⟨0, 1, .pantryEnq 9⟩, ⟨1, 0, .pantryCode 9⟩] }
     mapFind s.enqs 9 = some e ∧ mapFind s.enqs 8 = none ∧ s.isOffline 1 = false ∧ ({ s with offline := [1] } : State).isOffline 1 = true) := by
  refine ⟨⟨readyAt ?_ ?_ ?_, readyAt ?_ ?_ ?_, ?_, ?_, ?_⟩, ?_, ?_, ?_⟩ <;> decide +kernel

/-- A graph header of spec 14 (magic, one node, home die 0) at 0x10000. -/
def hdr (home : Nat) : List Byte := leBytes 8 0x48474E5A ++ leBytes 4 1 ++ [0, BitVec.ofNat 8 home] ++ leBytes 50 0
def tg (home : Nat) : Thread :=
  let w := w0.setSpair 12 0x10000
  ⟨{ tc.s.sysWrite 0x10000 (hdr home) with warps := [(3, w)] }, 3, w, g0⟩
theorem test_gsig : got (exec (.gsigReplay { noWq with sD := 7, sA := 12 }) (tg 0).s) (fun s => (sregOf 7 s, s.graphs.length)) = some (0, 1) ∧
    got (exec (.gsigReplay { noWq with sD := 7, sA := 12 }) (tg 9).s) (fun s => ((warpOf s).cause, (warpOf s).trapaddr)) = some (0x10, 0x10000) ∧
    got (exec (.gsigDone { noWq with imm := 1, sD := 40, sB := 33, sA := 12 }) (tg 0).s) (sregOf 40) = some 2 := by decide +kernel
theorem witness_LiftsAndDispatch :
    (Ready (tp 20 []).s (tp 20 []) (.plift fpl) [.s 10 1 1, .ds 64 32 32, .ds 2 1 1] true ∧ (tp 20 []).s.lifts = [] ∧
     (pdescOf fun i => if i = 0 then 2 ^ 63 + 2 * 2 ^ 61 + 8 * 2 ^ 32 else 0).target = 2 ∧
     ((tp 20 [rec20 none]).s.unit 0).pantry.pull 20 false = none ∧ ((tp 20 [rec20 none]).s.unit 0).pantry.pull 20 true = some 0 ∧
     ((tp 20 [rec20 (some 0)]).s.unit 0).pantry.pull 20 false = some 0) ∧
    (∃ q, (tp 20 [rec20 none]).put.liftRec 0 0 = some q ∧ decide (q.2 = 0 ∧ mapFind q.1.warps 3 = some (tp 20 []).w ∧
      (mapFind q.1.wgs 2).isSome = true) = true) ∧
    (∃ q, (tp 20 [rec20 none]).address 0 0 128 0x10000 = .ok q ∧ decide (q.2.1 = 0x10000 ∧ q.1.s.paBusy 0x10000 = false) = true) ∧
    ((tp 20 []).s.isOffline 0 = false ∧ (tp 20 []).s.mdl.stopped = false ∧ ((tp 20 []).s.unit 0).pantry.dispatchOrder = []) ∧
    (Ready (tg 0).s (tg 0) (.gsigReplay { noWq with sD := 7, sA := 12 }) [.s 12 2 2, .ds 7 1 1] true ∧
     Ready (tg 0).s (tg 0) (.gsigDone { noWq with imm := 1, sD := 40, sB := 33, sA := 12 }) [.s 12 2 2, .s 33 1 1, .ds 40 1 1] true ∧
     headerOk (hdr 0) = true ∧ headerOk (hdr 9) = false) ∧
    (∃ q, (tg 0).address 0 0 64 0x10000 = .ok q ∧ decide (q.2.1 = 0x10000 ∧ q.1.s.paBusy 0x10000 = false ∧
      q.1.accPending (.pa 0x10000) 64 = false) = true) := by
  refine ⟨⟨readyAt ?_ ?_ ?_, ?_, ?_, ?_, ?_, ?_⟩, some_with _ ?_, ok_with _ ?_, ?_, ⟨readyAt ?_ ?_ ?_, readyAt ?_ ?_ ?_, ?_, ?_⟩, ok_with _ ?_⟩ <;>
    decide +kernel

/-! Launches and placement -/

theorem test_launch_pool : got (exec (.launchInstr { noWq with sD := 9, sB := 16 }) (mk w0 g0)) (fun s => (sregOf 9 s, (s.unit 0).pantry.recs.length)) =
      some (0, 1) ∧
    got (exec (.launchInstr { noWq with sD := 9, sB := 16 }) (mkL w0 g0 { fetchLaunch with depth := 1 }).s)
      (fun s => ((warpOf s).cause, (warpOf s).trapimm)) = some (0x11, 2) ∧
    got (exec (.launchInstr { noWq with imm := 1, sD := 9, sB := 16 }) (mkL w0 g0 { fetchLaunch with depth := 1 }).s) (sregOf 9) = some 4 := by
  decide +kernel
/-- A launch of 100 workgroups in clusters of 8 with its leader on die 0 and a span on dies 0 and 1. -/
def big : Launch :=
  { fetchLaunch with image := { fetchImage with cluster := 8 }, levels := [(2, 100)], batches := [], nextIdx := 0, leader := 0, mirror := some 1
                     spans := [⟨0, 0, [], false, false, none, false⟩, ⟨1, 1, [], true, false, none, false⟩] }
def sb (c : List CtlBody) : State := { State.reset with launches := [(1, big)], ctl := c.map fun x => ⟨1, 0, x⟩ }
/-- R334: the first batch is 64 workgroups, the second the 36 that remain. -/
theorem test_batches : (big.nextBatch.map fun x => (x.1, x.2.1)) = some (0, 64) ∧
    (({ big with nextIdx := 64 } : Launch).nextBatch.map fun x => (x.1, x.2.1)) = some (64, 100) ∧
    got (exec (.batchreq 0) (sb [.batchReq 1])) (fun s => s.ctl) = some [⟨0, 1, .batchMirror 1 0 64 1⟩] := by decide +kernel
theorem witness_Launches :
    Ready (mk w0 g0) (th w0 g0) (.launchInstr { noWq with sD := 9, sB := 16 }) [.s 16 16 16, .ds 9 1 1] true ∧
    ((th w0 g0).launch.depth + 1 ≤ min 24 (th w0 g0).launch.image.maxdepth ∧ (th w0 g0).w.stall = none ∧ (th w0 g0).storeWaits 4 = [] ∧
      (th w0 g0).s.jobs = [] ∧ (th w0 g0).s.poolLen 0 < 4096) ∧
    (min 24 1 < (mkL w0 g0 { fetchLaunch with depth := 1 }).launch.depth + 1) ∧
    (0x100000 ≤ 0x103FC0 ∧ 0x103FC0 < 0x104000 ∧ 0x103FC0 % 64 = 0 ∧ (0x103FC0 - 0x100000) / 64 = 255 ∧ 0x100001 % 64 ≠ 0) ∧
    (∀ c ∈ ([.launchFwd 1, .batchReq 1, .batchGrant 1 0 64, .batchMirror 1 0 64 0, .batchMirror 1 0 64 1, .batchDone 1 0 64 1] : List CtlBody),
      mapFind (sb [c]).launches 1 = some big ∧ (sb [c]).ctl = [] ++ ⟨1, 0, c⟩ :: []) ∧
    (∃ x, big.nextBatch = some x ∧ decide (x.2.2.mirror = some 1 ∧ big.leader ≠ 1) = true) ∧
    (∃ x, ({ big with mirror := none } : Launch).nextBatch = some x ∧ decide (x.2.2.mirror = none) = true) ∧
    (big.lost = false ∧ big.again = [] ∧ big.nextIdx < levelProduct big.levels 2 ∧
      levelProduct big.levels 2 ≤ ({ big with nextIdx := 100 } : Launch).nextIdx ∧ ({ big with nextIdx := 100 } : Launch).nextBatch = none) := by
  refine ⟨readyAt ?_ ?_ ?_, ?_, ?_, ?_, ?_, some_with _ ?_, some_with _ ?_, ?_⟩ <;> decide +kernel

/-- The fetch launch with one workgroup granted to die 0 and not placed yet. -/
def granted : State := { State.reset with nextUid := 10, launches := [(1, { fetchLaunch with spans := [⟨0, 0, [⟨0, 0, 0, 1, 0, 1⟩], false, true, none, false⟩] })] }
/-- It is placed on core 0: a warp of 8 lanes at the entry. A die that is offline places nothing. -/
theorem test_placement : got (exec (.workgroupPlacement 0) granted) (fun s => s.warps.map fun e => (e.2.width, e.2.exec, e.2.pc)) =
      some [(8, 0xFF, fetchImage.base + fetchImage.entry)] ∧
    got (exec (.workgroupPlacement 0) { granted with offline := [0] }) (fun s => s.warps.length) = some 0 := by decide +kernel
def isPlaced (x : PlaceRes) : Bool :=
  match x with
  | .placed _ => true
  | _ => false
def isHeld (x : PlaceRes) : Bool :=
  match x with
  | .held => true
  | _ => false
/-- The cores of die 0 all grow their carve-outs: the launch is held back; when it holds back others, the younger one that would need none waits. -/
def heldSt (blocking : Bool) : State :=
  { granted with
    cores := (List.range 96).map fun c => (c, { Core.reset with resize := some ⟨2⟩ })
    launches := [(1, { fetchLaunch with spans := [⟨0, 0, [⟨0, 0, 0, 1, 0, 1⟩], false, true, none, blocking⟩] }),
      (2, { fetchLaunch with order := fetchLaunch.order + 1, spans := [⟨0, 0, [], false, true, none, false⟩] })] }
/-- A workgroup that has been stopped and has drained, and one that is saved, with a save area. -/
def stoppedSt (p : WgPhase) : State := ({ mk { w0 with pend := [] } { g0 with phase := p } with jobs := [] }).setReg 0 0x10308 0x10000000
theorem witness_Placement :
    (granted.placing 0 = true ∧ ({ granted with offline := [0] } : State).placing 0 = false ∧
     ((granted.askAll 0).inOrder 0).map (fun e => e.1) = [1] ∧ isPlaced ((granted.askAll 0).tryPlace 0 1) = true ∧
     ((mk w0 g0).inOrder 0 |>.all fun e => decide ((mk w0 g0).tryPlace 0 e.1 = .nothing)) = true) ∧
    ((heldSt true).placing 0 = true ∧ (((heldSt true).askAll 0).inOrder 0).map (fun e => e.1) = [1, 2] ∧ isHeld (((heldSt true).askAll 0).tryPlace 0 1) = true ∧
      ((((heldSt true).askAll 0).launch 1).span 0).any (fun y => y.blocking) = true ∧
      ((((heldSt false).askAll 0).launch 1).span 0).any (fun y => y.blocking) = false ∧ isHeld (((heldSt false).askAll 0).tryPlace 0 1) = true) ∧
    ((stoppedSt .draining).wgs.map (fun e => (e.2.die, e.2.phase)) = [(0, .draining)] ∧ (stoppedSt .draining).drained 2 = true ∧
     (stoppedSt .placed).placing 0 = true ∧ (stoppedSt .placed).reg 0 0x10308 ≠ 0) ∧
    ((stoppedSt .saved).restoreFit 2 { g0 with phase := .saved } 0).isSome = true ∧ (fetchLaunch.prio ≤ 7 ∧ ((stoppedSt .saved).slotsUsed 0).length ≤ 64) ∧
    ((stoppedSt .saved).placing 0 = true ∧ (stoppedSt .saved).wgs = [(2, { g0 with phase := .saved })] ∧ (stoppedSt .saved).launch 1 = fetchLaunch ∧
     fetchLaunch.coop = false ∧ ((stoppedSt .saved).core 0).resize = none ∧
     (let s : State := { stoppedSt .saved with launches := [(1, { fetchLaunch with coop := true })] }
      (s.launch 1).coop = true ∧ (restoreAll (fun c => (s.core c).resize.isNone) [2] s).isSome = true)) ∧
    (let k : Core := { Core.reset with resize := some ⟨2⟩ }
     let s : State := { mk w0 g0 with cores := [(0, k)] }
     (s.core 0).resize = some ⟨2⟩ ∧ (({ mk w0 g0 with cores := [(0, { Core.reset with carve := 3 })] } : State).core 0).carve = 3 ∧
     carveOf (gransHi ((mk w0 { g0 with alloc := 0 }).gransOn 0)) < 3 ∧ (mk w0 { g0 with alloc := 0 }).coreWanted 0 = false) := by decide +kernel

/-- An image of one byte at 0x40000000, as it was written and changed since. -/
theorem witness_SaveImages : (mk w0 g0).imageOk ⟨[(0x40000000, 1)], [0]⟩ = true ∧ (mk w0 g0).imageOk ⟨[(0x40000000, 1)], [1]⟩ = false := by
  decide +kernel

theorem test_status : ({ fetchLaunch with kill := some (5, 0x13) } : Launch).status = 0x80070513 ∧ fetchLaunch.status = 0x80000000 := by decide
theorem test_watchdog : got (exec (.workgroupWatchdog 2) { mk w0 g0 with tick := 100000000 }) (fun s => ((warpOf s).cause, (warpOf s).handler)) =
      some (0x15, true) ∧
    got (exec (.workgroupWatchdog 2) { mk w0 g0 with tick := 99999999 }) (fun s => (warpOf s).cause) = some 0 := by decide +kernel
def overSt : State := { State.reset with launches := [(1, fetchLaunch)] }
theorem witness_EndsAndWatchdog :
    (mapFind ({ State.reset with upds := [(1, ⟨0, fetchCtx, 0x10000, 1, .launch, none, 0⟩)] } : State).upds 1).map (fun u => u.park.isNone) = some true ∧
    mapFind overSt.upds 1 = none ∧ mapFind overSt.launches 1 = some fetchLaunch ∧
    overSt.launchOver 1 { fetchLaunch with batches := [] } = true ∧ overSt.launchOver 1 { fetchLaunch with batches := [⟨0, 0, 1, 1, true⟩] } = false ∧
    (let s : State := { mk w0 g0 with tick := 100000000 }
     mapFind s.wgs 2 = some g0 ∧ g0.phase = .placed ∧ s.reg g0.die 0x80100 % 2 ^ 32 = 100000 ∧ g0.active + 100000 * 1000 ≤ s.tick ∧
     s.warpsOf 2 = [(3, w0)] ∧ w0.ended = false ∧ w0.midway = false ∧ w0.warpid ≤ 32 ∧ w0.wg = 2 ∧ (s.launch 1).image.trapvec ≠ 0) := by decide +kernel

/-! Graphs: one notify node (vector 5) in a table at 0x10000, which the page tables map. -/

def nodeBytes : List Byte := leBytes 8 3 ++ leBytes 8 0 ++ leBytes 8 0 ++ leBytes 4 0xFFFFFFFF ++ leBytes 4 0 ++ leBytes 8 5 ++ leBytes 24 0
def gr (run : Option Run) (held : Option Replay) : Graph := ⟨0, fetchCtx, 0x10000, run, held, none, 0, 0, none⟩
def run1 (ready issued : List Nat) : Run := ⟨1, 50, 0, ready, issued, [], [], true, []⟩
def sg (g : Graph) : State :=
  { ((walkSt 0x40DF).sysWrite 0x10000 (hdr 0)).sysWrite 0x10040 nodeBytes with graphs := [(6, g)], tick := 100 }
/-- A replay that waited for a free entry (R350) starts when it takes effect: at 100, not at its arrival. -/
theorem test_graph_waited :
    got (exec (.graphRunStart 6) (sg (gr none (some ⟨90, false, none, true⟩)))) (fun s => (mapFind s.graphs 6).bind fun g => g.run.map fun r => r.start) =
      some (some 100) := by decide +kernel
/-- A run begins with generation 1 and node 0 ready; its release raises MSI 5; its completion ends the run and the graph. -/
theorem test_graph :
    got (exec (.graphRunStart 6) (sg (gr none (some ⟨90, false, none, false⟩)))) (fun s => ((mapFind s.graphs 6).bind fun g => g.run.map fun r => (r.gen, r.start, r.ready))) =
      some (some (1, 90, [0])) ∧
    got (exec (.graphNodeRelease 6 0) (sg (gr (some (run1 [0] [])) none))) (fun s => s.msis.map fun m => (m.vector, m.tick)) = some [(5, 100)] ∧
    got (exec (.graphdone 0) { sg (gr (some (run1 [] [0])) none) with ctl := [⟨0, 0, .graphDone 6 0 1⟩] }) (fun s => s.graphs.length) = some 0 := by
  decide +kernel
def okIo {α : Type} (p : α → Bool) (x : PartIo α) : Bool :=
  match x with
  | .ok a => p a
  | .error _ => false
theorem witness_Graphs :
    (let g := gr none (some ⟨90, false, none, false⟩)
     mapFind (sg g).graphs 6 = some g ∧ (sg g).trackedAt 0 6 = true ∧ (sg g).isOffline 0 = false ∧ 90 ≤ (sg g).tick ∧
     okIo (fun _ => true) (g.begin_ (sg g) 6 90 ⟨90, false, none, false⟩) = true) ∧
    (let g := { gr none none with ending := some (0, 1) }
     mapFind (sg g).graphs 6 = some g ∧ okIo (fun _ => true) (g.slip (sg g) 1 0 0xFFFFFFFF) = true ∧
     (match g.slip { sg g with net := [msgOf .readShared 1 0 1 0 3 7 0x200] } 1 0 0xFFFFFFFF with | .error .busy => true | _ => false) = true) ∧
    (let r := { run1 [] [] with rooted := false }
     okIo (fun _ => true) ((gr (some r) none).root (sg (gr (some r) none)) 6 r) = true) ∧
    (let r := run1 [0] []
     let g := gr (some r) none
     0 ∈ r.ready ∧ okIo (fun x => decide (r.start + x.2.rel ≤ 100) && okIo (fun _ => true) (g.issue_ x.1 6 r 0 x.2)) (g.node (sg g) 0) = true) ∧
    (let r := run1 [] [0]
     let g := gr (some r) none
     0 ∈ r.issued ∧ 0 ∉ r.finished ∧ okIo (fun _ => true) (g.nodeDone (sg g) 6 r 0) = true ∧
     okIo (fun x => decide (0 < fieldAt x.2 8 4) && okIo (fun y => decide (y.2.dead = 0xFFFFFFFF)) (g.node x.1 0)) (g.header (sg g)) = true) ∧
    (let s := sg (gr none none)
     (s.readCtx 0).isSome = false ∧ s.isOffline 0 = false ∧ okIo (fun x => headerOk x.2) (s.partRead 6 0 fetchCtx 0x10000 64) = true ∧
     ((s.sysWrite 0 (leBytes 8 (9 * 2 ^ 60) ++ leBytes 8 0 ++ leBytes 8 0 ++ leBytes 40 1)).readCtx 0).isSome = true) := by decide +kernel

/-! Graphics instructions -/

/-- A texture of one RGBA8 texel (FF, 0, 80, 0 from low to high) at 0x10100, described in s16 to s23, with a sampler; v2.. as given. -/
def tt (fmt levels : Nat) (root : Dword) : Thread :=
  let w := ((w0.setSregs 16 [0x10100, 0, 0, BitVec.ofNat 32 (fmt + levels * 256), 0, 0, 0, 0, 0x100]).setSpair 32 root).setSpair 34 0x10200
  ⟨{ tc.s.sysWrite 0x10100 (leBytes 4 0x008000FF) with warps := [(3, w)] }, 3, w, g0⟩
def ftex : GxF := { noGx with sdesc := 16, va := 2, vd := 8 }
theorem test_texf : got (exec (.texf ftex) (tt 0 1 0).s) (fun s => s.accs.map fun a => ((a.2.parts.map fun p => p.data).headD [])) =
      some [leBytes 4 0x3F800000 ++ leBytes 4 0 ++ leBytes 4 0x3F008081 ++ leBytes 4 0] ∧
    got (exec (.texf ftex) (tt 11 1 0).s) (fun s => (warpOf s).cause) = some 2 := by decide +kernel
/-- A node of no children at 0x10000: no lane hits anything. -/
def ftrav : GxF := { noGx with sdesc := 32, va := 16, vd := 12 }
theorem test_trav : got (exec (.trav ftrav) (tt 0 1 0x10000).s) (fun s => s.accs.map fun a => ((a.2.parts.map fun p => p.data).headD [])) =
      some [leBytes 4 0xFFFFFFFF ++ leBytes 4 0x7F800000 ++ leBytes 8 0] ∧
    got (exec (.trav ftrav) (tt 0 1 0x10040).s) (fun s => ((warpOf s).cause, (warpOf s).trapaddr)) = some (3, 0x10040) := by decide +kernel
/-- The ray along z from (1/4, 1/4, -1) hits the triangle (0,0,0), (1,0,0), (0,1,0) at t = 1, u = v = 1/4. -/
theorem test_ray : (rayHit [0x3E800000, 0x3E800000, 0xBF800000] [0, 0, 0x3F800000]
      ⟨[0, 0, 0, 0x3F800000, 0, 0, 0, 0x3F800000, 0], 5, 0, 0⟩).map (fun h => (h.prim, h.t, h.u, h.v)) =
      some (5, 0x3F800000, 0x3E800000, 0x3E800000) ∧
    rayHit [0x3F800000, 0x3F800000, 0xBF800000] [0, 0, 0x3F800000] ⟨[0, 0, 0, 0x3F800000, 0, 0, 0, 0x3F800000, 0], 5, 0, 0⟩ = none := by decide +kernel
def isOk {ε α : Type} (p : α → Bool) (x : Except ε α) : Bool :=
  match x with
  | .ok a => p a
  | .error _ => false
theorem witness_Textures :
    Ready (tt 0 1 0).s (tt 0 1 0) (.tex ftex) ([.dv 8 4 4, .v 2 2 2, .s 16 12 4] ++ gxGuard ftex) true ∧
    Ready (tt 0 1 0).s (tt 0 1 0) (.texf { ftex with va := 4 }) ([.dv 8 4 4, .v 4 3 2, .s 16 8 4] ++ gxGuard ftex) true ∧
    gxMask (tt 0 1 0) ftex ≠ 0 ∧ (tt 0 1 0).Traps ∧
    ((texDescOf [0x10100, 0, 0, 0x100, 0, 0, 0, 0]).isSome = true ∧ (samplerOf [0x100, 0, 0, 0]).isSome = true ∧ texDescOf [0x10101] = none ∧
     samplerOf [3] = none) ∧ isOk (fun q => q.2 == [0x008000FF]) ((tt 0 1 0).gxLoad 4 [0x10100]) = true ∧ (0 < 1 ∧ 3 < 4) := by
  refine ⟨readyAt ?_ ?_ ?_, readyAt ?_ ?_ ?_, ?_, ⟨?_, ?_⟩, ?_, ?_, ?_⟩ <;> decide +kernel
theorem witness_TraceRays : Ready (tt 0 1 0x10000).s (tt 0 1 0x10000) (.trav ftrav) ([.dv 12 4 4, .v 16 8 8, .s 32 4 4] ++ [] ++ gxGuard ftrav) true ∧
    gxMask (tt 0 1 0x10000) ftrav ≠ 0 ∧ isOk (fun q => q.2.isEmpty) (walkTree 0x10000 0x10200 64 0x10000 (tt 0 1 0x10000)) = true ∧
    isOk (fun _ => true) (walkTree 0x10040 0x10200 64 0x10040 (tt 0 1 0x10040)) = false ∧ ([0, 0, 0] : List Nat).length = 3 := by
  refine ⟨readyAt ?_ ?_ ?_, ?_, ?_, ?_, ?_⟩ <;> decide +kernel

/-- The width-8 wave of spec 15's example: quad A in lanes 0 to 3 on (4, 6), (5, 6), (4, 7), (5, 7), of which lane 3 is a helper; quad B live. -/
def frag (l : Nat) : Frag := ⟨4 + l % 2, 6 + l / 2 % 2, 0, some (4 * (l / 4)), l % 4, l, l == 3, 0, false, false⟩
def waveG : Workgroup := { g0 with frags := (List.range 8).map fun l => (l, frag l) }
def waveW : Warp := ((({ w0 with live := 0xF7, helper := 0x08 } : Warp).setSreg 6 7).setSregs 24 [0x10000, 0, 64, 0]).setSregs 28 [0x10000, 0, 8, 8]
def jobF (ty : Nat) : FrameJob := ⟨[BitVec.ofNat 8 ty], fetchCtx, .launched 1, [], [], none, 0⟩
def waveS (ty : Nat) : State :=
  let s : State := { tc.s with warps := [(3, waveW)], wgs := [(2, waveG)], launches := [(1, { fetchLaunch with purpose := .frame 0 })] }
  s.setUnit 0 { s.unit 0 with frame := some (jobF ty) }
def tw8 (ty : Nat) : Thread := ⟨waveS ty, 3, waveW, waveG⟩
def fkill : GxF := { noGx with gs := 6, gen := true }
def femit : GxF := { noGx with sdesc := 24, va := 4 }
def fvisr : GxF := { noGx with mode := 1, sdesc := 28, vd := 2 }
/-- KILL ?s6 with s6 = 7 leaves quad A without a live lane, so its helper goes too. -/
theorem test_kill : got (exec (.kill fkill) (waveS 3)) (fun s => ((warpOf s).live, (warpOf s).helper, (warpOf s).exec)) = some (0xF0, 0, 0xF0) := by
  decide +kernel
theorem test_emit : got (exec (.emit femit) (waveS 3)) (fun s => ((s.unit 0).blend0.length + (s.unit 0).blend1.length, (warpOf s).pc)) =
      some (7, 0x10008) ∧ got (exec (.emit femit) (mk waveW g0)) (fun s => (warpOf s).cause) = some 2 := by decide +kernel
theorem test_visr : got (exec (.visr fvisr) (waveS 3)) (fun s => s.accs.map fun a => a.2.parts.map fun p => p.at_)  =
    some [(List.range 8).map fun l => .pa (0x10000 + 8 * ((6 + l / 2 % 2) * 8 + 4 + l % 2))] := by decide +kernel
theorem witness_FragmentWaves :
    (Ready (waveS 3) (tw8 3) (.kill fkill) (gxGuard fkill) true ∧ gxMask (tw8 3) fkill ≠ 0 ∧ (tw8 3).g.frags ≠ [] ∧
     Ready (mk w0 g0) (th w0 g0) (.kill noGx) (gxGuard noGx) true ∧ (th w0 g0).g.frags = [] ∧ 7 < waveW.width ∧
     mapFind waveG.frags (waveW.famOff + 3) = some (frag 3)) ∧
    (Ready (waveS 3) (tw8 3) (.visr fvisr) ([.dv 2 2 2, .s 28 4 4] ++ [] ++ gxGuard fvisr) true ∧
     Ready (waveS 3) (tw8 3) (.visr { fvisr with mode := 0, va := 4 }) ([.dv 2 2 2, .s 28 4 4] ++ [.v 4 2 2] ++ gxGuard fvisr) true ∧
     (tw8 4).frameJob.map (fun j => j.desc.headD 0) = some 4 ∧ (tw8 3).frameJob.map (fun j => j.desc.headD 0) = some 3 ∧
     isOk (fun q => q.2.length == 1) ((tw8 3).places 1 0 0 8 8 [(0, 0x101A0)]) = true) ∧
    (Ready (waveS 3) (tw8 3) (.emit femit) ([.v 4 4 4, .s 24 4 4] ++ gxGuard femit) true ∧ (targetOf [0x10000, 0, 64, 0]).isSome = true ∧
     targetOf [0x10001, 0, 64, 0] = none ∧ (tw8 3).launch.purpose = .frame 0 ∧ ((tw8 3).s.unit 0).frame = some (jobF 3) ∧
     ((tw8 3).acceptAll (jobF 3) [0, 1, 2, 4, 5, 6, 7]).isSome = true ∧ (∀ l ∈ [0, 1, 2], (frag l).accepted = false) ∧
     isOk (fun q => q.2.length == 1) ((tw8 3).addresses 1 1 0 [0x10190]) = true) := by
  refine ⟨⟨readyAt ?_ ?_ ?_, ?_, ?_, readyAt ?_ ?_ ?_, ?_, ?_, ?_⟩, ⟨readyAt ?_ ?_ ?_, readyAt ?_ ?_ ?_, ?_, ?_, ?_⟩,
    ⟨readyAt ?_ ?_ ?_, ?_, ?_, ?_, ?_, ?_, ?_, ?_⟩⟩ <;> decide +kernel

/-! Coherence: the line L of spec 04's example, 0x0100_0000_4000 -/

def xL : Nat := 0x200000080
theorem test_sets : l2Slot xL = 60 * 512 + 308 ∧ dirLine .eighth xL * 128 = 0x18F00004000 ∧ atticTagLine .eighth 0 xL * 128 = 0x8E0000C000 ∧
    atticDataLine .eighth 0 xL 3 * 128 = 0x7E000C0180 := by decide +kernel
theorem test_entry_words : (⟨.em, 0, 1, 0, 0x80⟩ : DirEntry).word = 0xA001000000000080 ∧ (⟨.o, 0, 5, 0, 0x80⟩ : DirEntry).word = 0xC005000000000080 ∧
    (⟨.em, 3, 8, 0, 0x80⟩ : DirEntry).word = 0xA608000000000080 ∧ (⟨.m, 2, 0, xL⟩ : AtticTag).word = 0xC020000200000080 ∧
    (⟨.o, 2, 0, xL⟩ : AtticTag).word = 0xB020000200000080 := by decide
/-- L's directory entry, and L in M with sector 1 dirty in way 3 of die 0's Attic, as phase 2 leaves them. -/
def sL : State := (State.reset.sysWrite (dirLine .eighth xL * 128) (leBytes 8 0xA001000000000080)).sysWrite
  (atticTagLine .eighth 0 xL * 128 + 24) (leBytes 8 0xC020000200000080)
def msg (c : CohCode) (src dst req cd : Nat) : CohMsg := ⟨c, src, dst, req, cd, 0, 0, 7, xL, 0, 0⟩
/-- Phase 3: the home snoops die 0, which forwards its data with grant S, answers FWD_DIRTY, and keeps the line in O. -/
theorem test_phase3 :
    got (exec (.readshared 0) { sL with net := [msg .readShared 2 1 2 0] }) (fun s => s.net.map fun m => (m.code, m.src, m.dst, m.req)) =
      some [(.snpShared, 1, 0, 2)] ∧
    got (exec (.snpshared 0) { sL with net := [msg .snpShared 1 0 2 0] }) (fun s => s.net.map fun m => (m.code, m.dst, m.cd)) =
      some [(.dataFwd, 2, 0), (.ack, 1, 4)] ∧
    got (exec (.snpshared 0) { sL with net := [msg .snpShared 1 0 2 0] }) (fun s => memNat s.mem (atticTagLine .eighth 0 xL * 128 + 24) 8) =
      some 0xB020000200000080 := by decide +kernel
/-- All 16 ways of L's set in die 1's L2 are kept for answers that have not come: an atomic at the home waits for a way (R97). -/
def fullSet : State :=
  let l2 : List (Nat × L2Line) := (List.range 16).map fun w => (l2Slot xL * 16 + w, ⟨1000 + w, .s, 0, 0, 0, 0, none, false, false, none, 0⟩)
  let reqs : List OpenReq := (List.range 16).map fun w => ⟨w, 1000 + w, .readOwn, false, none, false, false, .i, false, false, false, none, 0⟩
  { sL.setDie 1 { sL.die 1 with l2 := l2, reqs := reqs } with net := [msg .atomic 2 1 2 0] }
theorem test_atomic_room : got (exec (.atomicMsg 0) fullSet) (fun s => ((s.die 1).txns.map fun t => t.phase, s.net.length)) =
    some ([.room], 0) := by decide +kernel
theorem witness_CoherenceRequests :
    (∀ c ∈ ([.readShared, .readOwn, .upgrade, .atomic, .readNC, .writeNC] : List CohCode),
      let m := msg c 2 1 2 0
      let s : State := { sL with net := [m] }
      s.net = [] ++ m :: [] ∧ s.isOffline 1 = false ∧ s.routed 2 1 = true ∧ s.homeBusy 1 xL = false ∧ s.recalling 1 = false ∧ (s.die 1).queue = [] ∧
      (s.dirFind xL).isSome = true ∧ (snoopsOf m 1 (s.dirView xL)) ≠ []) ∧
    (((fullSet.die 1).l2Find xL).isSome = false ∧ ((fullSet.die 1).l2Way xL).isSome = false ∧ fullSet.homeBusy 1 xL = false) ∧
    (({ sL with offline := [1] } : State).isOffline 1 = true ∧
     snoopsOf (msg .readShared 2 1 2 0) 1 (State.reset.dirView xL) = [] ∧ State.reset.dirVictim xL = none ∧ 1024 ≤ (List.replicate 1024 (msg .readOwn 2 1 2 0)).length) ∧
    (DirSt.em ≠ .s ∧ 0 ≠ (msg .readShared 2 1 2 0).src ∧ (5 : BitVec 9).getLsbD 2 = true) := by decide +kernel
/-- A transaction of die 2's read holds L at its home, whose owner, die 0, has sent a WriteBack. -/
def busyHome : State :=
  let t : HomeTxn := ⟨msg .readShared 2 1 2 0, 0, .snoops, [0], true, none, false, false, [], false⟩
  { sL.setDie 1 { sL.die 1 with txns := [t] } with net := [msg .writeBack 0 1 0 0] }
/-- It is acknowledged at once; the transaction has seen it and still waits for the reply to its snoop (R94). -/
theorem test_busy_writeback : got (exec (.writeback 0) busyHome) (fun s => (s.net.map fun m => (m.code, m.dst), (s.die 1).txns.map fun t => (t.wbSeen, t.waits))) =
    some ([(.ack, 0)], [([xL], [0])]) := by decide +kernel
theorem witness_CoherenceReplies :
    ((busyHome.die 1).txns.find? fun w => w.holds xL).isSome = true ∧
    (let c : Core := { Core.reset with l1 := [(l1Set xL * 16, ⟨xL, .m, 0xFF, 4, 0, 0, none⟩)] }
     ({ sL with cores := [(0, c)], bad := [⟨.l1 0, xL, 2, false⟩] } : State).l1Lost 0 xL = true ∧ sL.l1Lost 0 xL = false) ∧
    (∀ c ∈ ([.snpShared, .snpInv, .backInv] : List CohCode),
      let m := msg c 1 0 2 0
      let s : State := { sL with net := [m] }
      s.net = [] ++ m :: [] ∧ s.isOffline 0 = false ∧ (s.die 0).wbs = [] ∧ (s.snoopCopy 0 xL (if c = .snpShared then .share else .take) true).2.map (fun x => (x.1, x.2.1)) = some (.m, 2) ∧
      (s.snoopCopy 0 xL (if c = .snpShared then .share else .take) true).1.badMask (.attic 0) xL = 0 ∧ s.routed 1 0 = true) ∧
    ((State.reset.snoopCopy 0 xL .share true).2 = none) ∧
    (let m := msg .writeBack 0 1 0 0
     let s : State := { sL with net := [m] }
     s.isOffline 1 = false ∧ (s.die 1).txns = [] ∧ (s.dirFind xL).map (fun e => (e.2.owner, e.2.st)) = some (0, .em)) ∧
    (let s := sL.setDie 0 { sL.die 0 with wbs := [(xL, 7)] }; (xL, 7) ∈ (s.die 0).wbs ∧ homeOf xL = 1) ∧
    (let r : OpenReq := ⟨7, xL, .readShared, false, none, false, false, .i, false, false, false, none, 0⟩
     let s := sL.setDie 2 { sL.die 2 with reqs := [r] }
     (s.die 2).reqAt 7 = some r ∧ (s.die 2).txns = [] ∧ ((s.reqGo 2 { r with got := some (0, 0), grant := .s, final := true }).die 2).reqs = [] ∧
     (sL.die 2).reqAt 7 = none) ∧
    (let t : HomeTxn := ⟨msg .readShared 2 1 2 0, 0, .snoops, [0], true, none, false, false, [], false⟩
     let s := sL.setDie 1 { sL.die 1 with txns := [t] }
     ((s.die 1).txnWaiting 0 xL).isSome = true ∧ ((s.die 1).txnWaiting 3 xL).isSome = false) := by decide +kernel

/-! Frame jobs -/

/-- Spec 15's Skim example, W = H = 8: sources as (pixel, PRIM, ZR, dx), every other source cleared. -/
def skimSrc : List (Nat × Nat × Nat × Nat) :=
  [(9, 10, 0x40000000, 0x3C00), (10, 11, 0x40400000, 0), (13, 12, 0x40800000, 0x3800), (19, 13, 0x3F800000, 0x3C00), (20, 14, 0x3F800000, 0)]
def skimBest : Best := skimSrc.foldl (fun b x => skimSource 8 8 b x.1 (x.2.1 * 2 ^ 32 + x.2.2.1) (x.2.2.1 * 2 ^ 32 + x.2.2.2)) []
def zp42 : List Nat := List.replicate 64 0x40866666
def primAt (k i : Nat) : Option Nat := ((skimOut skimBest k (some (zp42.set 10 0x40000000 |>.set 20 0x3F800000)) 64)[i]?).map fun e => e / 2 ^ 32
/-- (2, 1) takes PRIM 10 and (4, 2) PRIM 13; (5, 1) keeps PRIM 12 under K = 4 and not under K = 5; (1, 1) is a hole. -/
theorem test_skim : (primAt 4 10, primAt 4 20, primAt 4 13) = (some 10, some 13, some 12) ∧ primAt 5 13 = primAt 4 9 ∧ primAt 5 13 ≠ some 12 := by
  decide +kernel
/-- A descriptor of a Skim of one tile: entries at 0x10000, motion at 0x10200, its results at 0x10400 and 0x10600; of another type with `n` records. -/
def fjDesc (ty n : Nat) : List Byte :=
  [BitVec.ofNat 8 ty, 0] ++ leBytes 2 8 ++ leBytes 2 8 ++ [0, 0] ++ leBytes 8 0x10000 ++ leBytes 8 0x10200 ++ leBytes 8 0x10400 ++
    leBytes 8 0x10600 ++ leBytes 8 0 ++ leBytes 8 0 ++ leBytes 4 n ++ leBytes 4 0
def fj (ty n : Nat) (st : FrameStage) : FrameJob := ⟨fjDesc ty n, fetchCtx, st, [], [], none, 0⟩
def fjSt (j : FrameJob) : State := let s := walkSt 0x40DF; s.setUnit 0 { s.unit 0 with frame := some j }
theorem test_frame_port : got (exec (.frameJobSubmission 0 0x70000 (fjDesc 1 0)) State.reset) (fun s => (s.unit 0).waiting.length) = some 1 ∧
    got (exec (.frameJobSubmission 0 0x70008 (fjDesc 1 0)) State.reset) (fun s => (s.unit 0).waiting.length) = some 0 := by decide +kernel
theorem test_forward : got (exec (.forwardRasterJob 0) (fjSt (fj 4 3 .fresh))) (fun s => ((s.unit 0).frame.map fun j => j.stage)) =
    some (some (.raster 0)) := by decide +kernel
/-- A completed job leaves the die free for the next. -/
theorem test_frame_end : got (exec (.frameJobCompletion 0) (fjSt (fj 1 0 (.ended 0x80000000)))) (fun s => (s.unit 0).frame) = some none := by
  decide +kernel
theorem witness_FrameJobs :
    (0x70000 ≤ 0x70038 ∧ 0x70038 < 0x70040 ∧ (fjDesc 1 0).length = 64 ∧ (State.reset.unit 0).waiting.length < 16) ∧
    (∀ x ∈ [(1, FrameStage.fresh), (2, .fresh), (3, .fresh), (4, .fresh), (4, .raster 0), (2, .raster 3), (1, .ended 0)],
      let j := fj x.1 3 x.2
      (fjSt j).frameOn 0 = true ∧ ((fjSt j).unit 0).frame = some j ∧ fjType j.desc = x.1 ∧ fjNrec j.desc = 3 ∧ j.park = none) ∧
    (((fjSt (fj 1 0 (.ended 0))).unit 0).blend0 = [] ∧ ((fjSt (fj 1 0 (.ended 0))).unit 0).blend1 = []) ∧
    (let b : BlendFrag := ⟨1, 4, 6, 0x20000, 0, 0, [0x3F800000, 0, 0, 0x3F800000]⟩
     let s := State.reset.setUnit 0 { State.reset.unit 0 with blend0 := [b] }
     (s.unit 0).blend0 = b :: [] ∧ s.paBusy b.pa = false ∧ s.isOffline (homeOf (b.pa / 128)) = false ∧ b.fmt = 0 ∧ b.mode = 0 ∧
     b.colour = (List.finRange 4).map (fun i => if (fun i : Fin 4 => i = 0 || i = 3) i then 0x3F800000#32 else 0#32) ∧ b.pixel 0 = 0xFF0000FF) := by
  decide +kernel
theorem test_blend : got (exec (.blendWrite 0 0) (State.reset.setUnit 0 { State.reset.unit 0 with blend0 := [⟨1, 4, 6, 0x20000, 0, 0, [0x3F800000, 0, 0, 0x3F800000]⟩] }))
    (fun s => (s.viewNat 0x20000 4, (s.unit 0).blend0.length)) = some (0xFF0000FF, 0) := by decide +kernel
theorem witness_Rasterisation :
    (let a : Vec := (0, 0, 0); let b : Vec := (8, 0, 0); ¬ (a.1 = b.1 ∧ a.2.1 = b.2.1) ∧ insideEdge a b 3 0 ≠ insideEdge b a 3 0) ∧
    ([0, 0, 0] : List Nat).length = 3 ∧ rneInt 0x3C00 = some 1 ∧ rneInt 0x3800 = some 0 ∧ rneInt 0x7C00 = none ∧
    (mapFind skimBest 10).isSome = true ∧ mapFind skimBest 9 = none := by decide +kernel

/-! Frame lock, power, display heads, regulators -/

/-- FLCFG for a free-running module (role 1) with a period of 10^6 ticks; the edges start one period later. -/
def flSt : State :=
  match execFlcfgWrite 4 (BitVec.ofNat 64 (1000000 * 2 ^ 32 + 1)) State.reset with
  | .next s => s
  | _ => State.reset
theorem test_flcfg : flSt.mdl.fl.period = some 1000000 ∧ flSt.mdl.fl.nextEdge = some 1000000 ∧ flSt.reg 8 0x90000 = 1000000 * 2 ^ 32 + 1 ∧
    got (exec (.flcfgWrite 4 (BitVec.ofNat 64 (999999 * 2 ^ 32 + 1))) State.reset) (fun s => s.mdl.fl.nextEdge) = some none := by decide +kernel
def edge1 : State := { flSt with tick := 996000 }
/-- The edge goes out for frame 1; at its tick it fires on die 4, whose %frame is then 1. -/
def fired : State :=
  match execFrameEdgeGenerate edge1 with
  | .next s => { s with tick := 1000000 }
  | _ => edge1
theorem test_edge : fired.mdl.fl.fires.length = 9 ∧ got (exec (.frameEdgeFire 4) fired) (fun s => s.frameNo 4) = some 1 ∧
    got (exec .frameEdgeGenerate { flSt with tick := 995999 }) (fun s => s.mdl.fl.fires.length) = some 0 := by decide +kernel
def follower (timed : Bool) (tick : Nat) : State :=
  let s := State.reset.setReg 4 0x90000 2
  { s with tick := tick, mdl := { s.mdl with fl := { FrameLock.reset with lastEdge := some 0, measured := some 1600000, received := 2, timed := timed } } }
theorem witness_FrameLock :
    (State.reset.mdl.mgmt = 4 ∧ State.reset.isOffline 4 = false ∧ State.reset.mdl.fl.period = none ∧ fired.mdl.fl.period = some 1000000 ∧
      fired.pendingEdge.isSome = true) ∧
    (edge1.flRole < 2 ∧ 1000000 ≤ edge1.tick + 4000 ∧ edge1.pendingEdge = none) ∧
    ((follower false 1600000).flRole = 2 ∧ 2 ≤ (follower false 1600000).mdl.fl.received ∧ (follower false 1600000).pendingEdge = none ∧
      0 + 1600000 ≤ (follower false 1600000).tick ∧ (follower true 100001).mdl.fl.timed = true ∧ 1600000 < 16 * ((follower true 100001).tick - 0) ∧
      16 * (100000 - 0) ≤ 1600000) ∧
    (∃ e, fired.mdl.fl.fires.head? = some e ∧ decide (e.die = 0 ∧ e.frame = 1 ∧ e.tick = 1000000 ∧ e.here = false) = true) ∧
    ((fired.mdl.fl.fires.find? fun e => e.die == 4).map (fun e => e.here) = some true ∧ fired.admitHeld 1 = false ∧
      ({ fired with mdl := { fired.mdl with fl := { fired.mdl.fl with admission := some 5 } } } : State).admitHeld 1 = true) ∧
    (follower false 0).flPort = 0 := by
  refine ⟨?_, ?_, ?_, some_with _ ?_, ?_, ?_⟩ <;> decide +kernel

/-- A cap of 500 W on all dies. -/
def capped (mhz : Nat) : State :=
  let s := State.reset.setReg 4 0xC0000 500
  { s with mdl := { s.mdl with power := ⟨mhz, none, 0, [], none⟩ } }
theorem test_power : got (exec (.powerStepDown 501) (capped 1800)) (fun s => s.mdl.power.pending) = some (some 1700) ∧
    got (exec (.powerStepDown 500) (capped 1800)) (fun s => s.mdl.power.pending) = some none ∧
    got (exec (.powerStepUp 474) (capped 1000)) (fun s => s.mdl.power.pending) = some (some 1100) ∧
    got (exec (.powerStepUp 475) (capped 1000)) (fun s => s.mdl.power.pending) = some none := by decide +kernel
/-- A step to 1 700 of which all dies have been told by `a`; the edge at 1 000 000 applies it when that is more than 20 ticks before it. -/
def stepped (a : Nat) : State := { fired with mdl := { fired.mdl with power := ⟨1800, some 1700, 0, [], some a⟩ } }
theorem test_power_edge : got (exec (.frameEdgeFire 4) (stepped 999979)) (fun s => (s.mdl.power.mhz, s.mdl.power.steps, s.msis.length)) =
      some (1700, 1, 1) ∧
    got (exec (.frameEdgeFire 4) (stepped 999980)) (fun s => (s.mdl.power.mhz, s.mdl.power.pending)) = some (1800, some 1700) := by decide +kernel
/-- Die 4's head: 64 × 32 pixels, HTOTAL 80, VTOTAL 36, VBOFF 100; its last edge at 1 000 000, its next vblank at 1 000 100. -/
def headSt (h : Head) : State :=
  let s := (((fired.setReg 4 0xA0028 (64 + 32 * 65536 + 2 * 2 ^ 32)).setReg 4 0xA0040 (80 + 36 * 65536 + 100 * 2 ^ 32)).setReg 4 0xA0030 50)
  s.setUnit 4 { s.unit 4 with lastEdge := some 1000000, head := { h with timing := 80 + 36 * 65536 + 100 * 2 ^ 32 } }
theorem test_head : got (exec (.headEnable 4 0x100) (headSt Head.reset)) (fun s => ((s.unit 4).head.on, s.reg 4 0xA0008)) = some (true, 256) ∧
    got (exec (.headEnable 4 0x100) ((headSt Head.reset).setReg 4 0xA0040 (79 + 36 * 65536))) (fun s => (s.unit 4).head.on) = some false ∧
    (Head.present { Head.reset with check := some (7, some 7), shown := some 6 } 7 1000100 50 false).1.shown = some 7 ∧
    (Head.present { Head.reset with check := some (7, some 6), shown := some 6 } 7 1000100 50 false).2 = true := by decide +kernel
def hOn : Head := { Head.reset with on := true, check := some (0, none) }
theorem witness_PowerAndHeads :
    ((capped 1800).mdl.power.pending = none ∧ (capped 1800).mgmtReg 0xC0000 % 65536 = 500) ∧
    (let s := { (capped 1800) with ctl := [⟨4, 0, .powerStep 1700⟩, ⟨4, 1, .powerStep 1700⟩], mdl := { (capped 1800).mdl with power := ⟨1800, some 1700, 0, List.range 9, none⟩ }, frames := [(0, 1)] }
     s.mdl.power.pending = some 1700 ∧ s.routed s.mdl.mgmt 0 = true ∧
     (s.ctl.filter fun m => !(m.dst == 0 && m.body == .powerStep 1700)).length < s.ctl.length) ∧
    ((stepped 999979).mdl.power.armed = some 999979 ∧ (stepped 999979).mdl.power.pending = some 1700 ∧ 999979 + 20 < 1000000) ∧
    ((headSt { hOn with vblank := some 1000100 }).dueVblank 4 = none ∧ ((headSt hOn).dueVblank 4).map (fun x => x.2) = some 1000100) ∧
    (headSt Head.reset).flPeriod = some 1000000 ∧ (headSt Head.reset).timingOk 4 1000000 = true ∧
    (headSt hOn).halted 4 = false ∧ ((headSt hOn).nextVblank 4).map (fun x => x.2) = some 1000100 ∧
    ((headSt hOn).readLatch 4 0).isSome = true ∧ hOn.since < 1000100 - 50 ∧ (headSt hOn).dslead 4 = 50 := by decide +kernel
/-- Die 4's head scans frame 1 with 100 lines in its FIFO; the marks of reset are 0x400 and 0x800. -/
def scan (fill : Nat) (urgent : Bool) : State :=
  headSt { Head.reset with on := true, black := false, shown := some 1, fill := fill, urgent := urgent, vblank := some 1000000, span := 1000000, base := 1000000 }
theorem test_urgency : got (exec (.urgencyRaise 4) (scan 0x3FF false)) (fun s => (s.unit 4).head.urgent) = some true ∧
    got (exec (.urgencyRaise 4) (scan 0x400 false)) (fun s => (s.unit 4).head.urgent) = some false ∧
    got (exec (.urgencyLower 4) (scan 0x800 true)) (fun s => (s.unit 4).head.urgent) = some false ∧
    got (exec (.urgencyLower 4) (scan 0x7FF true)) (fun s => (s.unit 4).head.urgent) = some true := by decide +kernel
def missSt : State := State.reset.setGroup 0 0 { State.reset.group 0 0 with misses := [⟨4, 99, false, false, 0, false⟩], rate := [(4, (4096, 0))] }
theorem test_cellar : got (exec (.cellarMissSchedule 0 0) missSt) (fun s => (s.group 0 0).misses.length) = some 0 := by decide +kernel
theorem witness_HeadFifosAndRegulators :
    ((scan 4094 false).halted 4 = false ∧ ((scan 100 false).unit 4).head.scanning = true ∧ ((scan 100 false).reg 4 0x40900) % 4096 = 0x400) ∧
    (let s : State := { State.reset with ctl := [⟨4, 0, .urgency 4 true⟩], tick := 64 }
     s.ctl = [] ++ ⟨4, 0, .urgency 4 true⟩ :: [] ∧ s.routed 4 0 = true ∧ s.isOffline 0 = false ∧ (s.unit 0).sampled < s.tick / 64 ∧ s.counting 0 = false ∧
     (s.setReg 0 0x41000 1).counting 0 = true) ∧
    (let s := missSt.setGroup 0 0 { missSt.group 0 0 with misses := [⟨4, 99, true, false, 0, false⟩] }
     (s.cellarPick 0 0).isSome = true ∧ s.isOffline 0 = false) ∧
    (missSt.cellarPick 0 0).isSome = true ∧ State.reset.cellarPick 0 0 = none := by decide +kernel

/-! Loss, resets, registers, the host -/

/-- Link 0–1 is a link of the fabric; while it is lost the dies still reach each other. 0–8 is none. -/
theorem test_link : got (exec (.linkLost 1 0) State.reset) (fun s => (s.mdl.lost, s.mdl.fenced)) = some ([(0, 1)], []) := by decide +kernel
def corner : State := { State.reset with mdl := { Module.reset with lost := fabricLinks.filter fun l => (l.1 == 0 || l.2 == 0) && l != (0, 1) } }
/-- The last link of die 0 is lost: it is fenced. -/
theorem test_fence : got (exec (.linkLost 0 1) corner) (fun s => s.mdl.fenced) = some [0] := by decide +kernel
/-- All host cores are offline, so that a die may be reset (R393). -/
def parked : State := { State.reset with parkedHarts := List.range 72, mdl := { Module.reset with root := true } }
def wr (v : Dword) (step : Nat) (kill : Bool) : WarmReset := ⟨v, 2, kill, false, step⟩
def warmSt (step : Nat) : State := { parked with mdl := { parked.mdl with warm := some (wr 2 step false) } }
/-- RSTCMD for die 2 starts a reset; one for the management die itself (4), with a reserved bit, or while a host core of the die runs
is refused; an idle die has nothing to save. -/
theorem test_rstcmd : got (exec (.warmReset 4 ⟨2, 0⟩) parked) (fun s => s.mdl.warm.map fun r => (r.die, r.step)) = some (some (2, 1)) ∧
    got (exec (.warmReset 4 ⟨4, 0⟩) parked) (fun s => s.reg 4 0x80008 % 4) = some 1 ∧
    got (exec (.warmReset 4 ⟨0x42, 0⟩) parked) (fun s => s.reg 4 0x80008 % 4) = some 1 ∧
    got (exec (.warmReset 4 ⟨2, 0⟩) State.reset) (fun s => s.reg 4 0x80008 % 4) = some 1 ∧
    got (exec (.warmReset 4 ⟨2, 1⟩) (warmSt 1)) (fun s => s.mdl.warm.map fun r => r.step) = some (some 2) := by decide +kernel
/-- Step 10 of the reset ends it: RSTSTAT 0. -/
theorem test_warm_ends : got (exec (.warmReset 4 ⟨2, 10⟩) ((warmSt 10).rststat 0 3)) (fun s => (s.mdl.warm.isNone, s.reg 4 0x80008 % 4)) =
    some (true, 0) := by decide +kernel
def note (l : Nat) : List Byte := leBytes 32 l
def acc_ (op : HostOp) (n : Nat) (data : List Byte) : HostAccess := ⟨op, .peer, 0x10000, none, n, data, false, false⟩
/-- An error in an Attic tag line of die 1; a message with a code that is not reserved is no cause. -/
theorem test_machine_check : got (exec (.machineCheck 1 1 (BitVec.ofNat 48 (2 ^ 40 + atticTag .eighth + 0x145))) State.reset)
      (fun s => (s.mdl.stopped, s.reg 4 0x10508)) =
      some (true, 1 + 1 * 2 ^ 8 + (2 ^ 40 + atticTag .eighth + 0x100) * 2 ^ 16) ∧
    got (exec (.machineCheck 3 1 1) State.reset) (fun s => s.mdl.stopped) = some false := by decide +kernel
theorem test_host : got (exec (.hostCoreAccess (acc_ (.amo 1) 4 [3, 0, 0, 0])) (State.reset.sysWrite 0x10000 [5]))
      (fun s => (s.hostData, s.viewNat 0x10000 4)) = some ([5, 0, 0, 0], 8) ∧
    got (exec (.hostCoreAccess (acc_ .store 2 [7, 8])) State.reset) (fun s => s.viewNat 0x10000 4) = some 0x0807 := by decide +kernel
/-- Hart 3 of die 0 stores to its own cache and the line is dirty there: memory shows the value to all, as a coherent read does. -/
theorem test_hart : got (exec (.hostCoreAccess { acc_ .store 2 [7, 8] with agent := .hart 3 }) State.reset)
      (fun s => (s.viewNat 0x10000 2, memNat s.mem 0x10000 2, s.hostFault)) = some (0x0807, 0, false) ∧
    got (exec (.hostCoreAccess { acc_ .load 2 [] with agent := .hart 3, pa := 0xA00000000000 }) State.reset)
      (fun s => s.hostFault) = some true := by decide +kernel
/-- Context 1 with the page tables of `walkSt`, which map 0x10000 to 0x20000: hart 3 stores through them; an address without a PTE is its
page fault (R401). -/
def hartSt : State := (walkSt 0x801F).sysWrite 64 (leBytes 8 (9 * 2 ^ 60) ++ leBytes 8 0 ++ leBytes 8 0 ++ leBytes 40 1)
def hartAcc (va : Dword) : HostAccess := { acc_ .store 2 [7, 8] with agent := .hart 3, via := some (1, va) }
theorem test_hart_virtual : got (exec (.hostCoreAccess (hartAcc 0x10000)) hartSt) (fun s => (s.viewNat 0x20000 2, s.hostFault)) = some (0x0807, false) ∧
    got (exec (.hostCoreAccess (hartAcc 0x11000)) hartSt) (fun s => s.hostFault) = some true := by decide +kernel
/-- The driver sets the vector of the machine check and the hart that takes it. -/
theorem test_vectors : got (exec (.hostCoreAccess (acc_ (.vector 3 77 5) 0 [])) State.reset)
      (fun s => (s.mdl.vectors.machineCheck, storeGet 0 s.mdl.vectors.harts 3)) = some (77, 5) := by decide +kernel
theorem test_registers : got (exec (.registerWrite 3 0x10000 0xFFFFFFFFFFFFFFFF) State.reset) (fun s => s.reg 3 0x10000) = some 0 ∧
    got (exec (.registerWrite 4 0x10000 0xFFFFFFFFFFFFFFFF) State.reset) (fun s => s.reg 3 0x10000) = some 0xFFFFFFFFC000 ∧
    got (exec (.steerWrite 0 1 0xF) State.reset) (fun s => s.reg 0 0x10808 % 16) = some 7 ∧
    got (exec (.wdogWrite 0 5) State.reset) (fun s => s.reg 0 0x80100) = some 5 := by decide +kernel
theorem test_boot : got (exec (.moduleReset ⟨.quarter, true⟩) { (mk w0 g0).setReg 0 0xC0000 5 with mem := [(7, 1)] }) (fun s => (s.warps.length, s.regs.length, s.mem)) =
    some (0, 0, [(7, 1)]) := by decide +kernel
theorem witness_ResetsAndRegisters :
    ((0, 1) ∈ fabricLinks ∧ (0, 1) ∉ State.reset.mdl.lost ∧ (0, 8) ∉ fabricLinks ∧ [[0, 1], [2]] ≠ [] ∧ (∀ g ∈ [[0, 1], [2]], g ≠ [])) ∧
    ((0x10 : Dword).getLsbD 4 = true ∧ (0x20 : Dword).getLsbD 5 = true ∧ (0x02 : Dword).getLsbD 4 = false ∧ (2 / 64 % 2 ^ 26 = 0 ∧ ¬ 8 < 2) ∧
     State.reset.mdl.warm = none ∧ 2 * 8 + 5 ∉ State.reset.parkedHarts ∧ (∀ h, h < 8 → 2 * 8 + h ∈ parked.parkedHarts) ∧ (warmSt 1).mdl.warm = some (wr 2 1 false)) ∧
    (∀ n ∈ [1, 2, 3, 4, 5, 6, 7, 8, 9, 10], (wr 2 n true).step = n ∧ State.reset.homeIdle 2 = true ∧ (State.reset.die 2).reqs = [] ∧ (State.reset.die 2).wbs = []) ∧
    (State.reset.tagPart 1 (2 ^ 40 + atticTag .eighth) 1 = true ∧ State.reset.tagPart 1 (2 ^ 40 + atticTag .eighth) 2 = false ∧
      State.reset.tagPart 1 (2 ^ 40 + atticTag .eighth + 2 ^ (atticS .eighth + 7)) 2 = true ∧ reservedMsg 0x14 = true ∧
      State.reset.mdl.stopped = false) ∧
    (let s : State := { State.reset with ctl := [⟨1, 0, .errorNote (note 5)⟩] }; s.ctl = [] ++ ⟨1, 0, .errorNote (note 5)⟩ :: []) ∧
    (State.reset.mdl.life = .manufacture ∧ ((State.reset.setUnit 3 { State.reset.unit 3 with recovery := true }).unit 3).recovery = true) ∧
    ((plainReg 0x10000).map (fun r => r.mgmt) = some true ∧ (plainReg 0x41000).map (fun r => r.mgmt) = some false ∧ plainReg 0x10210 = none) ∧
    ((4 : Dword).getLsbD 2 = true ∧ (6 : Dword).getLsbD 1 = true ∧ (2 : Dword).getLsbD 2 = false) ∧
    plainReg 0x10211 = none := by
  decide +kernel
/-- The host accesses of Obligations.ResetsAndRegisters. -/
theorem witness_HostAccesses :
    (∀ a ∈ [acc_ .load 8 [], acc_ .fetch 8 [], acc_ .noSnoop 8 [], acc_ .store 2 [1, 2], acc_ (.amo 8) 4 [1, 2, 3, 4]],
      hostOk a = true ∧ State.reset.paBusy a.pa.toNat = false) ∧
    (paKind .eighth true 0x10000 = .dram 0 0x10000 ∧ State.reset.isOffline 0 = false ∧ paOpen .eighth true 0x10000 = true ∧
      paOpen .eighth true 0x8FFFFFFFFF = false) ∧
    (State.reset.hostThere .peer = true ∧ parked.hostThere (.hart 3) = false ∧ State.reset.hostThere (.hart 71) = true ∧
      State.reset.hostThere (.hart 72) = false ∧ ({ parked with mdl := { parked.mdl with root := false } } : State).hostThere .bar0 = true ∧
      hostOk (acc_ (.vector 3 77 5) 0 []) = true ∧ hostOk (hartAcc 0x10000) = true ∧
      (match hartSt.hartTranslate 0 1 .store 0x10000 with | .pa _ q => decide (q = 0x20000) | _ => false) = true ∧
      (match hartSt.hartTranslate 0 1 .store 0x11000 with | .fault => true | _ => false) = true ∧ 71 / 8 ∈ State.reset.live ∧ State.reset.dirLines 2 = [] ∧ hostOk ⟨.load, .bar0, 0x841000, none, 8, [], false, false⟩ = true) := by
  decide +kernel
theorem witness_RegisterReads : paKind .eighth true 0xF00100000008 = .register 1 8 ∧ State.reset.paBusy 0x10000 = false ∧
    State.reset.paBusy 0x10080 = false := by decide +kernel
end Sys2Proof.Tests
end

section
/-! PROOFS. Scalar division (R215): the model's arithmetic on numbers of `n` bits, read as arithmetic on bit vectors, and
what an S3 instruction under an integer type answers. -/

namespace Sys2Proof.Machine

/-! Numbers of `n` bits as bit vectors -/

theorem ofNat_wrapTo (n : Nat) (x : Int) : BitVec.ofNat n (wrapTo n x) = BitVec.ofInt n x :=
  (BitVec.ofNatLT_eq_ofNat _).symm

theorem signedOf_toNat {n : Nat} (x : BitVec n) : signedOf n x.toNat = x.toInt := by
  cases n with
  | zero => simp [signedOf, BitVec.of_length_zero]
  | succ k =>
    have hk : 2 ^ (k + 1) = 2 * 2 ^ k := Nat.pow_succ'
    rw [signedOf, BitVec.toInt_eq_toNat_cond, Nat.mod_eq_of_lt x.isLt]
    simp only [Nat.add_sub_cancel, hk, Nat.mul_lt_mul_left Nat.two_pos]

theorem intVal_true_toNat {n : Nat} (x : BitVec n) : intVal true n x.toNat = x.toInt := signedOf_toNat x

theorem intVal_false_toNat {n : Nat} (x : BitVec n) : intVal false n x.toNat = x.toNat := by
  simp [intVal, Nat.mod_eq_of_lt x.isLt]

theorem toNat_mod_eq_zero_iff {n : Nat} (b : BitVec n) : b.toNat % 2 ^ n = 0 ↔ b = 0 := by
  rw [Nat.mod_eq_of_lt b.isLt, BitVec.toNat_eq]; rfl

/-- SDIV's arithmetic is division of bit vectors; −2^(N−1) by −1 wraps to itself there too (R215). -/
theorem ofNat_divInt (n : Nat) (g : Bool) (a b : BitVec n) : BitVec.ofNat n (divInt g n a.toNat b.toNat) = resDiv n g a b := by
  by_cases hb : b = 0
  · simp only [divInt, resDiv, toNat_mod_eq_zero_iff, hb, if_true]
    exact BitVec.eq_of_toNat_eq (by simp [BitVec.toNat_allOnes, Nat.mod_eq_of_lt])
  · simp only [divInt, resDiv, toNat_mod_eq_zero_iff, hb, if_false, ofNat_wrapTo]
    cases g with
    | false =>
      rw [intVal_false_toNat, intVal_false_toNat, ← Int.ofNat_tdiv, BitVec.ofInt_natCast]
      exact BitVec.udiv_def.symm
    | true =>
      rw [intVal_true_toNat, intVal_true_toNat]
      exact BitVec.eq_of_toInt_eq (by rw [if_pos rfl, BitVec.toInt_ofInt, BitVec.toInt_sdiv])

/-- SREM's arithmetic is the remainder of bit vectors (R215). -/
theorem ofNat_remInt (n : Nat) (g : Bool) (a b : BitVec n) : BitVec.ofNat n (remInt g n a.toNat b.toNat) = resRem n g a b := by
  by_cases hb : b = 0
  · simp [remInt, resRem, hb]
  · simp only [remInt, resRem, toNat_mod_eq_zero_iff, hb, if_false, ofNat_wrapTo]
    cases g with
    | false =>
      rw [intVal_false_toNat, intVal_false_toNat, ← Int.ofNat_tmod, BitVec.ofInt_natCast]
      exact BitVec.umod_def.symm
    | true => rw [intVal_true_toNat, intVal_true_toNat, ← BitVec.toInt_srem, BitVec.ofInt_toInt, if_pos rfl]

/-! Operands and destination of an S3 word (R190, R212) -/

section fields
variable {f : S3F} {w : Warp}

theorem s3Wide_iff : s3Wide f = true ↔ f.ty = 2 ∨ f.ty = 3 := by simp [s3Wide]

theorem ty_ne_two_of_narrow (h : s3Wide f = false) : f.ty ≠ 2 := fun h2 => by simp [s3Wide, h2] at h

theorem s3Read_wide (h : s3Wide f = true) (r : Nat) : w.s3Read f r = (w.spair r).toNat := if_pos h
theorem s3Read_narrow (h : s3Wide f = false) (r : Nat) : w.s3Read f r = (w.sreg r).toNat := by simp [Warp.s3Read, h]

theorem s3Write_wide (h : s3Wide f = true) (v : Nat) : w.s3Write f v = w.setSpair f.sd.toNat (BitVec.ofNat 64 v) := if_pos h
theorem s3Write_narrow (h : s3Wide f = false) (v : Nat) : w.s3Write f v = w.setSreg f.sd.toNat (BitVec.ofNat 32 v) := by
  simp [Warp.s3Write, h]

theorem s3B_wide (h : s3Wide f = true) : w.s3B f = (s3B64 w f).toNat := by
  unfold Warp.s3B s3B64
  cases f.isimm with
  | false => exact s3Read_wide h _
  | true =>
    by_cases h2 : f.ty = 2
    · simp [h2]
    · rw [if_pos rfl, if_pos rfl, if_neg h2, if_neg h2, BitVec.toNat_setWidth_of_le (by decide)]

theorem s3B_narrow (h : s3Wide f = false) : w.s3B f = (s3B32 w f).toNat := by
  unfold Warp.s3B s3B32
  cases f.isimm with
  | false => exact s3Read_narrow h _
  | true => rw [if_pos rfl, if_pos rfl, if_neg (ty_ne_two_of_narrow h)]

theorem s3Signed_wide (h : s3Wide f = true) : s3Signed f = decide (f.ty = 2) := by
  rcases s3Wide_iff.1 h with h | h <;> simp [s3Signed, h]

theorem s3Signed_narrow (h : s3Wide f = false) : s3Signed f = decide (f.ty = 0) := by
  rw [s3Signed, beq_eq_false_iff_ne.2 (ty_ne_two_of_narrow h), Bool.or_false]; rfl

end fields

/-- An S3 instruction under an integer type completes with the value of `res`, when its arithmetic `int` on numbers is `res` on
bit vectors (R212, R214 to R219). -/
theorem s3Gives_of_s3Exec {i : Instr} {f : S3F} {two : Bool} {int : Bool → Nat → Nat → Nat → Nat → Nat}
    {fp : RCtx → Nat → Nat → Nat × BitVec 5} {res : (n : Nat) → Bool → BitVec n → BitVec n → BitVec n → BitVec n}
    (hexec : ∀ s, exec i s = s3Exec i f two int fp s) (hlen : instrLen i = 8)
    (hres : ∀ n g (a b d : BitVec n), BitVec.ofNat n (int g n a.toNat b.toNat d.toNat) = res n g a b d) :
    S3Gives i f two res := by
  intro s t hready hty
  rw [hexec, s3Exec, issue_ready hready, hlen]
  simp only [if_neg hty, finish_next, ← s3Wide_iff]
  cases hw : s3Wide f with
  | true => simp [s3Read_wide hw, s3B_wide hw, s3Write_wide hw, s3Signed_wide hw, hres]
  | false => simp [s3Read_narrow hw, s3B_narrow hw, s3Write_narrow hw, s3Signed_narrow hw, hres]

theorem exec_sdiv (f : S3F) (s : State) :
    exec (.sdiv f) s = s3Exec (.sdiv f) f true (fun g n a b _ => divInt g n a b) noFp s := rfl
theorem exec_srem (f : S3F) (s : State) :
    exec (.srem f) s = s3Exec (.srem f) f true (fun g n a b _ => remInt g n a b) noFp s := rfl

/-- Settles O11: S3 arithmetic on numbers is that on bit vectors, and division is so in both special cases. -/
theorem scalarDivision : Obligations.ScalarDivision := fun f =>
  ⟨s3Gives_of_s3Exec (exec_sdiv f) rfl fun n g a b _ => ofNat_divInt n g a b,
   s3Gives_of_s3Exec (exec_srem f) rfl fun n g a b _ => ofNat_remInt n g a b⟩

end Sys2Proof.Machine
end

section
/-! PROOFS. SMODE (R223) and the seeding of every lane's STO state (R295). -/

namespace Sys2Proof.Machine

/-! SMODE -/

theorem modeRmLegal_iff (m : Word) : modeRmLegal m = true ↔ 1 ≤ modeRM m ∧ modeRM m ≤ 6 := by
  simp [modeRmLegal]

theorem modeRmLegal_eq_false {m : Word} (h : modeRM m = 0 ∨ modeRM m = 7) : modeRmLegal m = false := by
  rcases h with h | h <;> simp [modeRmLegal, h]

/-- Under type 0 operand b of an S3 word is 32 bits (R190, R223). -/
theorem ofNat_s3B_of_ty_zero {f : S3F} (h : f.ty = 0) (w : Warp) : BitVec.ofNat 32 (w.s3B f) = s3B32 w f := by
  rw [s3B_narrow (by simp [s3Wide, h]), BitVec.ofNat_toNat, BitVec.setWidth_eq]

/-- The value that SMODE under type 0 gives MODE: the bits that A selects are those of B (R223). -/
def Warp.smodeNew (w : Warp) (f : S3F) : Word := (w.mode &&& ~~~w.sreg f.sa.toNat) ||| (s3B32 w f &&& w.sreg f.sa.toNat)

section smode
variable {f : S3F} {s : State} {t : Thread}

/-- SMODE with a legal rounding mode changes MODE, seeds the lanes when the selector reaches into SEED, and sd receives the old
MODE (R223, R295). -/
theorem exec_smode_of_legal (hty : f.ty = 0) (h : Ready s t (.smode f) (s3Opds f true) true)
    (hrm : modeRmLegal (t.w.smodeNew f) = true) :
    let changed : Thread := { t with w := { t.w with mode := t.w.smodeNew f } }
    let seeded := if (t.w.sreg f.sa.toNat).extractLsb' 16 16 = 0 then changed else changed.reseed
    exec (.smode f) s = .next (Thread.advance { seeded with w := seeded.w.setSreg f.sd.toNat t.w.mode } 8) :=
  issue_next h (by
    rw [Warp.smodeNew] at hrm ⊢
    simp only [ofNat_s3B_of_ty_zero hty, hrm]
    rfl)

/-- SMODE with a rounding mode that MODE may not hold raises illegal operand (R223). -/
theorem exec_smode_of_illegal (hty : f.ty = 0) (h : Ready s t (.smode f) (s3Opds f true) true)
    (hrm : modeRmLegal (t.w.smodeNew f) = false) (htraps : t.Traps) :
    exec (.smode f) s = .next (t.trapped 2 (word0 (.smode f)) 0) :=
  issue_trap h (by
    rw [Warp.smodeNew] at hrm
    simp only [ofNat_s3B_of_ty_zero hty, hrm]
    rfl) htraps

end smode

/-- R223, by whether MODE may hold the new rounding mode. -/
theorem modeSelectedBits : Part.ModeSelectedBits := fun _ _ _ hty h =>
  ⟨fun hrm => exec_smode_of_legal hty h ((modeRmLegal_iff _).2 hrm),
   fun hrm htraps => exec_smode_of_illegal hty h (modeRmLegal_eq_false hrm) htraps⟩

/-! Seeding (R295) -/

theorem mapFind_storeSet_other {α : Type} [DecidableEq α] (d : α) (m : FMap α) {k j : Nat} (v : α) (h : j ≠ k) :
    mapFind (storeSet d m k v) j = mapFind m j := by
  unfold storeSet
  split
  · exact mapFind_mapDel_other m h
  · exact mapFind_mapPut_other m v h

@[simp] theorem lane_setLane_same (t : Thread) (l : Nat) (q : Word) : (t.setLane l q).lane l = q :=
  storeGet_storeSet_same (t.g.seedOf (t.w.fam l)) t.g.lfsr (t.w.fam l) q

/-- Lanes of one warp have different columns, so a write to one leaves the others; each reads with its own default. -/
theorem lane_setLane_other (t : Thread) {l k : Nat} (q : Word) (h : k ≠ l) : (t.setLane l q).lane k = t.lane k :=
  congrArg (Option.getD · (t.g.seedOf (t.w.fam k)))
    (mapFind_storeSet_other (t.g.seedOf (t.w.fam l)) t.g.lfsr q (by simpa [Warp.fam] using h))

/-- The thread with its lanes below `n` seeded. -/
def Thread.seedBelow (t : Thread) (n : Nat) : Thread :=
  (List.range n).foldl (fun t l => t.setLane l (lfsrSeed (modeSeed t.w.mode) l)) t

theorem reseed_eq_seedBelow (t : Thread) : t.reseed = t.seedBelow t.w.width := rfl

theorem seedBelow_succ (t : Thread) (n : Nat) :
    t.seedBelow (n + 1) = (t.seedBelow n).setLane n (lfsrSeed (modeSeed (t.seedBelow n).w.mode) n) := by
  simp only [Thread.seedBelow, List.range_succ, List.foldl_append, List.foldl_cons, List.foldl_nil]

/-- Seeding changes the STO states and nothing else of the thread. -/
theorem seedBelow_frame (t : Thread) (n : Nat) : ∃ m, t.seedBelow n = { t with g := { t.g with lfsr := m } } := by
  induction n with
  | zero => exact ⟨_, rfl⟩
  | succ n ih =>
    obtain ⟨m, hm⟩ := ih
    exact ⟨_, by rw [seedBelow_succ, hm]; rfl⟩

@[simp] theorem seedBelow_w (t : Thread) (n : Nat) : (t.seedBelow n).w = t.w := by
  obtain ⟨m, hm⟩ := seedBelow_frame t n
  rw [hm]

theorem lane_seedBelow (t : Thread) {l n : Nat} (h : l < n) : (t.seedBelow n).lane l = lfsrSeed (modeSeed t.w.mode) l := by
  induction n with
  | zero => exact absurd h (Nat.not_lt_zero l)
  | succ n ih =>
    rw [seedBelow_succ, seedBelow_w]
    rcases Nat.lt_succ_iff_lt_or_eq.1 h with hl | rfl
    · rw [lane_setLane_other _ _ (Nat.ne_of_lt hl), ih hl]
    · exact lane_setLane_same _ _ _

theorem lane_reseed (t : Thread) {l : Nat} (h : l < t.w.width) : t.reseed.lane l = lfsrSeed (modeSeed t.w.mode) l := by
  rw [reseed_eq_seedBelow, lane_seedBelow t h]

theorem reseed_frame (t : Thread) : ∃ m, t.reseed = { t with g := { t.g with lfsr := m } } := by
  rw [reseed_eq_seedBelow]
  exact seedBelow_frame t t.w.width

/-- R295: every lane is seeded, and the frame holds only new STO states. -/
theorem seedingReachesEveryLane : Part.SeedingReachesEveryLane := by
  intro t l _
  obtain ⟨m, hm⟩ := reseed_frame t
  exact ⟨lane_reseed t, by rw [hm], by rw [hm], by rw [hm], by rw [hm]⟩

/-- Settles O17: what SMODE does to MODE and sd, and what seeding does to the lanes. -/
theorem modeChange : Obligations.ModeChange := ⟨modeSelectedBits, seedingReachesEveryLane⟩

end Sys2Proof.Machine
end

section
/-! PROOFS. The cross-lane instructions: what an XL instruction answers within the limits of its G code and beyond them (R254),
the shuffles (R256), and the ballots of VOTE and MATCH bit by bit (R258). -/

namespace Sys2Proof.Machine

/-! Sub-groups and their limits (R189, R254) -/

theorem groupSize_eq (c : BitVec 3) (w : Nat) : groupSize c.toNat w = if c = 7 then w else 2 ^ (c.toNat + 1) :=
  if_congr (BitVec.toNat_inj (x := c) (y := 7)) rfl rfl

theorem width_of_running {s : State} {t : Thread} (h : Running s t) : s.width = t.w.width := by
  simp [State.width, h.1]

theorem xlLimit_iff {f : XlF} {small : Bool} {w : Nat} : xlLimit f small w = true ↔
    (f.tos = true → w ≤ groupSize f.g.toNat w) ∧ (small = true → f.tos = false → groupSize f.g.toNat w ≤ 32) := by
  simp only [xlLimit, Bool.and_eq_true, Bool.not_eq_true', Bool.and_eq_false_iff, decide_eq_false_iff_not, Nat.not_lt]
  cases f.tos <;> cases small <;> simp

section xl
variable {i : Instr} {f : XlF} {a m small : Bool} {s : State} {t t' : Thread} {g : Nat} {b : Nat → Word}

/-- Within the limits of G an XL instruction goes on with what its effect makes of operand b. -/
theorem xlRun_of_xlReady {k : Thread → Nat → (Nat → Word) → Res} {u : Thread} (hlen : instrLen i = 8)
    (h : XlReady i f a m small s t t' g b) (hk : k t' g b = .next u) : xlRun i f a m small k s = .next (u.advance 8) := by
  obtain ⟨hg, hfits, hscalar, hballot, hready, o, hop, hb⟩ := h
  obtain rfl : g = groupSize f.g.toNat t.w.width := hg.trans (groupSize_eq _ _).symm
  obtain rfl : b = fun l => loWord (t'.laneB o false l) := funext hb
  have hlim : xlLimit f small s.width = true := by
    rw [width_of_running hready.running, xlLimit_iff]
    exact ⟨fun ht => (hscalar ht).ge, hballot⟩
  rw [xlRun, hlim, ← hlen]
  exact issue_next hready (by simp only [if_neg (Nat.not_lt.2 hfits), hop, hk])

/-- Beyond a limit of step 5 of R184 it is an illegal operand, whatever its registers hold. -/
theorem xlRun_illegalOperand (k : Thread → Nat → (Nat → Word) → Res) (hrun : Running s t) (hwf : i.wf = true) (htraps : t.Traps)
    (hlim : ¬ xlLimit f small t.w.width = true) : xlRun i f a m small k s = .next (t.trapped 2 (word0 i) 0) :=
  issue_operands hrun hwf (.inr (by rwa [width_of_running hrun, ← Bool.not_eq_true])) htraps _

/-- A sub-group wider than the warp is a width error. -/
theorem xlRun_widthError (k : Thread → Nat → (Nat → Word) → Res) (hready : Ready s t i (xlOpds f a m) true) (htraps : t.Traps)
    (hlim : xlLimit f small t.w.width = true) (hwide : t.w.width < groupSize f.g.toNat t.w.width) :
    xlRun i f a m small k s = .next (t.trapped 8 (word0 i) 0) := by
  rw [xlRun, width_of_running hready.running, hlim]
  exact issue_trap hready (if_pos hwide) htraps

end xl

/-! The shared operation that each XL instruction is (R255) -/

section opcodes
variable (f : XlF) (s : State)

theorem exec_shfl : exec (.shfl f) s = xlShuffle (.shfl f) f (fun _ j => some j) s := rfl
theorem exec_shflx : exec (.shflx f) s = xlShuffle (.shflx f) f (fun x j => some (x ^^^ j)) s := rfl
theorem exec_shflup : exec (.shflup f) s = xlShuffle (.shflup f) f (fun x j => if j ≤ x then some (x - j) else none) s := rfl
theorem exec_shfldn : exec (.shfldn f) s = xlShuffle (.shfldn f) f (fun x j => some (x + j)) s := rfl
theorem exec_bcst : exec (.bcst f) s = xlShuffle (.bcst f) f (fun _ j => some j) s := rfl
theorem exec_redadd : exec (.redadd f) s = xlReduce (.redadd f) f laneAdd (idAdd f.ty.toNat) s := rfl
theorem exec_redmin : exec (.redmin f) s = xlReduce (.redmin f) f laneMin (idMin f.ty.toNat) s := rfl
theorem exec_redmax : exec (.redmax f) s = xlReduce (.redmax f) f laneMax (idMax f.ty.toNat) s := rfl
theorem exec_redand : exec (.redand f) s = xlReduce (.redand f) f laneAnd 0xFFFFFFFF#32 s := rfl
theorem exec_redor : exec (.redor f) s = xlReduce (.redor f) f laneOr 0 s := rfl
theorem exec_redxor : exec (.redxor f) s = xlReduce (.redxor f) f laneXor 0 s := rfl
theorem exec_scan : exec (.scan f) s = xlScan (.scan f) f laneAdd (idAdd f.ty.toNat) false s := rfl
theorem exec_scanx : exec (.scanx f) s = xlScan (.scanx f) f laneAdd (idAdd f.ty.toNat) true s := rfl
theorem exec_scanmax : exec (.scanmax f) s = xlScan (.scanmax f) f laneMax (idMax f.ty.toNat) false s := rfl
theorem exec_vote : exec (.vote f) s = xlVote (.vote f) f s := rfl
theorem exec_matchLanes : exec (.matchLanes f) s = xlMatch (.matchLanes f) f s := rfl

end opcodes

/-- An instruction that runs through `xlRun`, under the limits that its operands and its kind of result set. -/
def RunsXl (i : Instr) (f : XlF) (a m small : Bool) : Prop := ∃ k, ∀ s, exec i s = xlRun i f a m small k s

section runsXl
variable {i : Instr} {f : XlF}

theorem runsXl_of_xlShuffle {src : Nat → Nat → Option Nat} (h : ∀ s, exec i s = xlShuffle i f src s) :
    RunsXl i f true false false := ⟨_, h⟩
theorem runsXl_of_xlReduce {fn : LaneIn → LaneOut} {ident : Word} (h : ∀ s, exec i s = xlReduce i f fn ident s) :
    RunsXl i f false false false := ⟨_, h⟩
theorem runsXl_of_xlScan {fn : LaneIn → LaneOut} {ident : Word} {excl : Bool} (h : ∀ s, exec i s = xlScan i f fn ident excl s) :
    RunsXl i f false false false := ⟨_, h⟩
theorem runsXl_vote : RunsXl (.vote f) f false true true := ⟨_, exec_vote f⟩
theorem runsXl_matchLanes : RunsXl (.matchLanes f) f false false true := ⟨_, exec_matchLanes f⟩

end runsXl

/-- The XL instructions that combine lanes: whether each reads operand a, has a mask group for its tos result, gives a ballot. -/
def combiningForms (f : XlF) : List (Instr × Bool × Bool × Bool) :=
  [(.shfl f, true, false, false), (.shflx f, true, false, false), (.shflup f, true, false, false),
   (.shfldn f, true, false, false), (.bcst f, true, false, false), (.redadd f, false, false, false),
   (.redmin f, false, false, false), (.redmax f, false, false, false), (.redand f, false, false, false),
   (.redor f, false, false, false), (.redxor f, false, false, false), (.scan f, false, false, false),
   (.scanx f, false, false, false), (.scanmax f, false, false, false), (.vote f, false, true, true),
   (.matchLanes f, false, false, true)]

theorem runsXl_combiningForms (f : XlF) : ∀ x ∈ combiningForms f, RunsXl x.1 f x.2.1 x.2.2.1 x.2.2.2 := by
  simp only [combiningForms, List.forall_mem_cons]
  exact ⟨runsXl_of_xlShuffle (exec_shfl f), runsXl_of_xlShuffle (exec_shflx f), runsXl_of_xlShuffle (exec_shflup f),
    runsXl_of_xlShuffle (exec_shfldn f), runsXl_of_xlShuffle (exec_bcst f), runsXl_of_xlReduce (exec_redadd f),
    runsXl_of_xlReduce (exec_redmin f), runsXl_of_xlReduce (exec_redmax f), runsXl_of_xlReduce (exec_redand f),
    runsXl_of_xlReduce (exec_redor f), runsXl_of_xlReduce (exec_redxor f), runsXl_of_xlScan (exec_scan f),
    runsXl_of_xlScan (exec_scanx f), runsXl_of_xlScan (exec_scanmax f), runsXl_vote, runsXl_matchLanes, List.forall_mem_nil _⟩

/-- R254: the limits of step 5 are looked at before the width, so a width error needs all of them kept. -/
theorem subGroupLimits : Part.SubGroupLimits := by
  intro f i a m small s t hi hrun hwf htraps
  obtain ⟨k, hk⟩ : RunsXl i f a m small := runsXl_combiningForms f _ hi
  simp only [hk, ← groupSize_eq]
  refine ⟨fun htos hlt => ?_, fun htos hsmall hlt => ?_, fun hready htos hsmall hlt => ?_, fun hready htos hle hlt => ?_,
    fun hready htos hlt => ?_⟩
  · exact xlRun_illegalOperand k hrun hwf htraps fun h => hlt.not_ge ((xlLimit_iff.1 h).1 htos)
  · exact xlRun_illegalOperand k hrun hwf htraps fun h => hlt.not_ge ((xlLimit_iff.1 h).2 hsmall htos)
  · exact xlRun_widthError k hready htraps (xlLimit_iff.2 ⟨by simp [htos], by simp [hsmall]⟩) hlt
  · exact xlRun_widthError k hready htraps (xlLimit_iff.2 ⟨by simp [htos], fun _ _ => hle⟩) hlt
  · exact xlRun_widthError k hready htraps (xlLimit_iff.2 ⟨fun _ => hlt.le, by simp [htos]⟩) hlt

/-! The shuffles and BCST (R256) -/

/-- A shuffle whose source member is the exact integer `src` of the lane's own member and index; the model answers no source where it
is negative. -/
def ShufflesBy (i : Instr) (f : XlF) (src : Nat → Nat → Int) : Prop :=
  instrLen i = 8 ∧ ∃ nat, (∀ s, exec i s = xlShuffle i f nat s) ∧ ∀ x j, nat x j = (src x j).toNat?

theorem toNat?_natCast_sub (x j : Nat) : ((x : Int) - j).toNat? = if j ≤ x then some (x - j) else none := by
  split
  case isTrue h => rw [← Int.ofNat_sub h]; rfl
  case isFalse h =>
    obtain ⟨n, hn⟩ := Int.eq_negSucc_of_lt_zero (a := (x : Int) - j) (by omega)
    rw [hn]; rfl

section shuffles
variable (f : XlF)

theorem shufflesBy_shfl : ShufflesBy (.shfl f) f fun _ j => j := ⟨rfl, _, exec_shfl f, fun _ _ => rfl⟩
theorem shufflesBy_shflx : ShufflesBy (.shflx f) f fun x j => Nat.xor x j := ⟨rfl, _, exec_shflx f, fun _ _ => rfl⟩
theorem shufflesBy_shflup : ShufflesBy (.shflup f) f fun x j => (x : Int) - j :=
  ⟨rfl, _, exec_shflup f, fun x j => (toNat?_natCast_sub x j).symm⟩
theorem shufflesBy_shfldn : ShufflesBy (.shfldn f) f fun x j => (x : Int) + j := ⟨rfl, _, exec_shfldn f, fun _ _ => rfl⟩
theorem shufflesBy_bcst : ShufflesBy (.bcst f) f fun _ j => j := ⟨rfl, _, exec_bcst f, fun _ _ => rfl⟩

end shuffles

/-- Each active lane receives operand a of its source member, or its own where that lies outside the sub-group. -/
theorem exec_of_shufflesBy {i : Instr} {f : XlF} {src : Nat → Nat → Int} {s : State} {t t' : Thread} {g : Nat} {b : Nat → Word}
    (hi : ShufflesBy i f src) (h : XlReady i f true false false s t t' g b) :
    let value (l : Nat) : Word :=
      let k := src (l % g) (b l).toNat
      t'.vreg (if k < 0 ∨ (g : Int) ≤ k then l else l - l % g + k.toNat) f.va.toNat
    exec i s = .next ((t'.putWords f.vd.toNat ((xlLanes t' f).map fun l => (l, value l))).advance 8) := by
  obtain ⟨hlen, nat, hexec, hsrc⟩ := hi
  refine (hexec s).trans (xlRun_of_xlReady hlen h (congrArg (fun ws => Res.next (t'.putWords f.vd.toNat ws)) ?_))
  refine List.map_congr_left fun l _ => ?_
  simp only [hsrc]
  cases src (l % g) (b l).toNat with
  | ofNat k =>
    rcases Nat.lt_or_ge k g with hk | hk
    · simp [Int.toNat?, hk, hk.not_ge, (Int.natCast_nonneg k).not_gt]
    · simp [Int.toNat?, hk, hk.not_gt]
  | negSucc k => simp [Int.toNat?]

theorem shuffles : Part.Shuffles := by
  intro f i src s t t' g b hi h
  refine exec_of_shufflesBy ?_ h
  simp only [List.mem_cons, Prod.mk.injEq, List.not_mem_nil, or_false] at hi
  obtain ⟨rfl, rfl⟩ | ⟨rfl, rfl⟩ | ⟨rfl, rfl⟩ | ⟨rfl, rfl⟩ | ⟨rfl, rfl⟩ := hi
  · exact shufflesBy_shfl f
  · exact shufflesBy_shflx f
  · exact shufflesBy_shflup f
  · exact shufflesBy_shfldn f
  · exact shufflesBy_bcst f

/-! VOTE and MATCH (R258) -/

theorem getLsbD_ofNat_two_pow {n k i : Nat} (h : i < n) : (BitVec.ofNat n (2 ^ k)).getLsbD i = decide (k = i) := by
  rw [BitVec.getLsbD_ofNat, Nat.testBit_two_pow, decide_eq_true h, Bool.true_and]

/-- Bit `i` of the members that meet a test is set when member `i` of the sub-group meets it. -/
theorem getLsbD_subMask (g base : Nat) (p : Nat → Bool) {i : Nat} (h : i < 32) :
    (subMask g base p).getLsbD i = (decide (i < g) && p (base + i)) := by
  induction g with
  | zero => simp [subMask]
  | succ g ih =>
    have hstep : subMask (g + 1) base p = subMask g base p ||| if p (base + g) then BitVec.ofNat 32 (2 ^ g) else 0 := by
      cases hp : p (base + g) <;> simp [subMask, List.range_succ, hp]
    have hbit : (if p (base + g) then BitVec.ofNat 32 (2 ^ g) else 0).getLsbD i = (decide (g = i) && p (base + g)) := by
      cases p (base + g) <;> simp [getLsbD_ofNat_two_pow h, -BitVec.ofNat_pow]
    rw [hstep, BitVec.getLsbD_or, ih, hbit]
    by_cases hi : g = i
    · simp [hi]
    · have hmem : i < g + 1 ↔ i < g := by omega
      simp only [hmem, hi, decide_false, Bool.false_and, Bool.or_false]

theorem getLsbD_laneMaskOf (ls : List Nat) {l : Nat} (h : l < 128) : (laneMaskOf ls).getLsbD l = decide (l ∈ ls) := by
  induction ls using List.reverseRecOn with
  | nil => simp [laneMaskOf]
  | append_singleton ls k ih =>
    have hstep : laneMaskOf (ls ++ [k]) = laneMaskOf ls ||| laneBit k := by simp [laneMaskOf]
    rw [hstep, BitVec.getLsbD_or, ih, laneBit, getLsbD_ofNat_two_pow h]
    simp [eq_comm]

section votes
variable {f : XlF} {s : State} {t t' : Thread} {g : Nat} {b : Nat → Word}

theorem xlVote_ballot (h : XlReady (.vote f) f false true true s t t' g b) (htos : f.tos = false) :
    xlVote (.vote f) f s = .next ((t'.putWords f.vd.toNat ((xlLanes t' f).map fun l =>
      (l, subMask g (l - l % g) fun k => xlOn t' f k && b k != 0))).advance 8) :=
  xlRun_of_xlReady rfl h (by simp only [htos]; rfl)

theorem xlVote_group (h : XlReady (.vote f) f false true true s t t' g b) (htos : f.tos = true) :
    xlVote (.vote f) f s = .next (Thread.advance { t' with
      w := t'.w.setGroup f.vd.toNat (laneMaskOf ((List.range t'.w.width).filter fun l => xlOn t' f l && b l != 0)) } 8) :=
  xlRun_of_xlReady rfl h (by simp only [htos]; rfl)

theorem xlMatch_ballot (h : XlReady (.matchLanes f) f false false true s t t' g b) :
    xlMatch (.matchLanes f) f s = .next ((t'.putWords f.vd.toNat ((xlLanes t' f).map fun l =>
      (l, subMask g (l - l % g) fun k => xlOn t' f k && b k == b l))).advance 8) :=
  xlRun_of_xlReady rfl h rfl

end votes

theorem votesAndMatches : Part.VotesAndMatches := by
  intro f s t t' g b _
  refine ⟨fun h htos => ⟨_, fun l i hi => ?_, (exec_vote f s).trans (xlVote_ballot h htos)⟩,
    fun h htos => ⟨_, fun l hl => ?_, (exec_vote f s).trans (xlVote_group h htos)⟩,
    fun h _ => ⟨_, fun l i hi => ?_, (exec_matchLanes f s).trans (xlMatch_ballot h)⟩⟩
  · rw [getLsbD_subMask _ _ _ hi, Bool.and_assoc]
  · rw [getLsbD_laneMaskOf _ hl]
    simp [Bool.and_assoc, bne, beq_eq_decide]
  · rw [getLsbD_subMask _ _ _ hi, Bool.and_assoc]

/-- Settles O23: the shuffles by their exact integer source, the ballots bit by bit, and the limits of G. -/
theorem crossLane : Obligations.CrossLane := ⟨shuffles, votesAndMatches, subGroupLimits⟩

end Sys2Proof.Machine
end
